-- ==== Sys2Proof/Word.lean ====
section
/-! DEFINITION. The words of the WZ-4160 model: a byte, a register word, and the finite tables the records are kept in. -/

namespace Sys2Proof

/-- One byte of exchange memory or of a field telegram. -/
abbrev Byte := BitVec 8

/-- One 32-bit word of the register window (spec 09, section 9.3). -/
abbrev Word32 := BitVec 32

/-- A finite table of records by number: a list of (number, record) pairs, numbers rising.
The operations over it stand in `Machine/Table.lean`. -/
abbrev Tab (α : Type) := List (Nat × α)

end Sys2Proof
end

