-- ==== Sys2Proof/Syntax.lean ====
section
/-! DEFINITION. The commands of the WZ-4160: one constructor per row of spec/opcode_table.json, with what each carries. -/

namespace Sys2Proof

/-- The body of a STATUS telegram as it stands on the line, before R45 takes the values (11.7). -/
structure StatusReport where
  doneSeq : BitVec 8
  xEncoder : BitVec 16
  xLaser : BitVec 16
  y : BitVec 16
  hook : BitVec 16
  tong : BitVec 8
  /-- Signed, cm/s, positive eastward. -/
  speed : BitVec 16
  /-- Signed raw hook load count. -/
  load : BitVec 24
  faultCode : BitVec 8
  deriving DecidableEq, Repr

/-- The body of a TAG telegram as it stands on the line (11.7). -/
structure TagReport where
  seq : BitVec 8
  present : BitVec 8
  id : BitVec 32
  deriving DecidableEq, Repr

/-- The body of a SAMPLE telegram as it stands on the line: signed raw counts of both platforms (11.7). -/
structure SampleReport where
  front : BitVec 24
  rear : BitVec 24
  deriving DecidableEq, Repr

/-- One software write into exchange memory: the bytes given, from a byte offset upward (R174). -/
structure HostWrite where
  offset : Nat
  bytes : List Byte
  deriving DecidableEq, Repr

/-- The register writes that R179 gives no effect. -/
inductive IgnoredWrite where
  /-- A 32-bit write to IDENT. -/
  | ident (value : Word32)
  /-- A 32-bit write to CONTROL with bit 31, RESET, clear: the other 31 bits. -/
  | controlResetClear (low : BitVec 31)
  /-- A write of another width (in bytes) at a byte offset of the register window. -/
  | otherWidth (offset width value : Nat)
  deriving DecidableEq, Repr

/-- The field report that brings a weighing session its last permitted sample. -/
inductive LimitSample where
  /-- A valid STATUS of a crane, whose raw load is the hook sample. -/
  | hook (crane : Fin 4) (report : StatusReport)
  /-- A valid SAMPLE of a bay. -/
  | platform (bay : Fin 3) (report : SampleReport)
  deriving DecidableEq, Repr

/-- The commands, in the order of spec/opcode_table.json. The 28 orders carry no operands of their own: such a command
is the step in which the order's owner takes the order at the head of its inbound list (R185), and the order's
fields are in the copy INTAKE made of the cell (R183). Log entry 1. -/
inductive Instr where
  | setColumn
  | setStation
  | placeCoil
  | setPolicy
  | announceCoil
  | removeCoil
  | holdCoil
  | queryCoil
  | columnOut
  | columnIn
  | storeCoil
  | relocateCoil
  | setRunway
  | setCrane
  | abortMove
  | craneOut
  | craneIn
  | setChannel
  | zeroSet
  | zeroRearm
  | setBay
  | truckArrive
  | loadPlan
  | truckRelease
  | truckCancel
  | start
  | haltAll
  | resume
  /-- A 32-bit write of POST. -/
  | post (value : Word32)
  /-- A 32-bit write of NOTICE. -/
  | notice (value : Word32)
  /-- A 32-bit write of NOTICE_ON. -/
  | noticeOn (value : Word32)
  /-- A 32-bit write of NOTICE_OFF. -/
  | noticeOff (value : Word32)
  /-- A register write without effect, and the exchange memory writes software made in the same burst before it.
  The table has no row for a write into exchange memory; this is where the model takes them. Log entry 2. -/
  | registerWriteIgnored (burst : List HostWrite) (write : IgnoredWrite)
  /-- Power-on reset, with the level of the two strap pins. -/
  | powerOnReset (straps : Fin 4)
  /-- A CONTROL write with the RESET bit set (the other 31 bits are not examined), with the level of the strap pins. -/
  | partReset (low : BitVec 31) (straps : Fin 4)
  | clearingComplete
  | intake
  | status (crane : Fin 4) (report : StatusReport)
  | tag (crane : Fin 4) (report : TagReport)
  | badTelegram (crane : Fin 4)
  | reportExpiry (crane : Fin 4)
  | sample (bay : Fin 3) (report : SampleReport)
  | badSampleTelegram (bay : Fin 3)
  | sampleExpiry (channel : Fin 10)
  /-- A bay's area input changes level: `low` is true when it is now low (someone is in the bay). -/
  | areaChange (bay : Fin 3) (low : Bool)
  /-- The sample that brings a session to its limit arrives. Log entry 4. -/
  | sessionExpiry (last : LimitSample)
  | moveBegin (crane : Fin 4)
  deriving DecidableEq, Repr

end Sys2Proof
end

