-- ==== Sys2Proof/Machine/Bits.lean ====
section
/-! DEFINITION. Little-endian fields (R174, 11) and the roundings the guide names (spec 00, Arithmetic and rounding). -/

namespace Sys2Proof

/-- The low `n` bytes of `v`, least significant first. -/
def leBytes : Nat → Nat → List Byte
  | 0, _ => []
  | n + 1, v => BitVec.ofNat 8 v :: leBytes n (v / 256)

/-- The number the bytes spell, least significant first. -/
def leNat : List Byte → Nat
  | [] => 0
  | b :: rest => b.toNat + 256 * leNat rest

/-- A signed field of `n` bytes, two's complement. -/
def leSigned (n : Nat) (v : Int) : List Byte :=
  leBytes n (v % ((256 ^ n : Nat) : Int)).toNat

/-- The signed number a field of bytes spells, two's complement. -/
def leInt (bs : List Byte) : Int :=
  let v := leNat bs
  if v < 256 ^ bs.length / 2 then (v : Int) else (v : Int) - ((256 ^ bs.length : Nat) : Int)

/-- `n` zero bytes. -/
def zeros (n : Nat) : List Byte := List.replicate n 0

/-- The bytes, filled up with zeros or cut to `n` bytes. -/
def padTo (n : Nat) (bs : List Byte) : List Byte := (bs ++ zeros n).take n

/-- The `n` bytes of a field at offset `off` of a body; bytes beyond its end read 0. -/
def field (body : List Byte) (off n : Nat) : List Byte := padTo n (body.drop off)

/-- An unsigned field. -/
def fieldNat (body : List Byte) (off n : Nat) : Nat := leNat (field body off n)

/-- A signed field. -/
def fieldInt (body : List Byte) (off n : Nat) : Int := leInt (field body off n)

/-- One byte of a small number. -/
def byte (n : Nat) : Byte := BitVec.ofNat 8 n

/-- `n ÷ d`, rounded half away from zero. -/
def divHalfAway (n : Int) (d : Nat) : Int :=
  if 0 ≤ n then (2 * n + d) / (2 * d) else -((2 * -n + d) / (2 * d))

/-- `n ÷ d`, rounded up. -/
def divUp (n d : Nat) : Nat := (n + d - 1) / d

/-- The distance between two numbers. -/
def absDiff (a b : Nat) : Nat := a - b + (b - a)

end Sys2Proof
end

