-- ==== Sys2Proof/Config.lean ====
section
/-! DEFINITION. What the specification leaves open (free values, without a body) and the fixed sizes it gives. -/

namespace Sys2Proof

/-- Free value. R126 gives two orders for the loss of a link during WEIGH: WU clears the data flag first and CU
updates the coil record with NO_WEIGHT, or the FAULT reaches CU first and the record keeps its fields.
The answer is read once per such loss, applied to the counter `State.freeCount`. Log entry 7. -/
opaque Config.linkLossReachesWuFirst : Nat → Bool

/-- Free value. The drift field of a CHANNEL_FAULT entry holds 2 bytes (11.3); what it holds for a drift
of more than 65,535 kg is not stated. Log entry 8. -/
opaque Config.wideDriftField : Nat → BitVec 16

/-- Free value. When one platform reports OVER and the other NO_LOAD, R140 and R156 do not say which of the two is
the cause (true: OVER). Log entry 9. -/
opaque Config.mixedCauseIsOver : Nat → Bool

/-- The size of exchange memory, 128 KiB (R174). -/
def Config.windowSize : Nat := 0x20000

/-- The number of cells (R174). -/
def Config.cellCount : Nat := 128

/-- The places of the journal ring (R191). -/
def Config.journalPlaces : Nat := 512

/-- The places of the holding queue (R193). -/
def Config.holdingPlaces : Nat := 32

/-- The places of the post queue (R182). -/
def Config.postPlaces : Nat := 8

/-- The live moves the move list holds (R83). -/
def Config.moveNumbers : Nat := 32

/-- The live moves one crane's queue holds (R84). -/
def Config.queuePlaces : Nat := 8

/-- The records of the coil register (R13). -/
def Config.coilRecords : Nat := 2048

/-- The indexed storage positions, 64 columns of 24 (R5). -/
def Config.slotCount : Nat := 1536

end Sys2Proof
end

