-- ==== Sys2Proof/Machine/Frames.lean ====
section
/-! DEFINITION. Step telegrams and the frame every telegram stands in: the characters a telegram is on its line (R44, 11.7). -/

namespace Sys2Proof.Machine

/-- A step telegram as CU sends it (R44, 11.7). -/
inductive StepTelegram where
  | goto (seq x y : Nat) (lo hi : Int)
  | limit (seq : Nat) (lo hi : Int)
  | lower (seq height : Nat)
  | grip (seq : Nat)
  | tagread (seq : Nat)
  | hoist (seq height : Nat)
  | release (seq : Nat)
  | stop (seq : Nat) (now : Bool)
  deriving DecidableEq, Repr

/-! ## Frames (11.7) -/

/-- The start character. -/
def startChar : Byte := 0x7E

/-- The 8-bit sum of characters. -/
def sum8 (bs : List Byte) : Byte := bs.foldl (· + ·) 0

/-- Address, kind, body length, body: what the check character covers. -/
def frameCore (address : Nat) (kind : Byte) (body : List Byte) : List Byte :=
  byte address :: kind :: byte body.length :: body

/-- A whole telegram; the check character makes the sum from the address on 0 (section 3.1). -/
def frame (address : Nat) (kind : Byte) (body : List Byte) : List Byte :=
  startChar :: frameCore address kind body ++ [-(sum8 (frameCore address kind body))]

/-- The kind and body of a step telegram (11.7). -/
def StepTelegram.kindAndBody : StepTelegram → Byte × List Byte
  | .goto seq x y lo hi =>
    (0x01, byte seq :: leBytes 2 x ++ leBytes 2 y ++ leBytes 2 lo.toNat ++ leBytes 2 hi.toNat)
  | .limit seq lo hi => (0x02, byte seq :: leBytes 2 lo.toNat ++ leBytes 2 hi.toNat)
  | .lower seq h => (0x03, byte seq :: leBytes 2 h)
  | .grip seq => (0x04, [byte seq])
  | .tagread seq => (0x05, [byte seq])
  | .hoist seq h => (0x06, byte seq :: leBytes 2 h)
  | .release seq => (0x07, [byte seq])
  | .stop seq now => (0x08, [byte seq, if now then 2 else 1])

/-- The characters of a step telegram on a crane's link. -/
def StepTelegram.characters (crane : Nat) (t : StepTelegram) : List Byte :=
  frame crane t.kindAndBody.1 t.kindAndBody.2

end Sys2Proof.Machine
end

