-- ==== Sys2Proof/Machine/State.lean ====
section
/-! DEFINITION. Every record the specification gives the WZ-4160, as plain data, and the state right after reset. -/

namespace Sys2Proof.Machine

/-! ## Names (11.1) -/

/-- The four operating modes (R161). -/
inductive Mode where
  | resetting | setup | run | halted
  deriving DecidableEq, Repr

/-- Which reset last began (R170). -/
inductive ResetCause where
  | none | powerOn | part
  deriving DecidableEq, Repr

/-- The states of a storage position (R6). -/
inductive SlotState where
  | off | free | targeted | held | leaving
  deriving DecidableEq, Repr

/-- The states of an entry station (R9). -/
inductive StationState where
  | empty | held | leaving
  deriving DecidableEq, Repr

/-- Where a coil is (R14). -/
inductive Place where
  | station (s : Nat)
  | slot (index : Nat)
  | hook (crane : Nat)
  | bed (bay entry : Nat)
  deriving DecidableEq, Repr

/-- The weigh status of a coil record (R14). -/
inductive WeighStatus where
  | unweighed | weighed | mismatch | unsettled | over
  deriving DecidableEq, Repr

/-- The states of a crane (R56). -/
inductive CraneState where
  | absent | out | idle | busy | yielding | stopped | fault
  deriving DecidableEq, Repr

/-- The states of a crane link (R48). -/
inductive Link where
  | up | doubt | lost
  deriving DecidableEq, Repr

/-- Position lock (R52). -/
inductive Lock where
  | locked | lost
  deriving DecidableEq, Repr

/-- The tong (R45). -/
inductive Tong where
  | open_ | closedEmpty | closedLoaded
  deriving DecidableEq, Repr

/-- Why a move FAILED (R109); DRIVE, LINK and OVERRUN are also the reasons of a crane in FAULT (R58). -/
inductive Reason where
  | tag | noCoil | weight | overload | tierWeight | axle | drive | link | overrun
  deriving DecidableEq, Repr

/-- The phases of a move (R88). -/
inductive Phase where
  | queued | leg1Wait | leg1 | pickLower | pickGrip | pickVerify | pickHoist | weigh
  | leg2Wait | leg2 | setLower | setRelease | setHoist | done
  deriving DecidableEq, Repr

/-- The stop causes of a crane (R57); `west` and `east` are NEIGHBOUR of the western and the eastern neighbour. -/
inductive Cause where
  | haltAll | lockLost | west | east
  deriving DecidableEq, Repr

/-- The states of a bay (section 7.2). -/
inductive BayState where
  | unconfigured | empty | arriving | arrived | loading | planHold | check | ready | discrepant
  deriving DecidableEq, Repr

/-- The states of a bed entry (R142). -/
inductive BedState where
  | free | reserved | filled | leaving
  deriving DecidableEq, Repr

/-- The states of a plan entry (R145). -/
inductive EntryState where
  | waiting | digging | moving | loaded | blocked
  deriving DecidableEq, Repr

/-- Why a plan entry is BLOCKED (R145). -/
inductive BlockCause where
  | noSlot | noCrane | coilState | aborted | unloaded
  | failed (reason : Reason)
  deriving DecidableEq, Repr

/-- A load limit (11.1). -/
inductive LoadGroup where
  | front | rear | gross
  deriving DecidableEq, Repr

/-- Why a platform session was opened (R122). -/
inductive Purpose where
  | arrival | check
  deriving DecidableEq, Repr

/-! ## Runway -/

/-- A span of runway [lo, hi] in cm (section 4.2). -/
structure Span where
  lo : Int := 0
  hi : Int := 0
  deriving DecidableEq, Repr

/-- The runway parameters (R60), with their values after reset. -/
structure Runway where
  configured : Bool := false
  lo : Nat := 0
  hi : Nat := 0
  margin : Nat := 50
  gap : Nat := 200
  decel : Nat := 40
  lockWindow : Nat := 30
  clearHeight : Nat := 900
  bayMargin : Nat := 300
  deriving DecidableEq, Repr

/-- The kind of a leg and of its request (section 4.3). -/
inductive LegKind where
  | move | yield
  deriving DecidableEq, Repr

/-- The direction RU fixes when it grants a leg (R68). -/
inductive Direction where
  | east | west | none
  deriving DecidableEq, Repr

/-- A granted leg in progress, with the acceptance sequence of its request (R66, R68). -/
structure Leg where
  kind : LegKind
  targetX : Nat
  targetY : Nat
  seq : Nat
  direction : Direction
  deriving DecidableEq, Repr

/-- A waiting leg request (section 4.3). `serves` is the crane whose request a YIELD serves; `remainder` marks the
waiting remainder of a leg cut at a bay (R80). -/
structure Request where
  crane : Nat
  kind : LegKind
  targetX : Nat
  targetY : Nat
  seq : Nat
  serves : Nat := 0
  remainder : Bool := false
  deriving DecidableEq, Repr

/-- A crane's yield: pending until granted (R71). `cycle` marks a yield of R73; `back` is the state the crane
returns to (IDLE or BUSY). -/
structure Yield where
  granted : Bool
  cycle : Bool
  serves : Nat
  back : CraneState
  deriving DecidableEq, Repr

/-- What a DEFERRED move waits for: the leg of the other crane of the pair (R73). -/
structure Deferral where
  other : Nat
  otherEnded : Bool := false
  deriving DecidableEq, Repr

/-! ## Cranes -/

/-- What a step asks of the drive (R44). A GOTO takes its limits from the grant when it is sent. -/
inductive StepKind where
  | goto (x y : Nat)
  | lower (height : Nat)
  | grip
  | tagread
  | hoist (height : Nat)
  | release
  deriving DecidableEq, Repr

/-- The current step of a crane, with its sequence number (R43). -/
structure Step where
  seq : Nat
  kind : StepKind
  deriving DecidableEq, Repr

/-- Whether the current step has been given up by a STOP: `stop` is sent again when its hold ends (R57, R103);
`zone` was given up at a bay (R79) and waits for its leg's grant (R80). -/
inductive GivenUp where
  | no | stop | zone
  deriving DecidableEq, Repr

/-- A stop-cause set (R57). -/
structure Causes where
  haltAll : Bool := false
  lockLost : Bool := false
  west : Bool := false
  east : Bool := false
  deriving DecidableEq, Repr

/-- CU's and RU's records of one crane. -/
structure Crane where
  /-- Link supervision (R48 to R51). The report expiry is the command REPORT_EXPIRY. -/
  link : Link := .up
  badCount : Nat := 0
  recoveryCount : Nat := 0
  /-- Position lock (R52). -/
  lock : Lock := .locked
  missCount : Nat := 0
  hitCount : Nat := 0
  /-- At least one valid STATUS since the last reset (R165, check 6). -/
  reported : Bool := false
  /-- The last STATUS values (R45). -/
  doneSeq : Nat := 0
  xEncoder : Nat := 0
  xLaser : Nat := 0
  y : Nat := 0
  hook : Nat := 0
  tong : Tong := .open_
  speed : Int := 0
  load : Int := 0
  faultCode : Nat := 0
  /-- The two positions and the tong of the last report handled whole (R54), which is the last that CU handed on to RU (R45). -/
  wholeEncoder : Nat := 0
  wholeLaser : Nat := 0
  wholeTong : Tong := .open_
  /-- The crane state, the state it resumes to, its FAULT reason and its stop causes (R56 to R58). -/
  state : CraneState := .absent
  resume : CraneState := .idle
  reason : Reason := .drive
  causes : Causes := {}
  /-- The sequence number last sent and the current step (R43). -/
  lastSeq : Nat := 0
  step : Option Step := none
  givenUp : GivenUp := .no
  /-- A step that waits for a hold to end (R57, R103). -/
  waiting : Option StepKind := none
  /-- The read kept for the current TAGREAD (R47): the id of a present tag, or `some none`, an absent tag. -/
  tagRead : Option (Option Nat) := none
  /-- The crane's queue of moves, head first (R84). -/
  queue : List Nat := []
  /-- RU: service range, half width and configured flag (R61). -/
  configured : Bool := false
  svcLo : Nat := 0
  svcHi : Nat := 0
  halfWidth : Nat := 0
  /-- RU: the grant and the leg (R63, R66), and a narrowing not yet made (R69). -/
  grant : Span := {}
  leg : Option Leg := none
  narrowDue : Bool := false
  /-- RU: whether the grant is held widened, the grant before the first widening, and the NEIGHBOUR causes the
  widening placed on the western and the eastern neighbour (R75 to R77). -/
  heldWide : Bool := false
  beforeWide : Span := {}
  placedWest : Bool := false
  placedEast : Bool := false
  /-- RU: yields and wait cycles (R71, R73). -/
  yield : Option Yield := none
  deferral : Option Deferral := none
  deriving DecidableEq, Repr

/-! ## Moves -/

/-- Who asked for a move (R83). CELL carries the take of the cell, for the test of R177. -/
inductive Origin where
  | cell (n take : Nat)
  | plan (bay entry : Nat)
  | dig (bay entry : Nat)
  deriving DecidableEq, Repr

/-- The variants of ABORT_MOVE (R104). -/
inductive AbortKind where
  | now | atSafe | quiet
  deriving DecidableEq, Repr

/-- The abort request of a move and the cell that placed it (R104). -/
structure AbortRequest where
  kind : AbortKind
  cell : Nat
  take : Nat
  deriving DecidableEq, Repr

/-- Why the withdrawal steps run (R94). -/
inductive Withdrawal where
  | noCoil | tag | aborted
  deriving DecidableEq, Repr

/-- How a move ends (R109). -/
inductive MoveResult where
  | done
  | aborted
  | failed (reason : Reason)
  deriving DecidableEq, Repr

/-- A live move (R83). Its result exists only in the handling that ends it. -/
structure Move where
  seq : Nat
  origin : Origin
  tag : Nat := 0
  coil : Nat
  source : Place
  dest : Place
  /-- The target was AUTO (the target kind of R83). -/
  auto : Bool
  crane : Nat
  phase : Phase := .queued
  attempts : Nat := 0
  deferred : Bool := false
  /-- DEFERRED at some time (R110). -/
  wasDeferred : Bool := false
  setBack : Option Reason := none
  withdrawal : Option Withdrawal := none
  abort : Option AbortRequest := none
  /-- The late-abort mark (R107). -/
  late : Bool := false
  /-- The positions looked up when the move was created or re-chosen (R3, R90). -/
  sourceX : Nat
  sourceY : Nat
  destX : Nat
  destY : Nat
  deriving DecidableEq, Repr

/-! ## Store -/

/-- A column of the column table (R1, R4). -/
structure Column where
  configured : Bool := false
  x : Nat := 0
  mask : BitVec 12 := 0
  maxWidth : Nat := 0
  maxDiameter : Nat := 0
  lowerLimit : Nat := 0
  upperLimit : Nat := 0
  out : Bool := false
  deriving DecidableEq, Repr

/-- A slot of the slot table (R6). -/
structure Slot where
  state : SlotState := .off
  coil : Option Nat := none
  move : Option Nat := none
  deriving DecidableEq, Repr

/-- A record of the entry-station table (R8, R9). -/
structure Station where
  configured : Bool := false
  x : Nat := 0
  y : Nat := 0
  state : StationState := .empty
  coil : Option Nat := none
  move : Option Nat := none
  deriving DecidableEq, Repr

/-- A coil record (R14). -/
structure Coil where
  id : Nat
  declared : Nat
  measured : Option Nat := none
  status : WeighStatus := .unweighed
  width : Nat
  diameter : Nat
  group : Nat
  place : Place
  qualityHold : Bool := false
  outbound : Bool := false
  placeDoubt : Bool := false
  move : Option Nat := none
  deriving DecidableEq, Repr

/-- The policy values (R24), with their values after reset. -/
structure Policy where
  cradleTolerance : Nat := 100
  pUp : Nat := 20
  gMix : Nat := 15
  gEmpty : Nat := 5
  cZone : Nat := 40
  weighMin : Nat := 20
  weighPm : Nat := 15
  deriving DecidableEq, Repr

/-! ## Weighing -/

/-- A weighing session's record of one channel: the window, oldest first, `none` an overrange mark, and the steady
count (R119, R120). -/
structure ChannelWindow where
  entries : List (Option Int) := []
  steady : Nat := 0
  deriving DecidableEq, Repr

/-- An open hook session (R122). -/
structure HookSession where
  window : ChannelWindow := {}
  count : Nat := 0
  deriving DecidableEq, Repr

/-- An open platform session (R122). -/
structure PlatformSession where
  purpose : Purpose
  front : ChannelWindow := {}
  rear : ChannelWindow := {}
  count : Nat := 0
  deriving DecidableEq, Repr

/-- A batch set in progress (R128). -/
structure BatchSet where
  sum : Int := 0
  inBatch : Nat := 0
  batches : Nat := 0
  deriving DecidableEq, Repr

/-- A zero set in progress and the cell it answers (R131). -/
structure ZeroSet where
  cell : Nat
  take : Nat
  sum : Int := 0
  count : Nat := 0
  deriving DecidableEq, Repr

/-- A weighing channel (R113, R114, R127, R128). -/
structure Channel where
  configured : Bool := false
  data : Bool := false
  fault : Bool := false
  expiryRunning : Bool := false
  cap : Nat := 0
  zero : Int := 0
  span : Nat := 0
  wref : Nat := 0
  points : List Int := [0, 0, 0, 0, 0, 0, 0, 0, 0]
  settleBand : Nat := 0
  settleCount : Nat := 0
  batches : Nat := 0
  trackBand : Nat := 0
  alarm : Nat := 0
  latchMode : Bool := false
  lastWeight : Nat := 0
  latched : Bool := false
  batchSet : Option BatchSet := none
  zeroSet : Option ZeroSet := none
  /-- Whether the channel's last sample was eligible by the conditions of R128 (read by R131). -/
  lastEligible : Bool := false
  session : Option HookSession := none
  deriving DecidableEq, Repr

/-! ## Loading -/

/-- A plan entry, which is at the same time a bed entry (R142, R145). A RESERVED entry with a bed weight is
committed. `axle` keeps the group an axle recheck found exceeded until the move's end (R149). -/
structure Entry where
  coil : Nat
  position : Nat
  state : EntryState := .waiting
  started : Bool := false
  cause : Option BlockCause := none
  bed : BedState := .free
  bedWeight : Option Nat := none
  frontShare : Nat := 0
  rearShare : Nat := 0
  axle : Option LoadGroup := none
  deriving DecidableEq, Repr

/-- A bay context (section 7), with RU's breach list (R78) and CU's bed-hold flag (R103) of the bay. -/
structure Bay where
  state : BayState := .unconfigured
  bxLo : Nat := 0
  bxHi : Nat := 0
  centre : Nat := 0
  frontLine : Nat := 0
  checkMin : Nat := 0
  checkPm : Nat := 0
  /-- The area state is OCCUPIED. -/
  occupied : Bool := false
  bedHold : Bool := false
  breach : List Nat := []
  truckRef : Nat := 0
  spacing : Nat := 0
  frontLimit : Nat := 0
  rearLimit : Nat := 0
  grossLimit : Nat := 0
  tareFront : Nat := 0
  tareRear : Nat := 0
  front : Nat := 0
  rear : Nat := 0
  plan : Tab Entry := []
  remaining : Nat := 0
  /-- The cell and take of the order waiting on a weighing. -/
  waitingCell : Option (Nat × Nat) := none
  session : Option PlatformSession := none
  deriving DecidableEq, Repr

/-! ## Exchange Port -/

/-- An order as XP copied it at the take (R183). -/
structure Order where
  cell : Nat
  take : Nat
  kind : Nat
  tag : Nat
  body : List Byte
  deriving DecidableEq, Repr

/-- A descriptor in the post queue and how many of its cells intake has dealt with (R181, R183). -/
structure Descriptor where
  first : Nat
  count : Nat
  dealt : Nat := 0
  deriving DecidableEq, Repr

/-- The last skipped cell (R177, R183): cause 0 none, 1 NOT_FILLED, 2 ANSWER_LOST. -/
structure Skip where
  cell : Nat := 0
  cause : Nat := 0
  stateByte : Nat := 0
  deriving DecidableEq, Repr

/-- The last refused post (R181): cause 0 none, 1 RESETTING, 2 COUNT, 3 RANGE, 4 QUEUE_FULL. -/
structure RefusedPost where
  first : Nat := 0
  count : Nat := 0
  cause : Nat := 0
  deriving DecidableEq, Repr

/-- A journal entry without its sequence number, as its producer hands it to XP (R190). -/
structure JournalEntry where
  kind : Nat
  subject : Nat
  tag : Nat := 0
  coil : Nat := 0
  /-- The 20 detail bytes. -/
  detail : List Byte := []
  deriving DecidableEq, Repr

/-- Exchange memory: (offset, byte) pairs, offsets strictly rising; an unlisted offset reads 0. -/
abbrev Memory := Tab Byte

/-- The directory groups, slot image entries and coil image entries of which a handling has changed a field (R195). -/
structure Touched where
  groups : List Nat := []
  slots : List Nat := []
  coils : List Nat := []
  deriving DecidableEq, Repr

/-- The whole machine. -/
structure State where
  /-- XP: the mode (R161), the reset cause (R170) and the sampled straps, cranes 0 to `straps` fitted (R171). -/
  mode : Mode := .resetting
  resetCause : ResetCause := .none
  straps : Nat := 0
  /-- XP: the ten notice flags and their enables (R198). -/
  flags : BitVec 10 := 0
  enables : BitVec 10 := 0
  /-- XP: posting and intake (R176, R181 to R183). -/
  posts : List Descriptor := []
  takeCounter : Nat := 1
  lastSkip : Skip := {}
  lastRefused : RefusedPost := {}
  /-- The inbound lists of the five owners (R185), and the mode order XP waits to handle (R163). -/
  inboundSU : List Order := []
  inboundRU : List Order := []
  inboundCU : List Order := []
  inboundWU : List Order := []
  inboundLU : List Order := []
  modeOrder : Option Order := none
  /-- XP: the journal's write count and the holding queue (R191, R193). -/
  writeCount : Nat := 0
  holding : List JournalEntry := []
  /-- Exchange memory (R174) and how far the reset's clearing has come (R171). -/
  mem : Memory := []
  clearedTo : Nat := 0
  /-- XP: the kept editions (R195). -/
  groupEditions : Tab Byte := []
  slotEditions : Tab Byte := []
  coilEditions : Tab Byte := []
  /-- SU: columns, rows, slots, stations, coil register, policy. -/
  columns : Tab Column := []
  rowY : List Nat := [0, 0, 0, 0, 0, 0, 0, 0, 0, 0, 0, 0]
  slots : Tab Slot := []
  stations : Tab Station := []
  coils : Tab Coil := []
  policy : Policy := {}
  /-- RU: the runway, the request list and the stalled pairs by western crane (R74). -/
  runway : Runway := {}
  requests : List Request := []
  stalled : List Nat := []
  /-- CU: the cranes, the move list and the next acceptance sequence (R83, R85). -/
  cranes : Tab Crane := []
  moves : Tab Move := []
  nextSeq : Nat := 1
  /-- WU: the ten channels. -/
  channels : Tab Channel := []
  /-- LU: the three bay contexts. -/
  bays : Tab Bay := []
  /-- The bay area inputs that are low (pins). -/
  areaLow : List Nat := []
  /-- The receivers of CU and WU, by line: 0 to 3 the crane links, 4 + b the scale line of bay b. A line that is inside a
  telegram is listed, with the characters since the start character (R42, R112, R171). -/
  receiving : Tab (List Byte) := []
  /-- CU's senders, by crane: the characters of step telegrams not yet on the line; a link not listed sends nothing (R44,
  R171). -/
  outgoing : Tab (List Byte) := []
  /-- The model's own: telegrams sent on the crane links by the last command, in order. Log entry 10. -/
  sent : List (Nat × StepTelegram) := []
  /-- The model's own: what the command in hand is to write at its end. Empty between commands. Log entry 14. -/
  touched : Touched := {}
  /-- The model's own: how many free values have been read. -/
  freeCount : Nat := 0
  /-- The model's own: the commands that wait, first in, first out. -/
  pending : List Instr := []
  deriving DecidableEq, Repr

/-- A fitted crane right after reset (R56): IDLE, link UP, LOCKED, no cause, nothing queued. -/
def Crane.fitted : Crane := { state := .idle }

/-- The records every block takes at a reset with the given strap level (R171, steps 1 to 4): power-on, with
exchange memory cleared as far as `clearedTo` 0. A telegram being received is dropped, one being sent is abandoned, and the
STOP RAMP of each fitted crane is all its link sends. -/
def State.atReset (straps : Nat) (cause : ResetCause) : State :=
  { mode := .resetting
    resetCause := cause
    straps := straps
    cranes := [0, 1, 2, 3].map fun c => (c, if c ≤ straps then Crane.fitted else {})
    receiving := []
    outgoing := ([0, 1, 2, 3].filter (· ≤ straps)).map fun c => (c, (StepTelegram.stop 0 false).characters c)
    sent := ([0, 1, 2, 3].filter (· ≤ straps)).map fun c => (c, .stop 0 false) }

/-- The machine right after power-on reset: mode RESETTING, the clearing about to begin. One crane fitted (straps 0),
every area input high: DESIGN CHOICE, log entries 5 and 6. -/
def State.reset : State := State.atReset 0 .powerOn

/-- Why the block stops. -/
inductive Fault where
  /-- Raised by REGISTER_WRITE_IGNORED alone: its burst writes an offset outside the 128 KiB window, which
  does not exist (R174). Safe: nothing is claimed of such a write. -/
  | outsideWindow
  deriving DecidableEq, Repr

/-- Why the model gives a command no meaning. -/
inductive Refusal where
  /-- Raised by exec for a command without a meaning; no arm does. Safe. -/
  | notModelled (mnemonic : String)
  deriving DecidableEq, Repr

end Sys2Proof.Machine
end

