-- ==== Sys2Proof/Machine/Codes.lean ====
section
/-! DEFINITION. The numeric codes of the enumerations (11.1), the answer codes and the order kinds (11.2). -/

namespace Sys2Proof.Machine

def Mode.code : Mode → Nat
  | .resetting => 0
  | .setup => 1
  | .run => 2
  | .halted => 3

def ResetCause.code : ResetCause → Nat
  | .none => 0
  | .powerOn => 1
  | .part => 2

def SlotState.code : SlotState → Nat
  | .off => 0
  | .free => 1
  | .targeted => 2
  | .held => 3
  | .leaving => 4

def CraneState.code : CraneState → Nat
  | .absent => 0
  | .out => 1
  | .idle => 2
  | .busy => 3
  | .yielding => 4
  | .stopped => 5
  | .fault => 6

/-- Bit 0 HALT_ALL, bit 1 LOCK_LOST, bit 2 NEIGHBOUR (west), bit 3 NEIGHBOUR (east). -/
def Causes.code (c : Causes) : Nat :=
  c.haltAll.toNat + 2 * c.lockLost.toNat + 4 * c.west.toNat + 8 * c.east.toNat

def Link.code : Link → Nat
  | .up => 0
  | .doubt => 1
  | .lost => 2

def Lock.code : Lock → Nat
  | .locked => 0
  | .lost => 1

def Tong.code : Tong → Nat
  | .open_ => 0
  | .closedEmpty => 1
  | .closedLoaded => 2

def WeighStatus.code : WeighStatus → Nat
  | .unweighed => 0
  | .weighed => 1
  | .mismatch => 2
  | .unsettled => 3
  | .over => 4

/-- The three coil flags: bit 0 QUALITY_HOLD, bit 1 OUTBOUND, bit 2 PLACE_DOUBT. -/
def Coil.flagCode (c : Coil) : Nat :=
  c.qualityHold.toNat + 2 * c.outbound.toNat + 4 * c.placeDoubt.toNat

def BayState.code : BayState → Nat
  | .unconfigured => 0
  | .empty => 1
  | .arriving => 2
  | .arrived => 3
  | .loading => 4
  | .planHold => 5
  | .check => 6
  | .ready => 7
  | .discrepant => 8

/-- The published state of a channel (R113): 0 NO_DATA, 1 ACTIVE, 2 FAULTY. -/
def Channel.stateCode (c : Channel) : Nat :=
  if c.fault then 2 else if c.configured && c.data then 1 else 0

def Phase.code : Phase → Nat
  | .queued => 1
  | .leg1Wait => 2
  | .leg1 => 3
  | .pickLower => 4
  | .pickGrip => 5
  | .pickVerify => 6
  | .pickHoist => 7
  | .weigh => 8
  | .leg2Wait => 9
  | .leg2 => 10
  | .setLower => 11
  | .setRelease => 12
  | .setHoist => 13
  | .done => 14

def Reason.code : Reason → Nat
  | .tag => 1
  | .noCoil => 2
  | .weight => 3
  | .overload => 4
  | .tierWeight => 5
  | .axle => 6
  | .drive => 7
  | .link => 8
  | .overrun => 9

def LoadGroup.code : LoadGroup → Nat
  | .front => 1
  | .rear => 2
  | .gross => 3

/-- The place kind: 1 SLOT, 2 STATION, 3 HOOK, 4 BED. -/
def Place.kindCode : Place → Nat
  | .slot _ => 1
  | .station _ => 2
  | .hook _ => 3
  | .bed _ _ => 4

/-- The place value; of a bed entry the bay plus 256 times the entry. -/
def Place.valueCode : Place → Nat
  | .slot i => i
  | .station s => s
  | .hook c => c
  | .bed b e => b + 256 * e

/-- The BAY_STATE cause codes of a BLOCKED entry (11.3). -/
def BlockCause.code : BlockCause → Nat
  | .noSlot => 1
  | .noCrane => 2
  | .coilState => 3
  | .aborted => 4
  | .unloaded => 5
  | .failed _ => 6

/-- The failure reason beside cause FAILED, else 0. -/
def BlockCause.reasonCode : BlockCause → Nat
  | .failed r => r.code
  | _ => 0

/-- The answer codes (11.2). -/
inductive Code where
  | done | aborted | failed
  | badKind | badField | wrongMode
  | unknownCoil | duplicateCoil | registerFull | coilState | placeTaken | stationBusy
  | noSlot | slotUnfit | noCrane | craneState | queueFull | unknownMove
  | bayState | planUnfit | unsettled | channelBusy
  | layout
  deriving DecidableEq, Repr

def Code.code : Code → Nat
  | .done => 1
  | .aborted => 2
  | .failed => 3
  | .badKind => 16
  | .badField => 17
  | .wrongMode => 18
  | .unknownCoil => 32
  | .duplicateCoil => 33
  | .registerFull => 34
  | .coilState => 35
  | .placeTaken => 36
  | .stationBusy => 37
  | .noSlot => 48
  | .slotUnfit => 49
  | .noCrane => 50
  | .craneState => 51
  | .queueFull => 52
  | .unknownMove => 53
  | .bayState => 64
  | .planUnfit => 65
  | .unsettled => 66
  | .channelBusy => 67
  | .layout => 80

/-- An answer: its code and the bytes of its answer area, the rest of the 128 being zeros (R187). -/
structure Answer where
  code : Code
  area : List Byte := []
  deriving DecidableEq, Repr

/-- The absent value of a move number or a crane field, and of an entry index that is no plan's. -/
def absent8 : Nat := 0xFF

/-- The absent value of a measured weight, and AUTO in a target field. -/
def absent16 : Nat := 0xFFFF

/-! ## Order kinds (R200) -/

namespace Kind
def setColumn : Nat := 0x10
def setStation : Nat := 0x11
def placeCoil : Nat := 0x12
def setPolicy : Nat := 0x13
def announceCoil : Nat := 0x14
def removeCoil : Nat := 0x15
def holdCoil : Nat := 0x16
def queryCoil : Nat := 0x17
def columnOut : Nat := 0x18
def columnIn : Nat := 0x19
def storeCoil : Nat := 0x1A
def relocateCoil : Nat := 0x1B
def setRunway : Nat := 0x20
def setCrane : Nat := 0x21
def abortMove : Nat := 0x30
def craneOut : Nat := 0x31
def craneIn : Nat := 0x32
def setChannel : Nat := 0x40
def zeroSet : Nat := 0x41
def zeroRearm : Nat := 0x42
def setBay : Nat := 0x50
def truckArrive : Nat := 0x51
def loadPlan : Nat := 0x52
def truckRelease : Nat := 0x53
def truckCancel : Nat := 0x54
def start : Nat := 0x60
def haltAll : Nat := 0x61
def resume : Nat := 0x62
end Kind

/-- The blocks that own orders (R162). -/
inductive Owner where
  | su | ru | cu | wu | lu | xp
  deriving DecidableEq, Repr

/-- One row of the table of R162: the kind, its owner and the modes it is taken in. -/
structure KindRow where
  kind : Nat
  owner : Owner
  inSetup : Bool
  inRun : Bool
  inHalted : Bool
  deriving DecidableEq, Repr

/-- The table of R162. -/
def kindTable : List KindRow :=
  [ ⟨Kind.setColumn, .su, true, false, false⟩, ⟨Kind.setStation, .su, true, false, false⟩,
    ⟨Kind.placeCoil, .su, true, false, false⟩, ⟨Kind.setRunway, .ru, true, false, false⟩,
    ⟨Kind.setCrane, .ru, true, false, false⟩, ⟨Kind.setBay, .lu, true, false, false⟩,
    ⟨Kind.setChannel, .wu, true, true, true⟩, ⟨Kind.setPolicy, .su, true, true, true⟩,
    ⟨Kind.start, .xp, true, false, false⟩, ⟨Kind.haltAll, .xp, false, true, false⟩,
    ⟨Kind.resume, .xp, false, false, true⟩, ⟨Kind.announceCoil, .su, false, true, true⟩,
    ⟨Kind.removeCoil, .su, true, true, true⟩, ⟨Kind.holdCoil, .su, true, true, true⟩,
    ⟨Kind.queryCoil, .su, true, true, true⟩, ⟨Kind.columnOut, .su, true, true, true⟩,
    ⟨Kind.columnIn, .su, true, true, true⟩, ⟨Kind.storeCoil, .su, false, true, true⟩,
    ⟨Kind.relocateCoil, .su, false, true, true⟩, ⟨Kind.abortMove, .cu, false, true, true⟩,
    ⟨Kind.craneOut, .cu, false, true, true⟩, ⟨Kind.craneIn, .cu, false, true, true⟩,
    ⟨Kind.truckArrive, .lu, false, true, false⟩, ⟨Kind.loadPlan, .lu, false, true, true⟩,
    ⟨Kind.truckRelease, .lu, false, true, true⟩, ⟨Kind.truckCancel, .lu, false, true, true⟩,
    ⟨Kind.zeroSet, .wu, false, true, true⟩, ⟨Kind.zeroRearm, .wu, false, true, true⟩ ]

/-- The row of a kind, none where the kind is not an order kind (R184). -/
def kindRow (kind : Nat) : Option KindRow := kindTable.find? fun r => r.kind == kind

/-- Whether the table of R162 takes the row's kind in the mode; in RESETTING nothing is taken (R172). -/
def KindRow.allowed (r : KindRow) : Mode → Bool
  | .resetting => false
  | .setup => r.inSetup
  | .run => r.inRun
  | .halted => r.inHalted

/-! ## Directory groups, by number: 0 General, 1 Journal, 2 Intake, 3..6 cranes, 7..9 bays, 10..19 channels,
20..83 columns, 84 store totals -/

namespace Group
def general : Nat := 0
def journal : Nat := 1
def intake : Nat := 2
def crane (c : Nat) : Nat := 3 + c
def bay (b : Nat) : Nat := 7 + b
def channel (k : Nat) : Nat := 10 + k
def column (c : Nat) : Nat := 20 + c
def totals : Nat := 84
def count : Nat := 85
end Group

end Sys2Proof.Machine
end

