-- ==== Sys2Proof/Machine/Table.lean ====
section
/-! DEFINITION. Operations over the finite tables: find, erase, put, and the two that read and write with a default. -/

namespace Sys2Proof

/-- The record numbered `k`, if the table lists one. -/
def Tab.find {α : Type} (t : Tab α) (k : Nat) : Option α :=
  match t with
  | [] => none
  | p :: rest => if p.1 = k then some p.2 else Tab.find rest k

/-- The table without number `k`. -/
def Tab.erase {α : Type} (t : Tab α) (k : Nat) : Tab α :=
  t.filter fun p => p.1 != k

/-- The entry set down before the first entry of a greater number. -/
def Tab.place {α : Type} (k : Nat) (v : α) (t : Tab α) : Tab α :=
  match t with
  | [] => [(k, v)]
  | p :: rest => if k < p.1 then (k, v) :: p :: rest else p :: Tab.place k v rest

/-- The table with number `k` holding `v`. -/
def Tab.put {α : Type} (t : Tab α) (k : Nat) (v : α) : Tab α :=
  Tab.place k v (t.erase k)

/-- The record numbered `k`; an unlisted number reads as the default `d`. -/
def Tab.get {α : Type} (d : α) (t : Tab α) (k : Nat) : α :=
  (t.find k).getD d

/-- Writes `v` under `k`, keeping no entry that equals the default `d`. -/
def Tab.set {α : Type} [DecidableEq α] (d : α) (t : Tab α) (k : Nat) (v : α) : Tab α :=
  if v = d then t.erase k else t.put k v

/-- The numbers the table lists. -/
def Tab.keys {α : Type} (t : Tab α) : List Nat :=
  t.map (·.1)

/-- The lowest number not listed, tried from `k` upward, among the `fuel` numbers from `k`. -/
def Tab.lowestFree {α : Type} (t : Tab α) : Nat → Nat → Option Nat
  | 0, _ => none
  | fuel + 1, k => if (t.find k).isNone then some k else t.lowestFree fuel (k + 1)

/-- The first entry whose record passes the test. -/
def Tab.search {α : Type} (t : Tab α) (p : α → Bool) : Option (Nat × α) :=
  t.find? fun e => p e.2

/-- The canonical form: numbers strictly rising, and no entry equal to the default. -/
def Tab.canonical {α : Type} [DecidableEq α] (d : α) (t : Tab α) : Bool :=
  decide (t.keys.Pairwise (· < ·)) && t.all fun p => decide (p.2 ≠ d)

end Sys2Proof
end

