-- ==== Sys2Proof/Machine/Ops.lean ====
section
/-! DEFINITION. The named operations over the records and over exchange memory that every meaning is written with. -/

namespace Sys2Proof.Machine

/-! ## Slot geometry (R5) -/

/-- The column of a slot index. -/
def slotColumn (i : Nat) : Nat := i / 24

/-- The position of a slot index within its column: 0..11 lower rows, 12..22 upper positions, 23 none. -/
def slotPos (i : Nat) : Nat := i % 24

def isLower (i : Nat) : Bool := decide (slotPos i < 12)
def isUpper (i : Nat) : Bool := decide (12 ≤ slotPos i ∧ slotPos i < 23)

/-- The left and the right support of an upper slot. -/
def leftSupport (i : Nat) : Nat := i - 12
def rightSupport (i : Nat) : Nat := i - 11

/-- The upper positions a lower slot supports, left before right. -/
def uppersOver (i : Nat) : List Nat :=
  (if 1 ≤ slotPos i then [i + 11] else []) ++ (if slotPos i ≤ 10 then [i + 12] else [])

/-- Whether the slot exists under a column's row mask (R5). -/
def slotExists (mask : BitVec 12) (pos : Nat) : Bool :=
  if pos < 12 then mask.getLsbD pos
  else if pos < 23 then mask.getLsbD (pos - 12) && mask.getLsbD (pos - 11)
  else false

/-! ## The fields software is shown (R22, R135, R160, R196) -/

/-- A crane's fields that RU and CU write into its group at every change (R82, R111, R196); the current move aside. -/
structure CraneKey where
  state : CraneState
  causes : Causes
  link : Link
  lock : Lock
  queue : List Nat
  grant : Span
  deriving DecidableEq, Repr

def Crane.key (c : Crane) : CraneKey :=
  { state := c.state, causes := c.causes, link := c.link, lock := c.lock, queue := c.queue, grant := c.grant }

/-- A bay's fields that LU writes into its group at every change (R160), and the bed states of its entries, each change of
which is written there with the loads (R148). -/
structure BayKey where
  state : BayState
  occupied : Bool
  remaining : Nat
  truckRef : Nat
  tareFront : Nat
  tareRear : Nat
  front : Nat
  rear : Nat
  bed : List (Nat × BedState × Option Nat × Nat × Nat)
  deriving DecidableEq, Repr

def Bay.key (b : Bay) : BayKey :=
  { state := b.state, occupied := b.occupied, remaining := b.remaining, truckRef := b.truckRef, tareFront := b.tareFront
    tareRear := b.tareRear, front := b.front, rear := b.rear
    bed := b.plan.map fun p => (p.1, p.2.bed, p.2.bedWeight, p.2.frontShare, p.2.rearShare) }

/-- A channel's fields that WU writes into its group at every change (R135). -/
structure ChannelKey where
  state : Nat
  zero : Int
  latched : Bool
  lastWeight : Nat
  deriving DecidableEq, Repr

def Channel.key (c : Channel) : ChannelKey :=
  { state := c.stateCode, zero := c.zero, latched := c.latched, lastWeight := c.lastWeight }

namespace Touched

/-- Each number stands once. -/
def group (t : Touched) (g : Nat) : Touched := { t with groups := t.groups.insert g }
def slot (t : Touched) (i : Nat) : Touched := { t with slots := t.slots.insert i }
def coil (t : Touched) (r : Nat) : Touched := { t with coils := t.coils.insert r }

/-- The groups whose counts a slot's change of state changes: FREE counts in its column and the totals, HELD slots in the
totals (R22). -/
def counts (t : Touched) (i : Nat) (old new : SlotState) : Touched :=
  let t := if (old == .free) == (new == .free) then t else (t.group (Group.column (slotColumn i))).group Group.totals
  if (old == .held) == (new == .held) then t else t.group Group.totals

end Touched

/-! ## Records by number: every change of one notes the image entries and groups that show it, to be written at the
handling's end (R195) -/

namespace State

def crane (s : State) (c : Nat) : Crane := Tab.get {} s.cranes c
def setCrane (s : State) (c : Nat) (v : Crane) : State :=
  { s with
    cranes := s.cranes.put c v
    touched := if (s.crane c).key = v.key then s.touched else s.touched.group (Group.crane c) }
def modCrane (s : State) (c : Nat) (f : Crane → Crane) : State := s.setCrane c (f (s.crane c))

def bay (s : State) (b : Nat) : Bay := Tab.get {} s.bays b
def setBay (s : State) (b : Nat) (v : Bay) : State :=
  { s with
    bays := s.bays.put b v
    touched := if (s.bay b).key = v.key then s.touched else s.touched.group (Group.bay b) }
def modBay (s : State) (b : Nat) (f : Bay → Bay) : State := s.setBay b (f (s.bay b))

def channel (s : State) (k : Nat) : Channel := Tab.get {} s.channels k
def setChannel (s : State) (k : Nat) (v : Channel) : State :=
  { s with
    channels := s.channels.put k v
    touched := if (s.channel k).key = v.key then s.touched else s.touched.group (Group.channel k) }
def modChannel (s : State) (k : Nat) (f : Channel → Channel) : State := s.setChannel k (f (s.channel k))

def column (s : State) (c : Nat) : Column := Tab.get {} s.columns c
def setColumn (s : State) (c : Nat) (v : Column) : State := { s with columns := s.columns.put c v }

def station (s : State) (n : Nat) : Station := Tab.get {} s.stations n
def setStation (s : State) (n : Nat) (v : Station) : State := { s with stations := s.stations.put n v }

/-- The slot table; a slot it does not list is OFF. -/
def slot (s : State) (i : Nat) : Slot := Tab.get {} s.slots i
def setSlot (s : State) (i : Nat) (v : Slot) : State :=
  let old := s.slot i
  { s with
    slots := s.slots.set {} i v
    touched :=
      (if old.state = v.state ∧ old.coil = v.coil then s.touched else s.touched.slot i).counts i old.state v.state }

/-- The coil register: a record number not in use has no record (R13). -/
def coil? (s : State) (r : Nat) : Option Coil := s.coils.find r
def setCoil (s : State) (r : Nat) (v : Coil) : State :=
  { s with
    coils := s.coils.put r v
    touched :=
      match s.coil? r with
      | some c => if c = v then s.touched else s.touched.coil r
      | none => (s.touched.coil r).group Group.totals }
def removeCoil (s : State) (r : Nat) : State :=
  { s with
    coils := s.coils.erase r
    touched := if (s.coil? r).isSome then (s.touched.coil r).group Group.totals else s.touched }
/-- Changes a record in use; a number not in use is left alone. -/
def modCoil (s : State) (r : Nat) (f : Coil → Coil) : State :=
  match s.coil? r with
  | some v => s.setCoil r (f v)
  | none => s

/-- The id map (R13): the number of the record that holds the id. -/
def recordOf (s : State) (id : Nat) : Option Nat := (s.coils.search fun c => c.id == id).map (·.1)

/-- The record on a place, if one names it. -/
def recordAt (s : State) (p : Place) : Option Nat := (s.coils.search fun c => c.place == p).map (·.1)

def move? (s : State) (m : Nat) : Option Move := s.moves.find m
def setMove (s : State) (m : Nat) (v : Move) : State := { s with moves := s.moves.put m v }
/-- Changes a live move; a number without one is left alone. -/
def modMove (s : State) (m : Nat) (f : Move → Move) : State :=
  match s.move? m with
  | some v => s.setMove m (f v)
  | none => s

/-- The phase of a live move. -/
def phaseOf (s : State) (m : Nat) : Option Phase := (s.move? m).map Move.phase

/-- Whether crane `c` is fitted according to the straps (R56). -/
def fitted (s : State) (c : Nat) : Bool := decide (c ≤ s.straps) && decide (c < 4)

/-- RUN or HALTED: grants, moves and sessions exist. -/
def inService (s : State) : Bool := s.mode == .run || s.mode == .halted

/-- The move the crane is executing: the head of its queue once begun (R84, R89). -/
def currentMove (s : State) (c : Nat) : Option Nat :=
  match (s.crane c).queue with
  | [] => none
  | m :: _ =>
    match s.move? m with
    | some v => if v.phase = .queued then none else some m
    | none => none

end State

/-- The fitted cranes, west to east. -/
def fittedCranes (s : State) : List Nat := [0, 1, 2, 3].filter s.fitted

/-! ## Exchange memory (R174) -/

/-- The canonical form of exchange memory: offsets strictly rising, and no listed byte equal to what an unlisted
offset reads as. -/
def Memory.wf (m : Memory) : Bool := Tab.canonical 0 m

namespace State

def readByte (s : State) (off : Nat) : Byte := Tab.get 0 s.mem off

def writeByte (s : State) (off : Nat) (b : Byte) : State := { s with mem := s.mem.set 0 off b }

/-- Writes the bytes from an offset upward. -/
def writeBytes (s : State) (off : Nat) : List Byte → State
  | [] => s
  | b :: rest => (s.writeByte off b).writeBytes (off + 1) rest

/-- The `n` bytes from an offset upward. -/
def readBytes (s : State) (off : Nat) : Nat → List Byte
  | 0 => []
  | n + 1 => s.readByte off :: s.readBytes (off + 1) n

/-- A little-endian field of `n` bytes. -/
def readNat (s : State) (off n : Nat) : Nat := leNat (s.readBytes off n)

end State

/-- The offset of cell `n` (R174). -/
def cellOffset (n : Nat) : Nat := 0x1000 + n * 0x100

/-- The offset of the journal read count, outside every group (R197). -/
def readCountOffset : Nat := 0x008

/-! ## Notices (R198) -/

/-- The ten notice flags, in bit order (11.6). -/
inductive Notice where
  | answer | entry | jfull | jlost | postref | postskip | crane | weight | bay | mode
  deriving DecidableEq, Repr

def Notice.bit : Notice → Nat
  | .answer => 0
  | .entry => 1
  | .jfull => 2
  | .jlost => 3
  | .postref => 4
  | .postskip => 5
  | .crane => 6
  | .weight => 7
  | .bay => 8
  | .mode => 9

/-- The flag's bit alone. -/
def Notice.mask (n : Notice) : BitVec 10 := BitVec.ofNat 10 (2 ^ n.bit)

/-- Raises a flag: set or clear before, it is set after (R198). -/
def State.raise (s : State) (n : Notice) : State := { s with flags := s.flags ||| n.mask }

/-- The notice line: some flag is set whose enable is set (R180). -/
def State.noticeLine (s : State) : Bool := s.flags &&& s.enables != 0

/-! ## Beginning of a command -/

/-- The output record of the last command is cleared before the next (log entry 10). -/
def State.begin (s : State) : State := { s with sent := [], touched := {} }

/-- A directory group is to be written at the end of the handling, whatever its contents. -/
def State.touch (s : State) (group : Nat) : State := { s with touched := s.touched.group group }

/-! ## The lines (R42, R44, R112) -/

/-- The characters crane `c`'s link has still to send. -/
def State.outgoingTo (s : State) (c : Nat) : List Byte := Tab.get [] s.outgoing c

end Sys2Proof.Machine
end

