-- ==== Sys2Proof/Machine/Directory.lean ====
section
/-! DEFINITION. What the directory and the images show (R22, R196, 11.4, 11.5), and how a handling publishes it (R195). -/

namespace Sys2Proof.Machine

/-- The offset of a group (11.5). -/
def groupOffset (g : Nat) : Nat :=
  if g = 0 then 0x000
  else if g = 1 then 0x010
  else if g = 2 then 0x020
  else if g < 7 then 0x040 + 32 * (g - 3)
  else if g < 10 then 0x0C0 + 32 * (g - 7)
  else if g < 20 then 0x120 + 16 * (g - 10)
  else if g < 84 then 0x200 + 4 * (g - 20)
  else 0x300

/-- The bytes of a group between its two editions (11.5). -/
def groupBodySize (g : Nat) : Nat :=
  if g = 0 then 6
  else if g < 3 then 14
  else if g < 10 then 30
  else if g < 20 then 14
  else if g < 84 then 2
  else 14

/-- The x shown for a crane: the laser x, or the midpoint of the uncertainty interval, truncated (R54). -/
def Crane.shownX (c : Crane) : Nat :=
  match c.lock with
  | .locked => c.wholeLaser
  | .lost => (c.wholeEncoder + c.wholeLaser) / 2

/-- A crane group's body. An ABSENT crane shows 0 in every other field (R196). -/
def craneBody (s : State) (k : Nat) : List Byte :=
  let c := s.crane k
  if c.state = .absent then []
  else
    [byte c.state.code, byte c.causes.code, byte c.link.code, byte c.lock.code, byte c.tong.code,
      byte ((s.currentMove k).getD absent8), byte c.queue.length]
    ++ leBytes 2 c.shownX ++ leBytes 2 c.y ++ leSigned 2 c.speed
    ++ leBytes 2 c.grant.lo.toNat ++ leBytes 2 c.grant.hi.toNat

/-- A bay group's body. -/
def bayBody (s : State) (k : Nat) : List Byte :=
  let b := s.bay k
  [byte b.state.code, byte b.occupied.toNat, byte b.remaining] ++ leBytes 4 b.truckRef ++ leBytes 2 b.tareFront
    ++ leBytes 2 b.tareRear ++ leBytes 2 b.front ++ leBytes 2 b.rear

/-- A channel group's body. -/
def channelBody (s : State) (k : Nat) : List Byte :=
  let c := s.channel k
  [byte c.stateCode, byte c.latched.toNat, 0] ++ leSigned 4 c.zero ++ leBytes 2 c.lastWeight

/-- How many FREE lower and FREE upper slots a column has (R22). -/
def columnCounts (s : State) (col : Nat) : Nat × Nat :=
  let mine := s.slots.filter fun p => slotColumn p.1 == col && p.2.state == .free
  ((mine.filter fun p => isLower p.1).length, (mine.filter fun p => isUpper p.1).length)

/-- The store totals' body: records in use, FREE lower, FREE upper and HELD slots (R22). -/
def totalsBody (s : State) : List Byte :=
  let free := s.slots.filter fun p => p.2.state == .free
  [0] ++ leBytes 2 s.coils.length ++ leBytes 2 (free.filter fun p => isLower p.1).length
    ++ leBytes 2 (free.filter fun p => isUpper p.1).length
    ++ leBytes 2 (s.slots.filter fun p => p.2.state == .held).length

/-- The body of every group, filled up with zeros to its size. -/
def groupBody (s : State) (g : Nat) : List Byte :=
  padTo (groupBodySize g) <|
    if g = 0 then [byte s.mode.code, byte s.resetCause.code, byte (s.straps + 1)]
    else if g = 1 then zeros 3 ++ leBytes 4 s.writeCount ++ [byte s.holding.length]
    else if g = 2 then
      [byte s.lastSkip.cell, byte s.lastSkip.cause, byte s.lastSkip.stateByte, byte s.lastRefused.first,
        byte s.lastRefused.count, byte s.lastRefused.cause]
    else if g < 7 then craneBody s (g - 3)
    else if g < 10 then bayBody s (g - 7)
    else if g < 20 then channelBody s (g - 10)
    else if g < 84 then [byte (columnCounts s (g - 20)).1, byte (columnCounts s (g - 20)).2]
    else totalsBody s

/-- One write of a group under its editions (R195). -/
def State.writeGroup (s : State) (g : Nat) : State :=
  let e := Tab.get 0 s.groupEditions g + 1
  { s with groupEditions := s.groupEditions.set 0 g e }.writeBytes (groupOffset g) (e :: groupBody s g ++ [e])

/-! ## Images (R22, 11.4) -/

/-- The body of a slot image entry. -/
def slotImageBody (s : State) (i : Nat) : List Byte :=
  let v := s.slot i
  leBytes 2 (v.coil.getD 0 + 4096 * v.state.code)
    ++ leBytes 4 (((v.coil.bind s.coil?).map (·.id)).getD 0)

/-- The body of a coil image entry, 30 bytes; an unused record reads 0 in every field. -/
def coilImageBody (s : State) (r : Nat) : List Byte :=
  padTo 30 <|
    match s.coil? r with
    | none => []
    | some c =>
      [byte c.status.code, byte c.flagCode, byte c.place.kindCode] ++ leBytes 2 c.place.valueCode
        ++ leBytes 2 c.declared ++ leBytes 2 (c.measured.getD absent16) ++ leBytes 2 c.width
        ++ leBytes 2 c.diameter ++ [byte c.group, byte (c.move.getD absent8)] ++ leBytes 4 c.id

def slotImageOffset (i : Nat) : Nat := 0xD000 + 8 * i
def coilImageOffset (r : Nat) : Nat := 0x10000 + 32 * r

def State.writeSlotImage (s : State) (i : Nat) : State :=
  let e := Tab.get 0 s.slotEditions i + 1
  { s with slotEditions := s.slotEditions.set 0 i e }.writeBytes (slotImageOffset i) (e :: slotImageBody s i ++ [e])

def State.writeCoilImage (s : State) (r : Nat) : State :=
  let e := Tab.get 0 s.coilEditions r + 1
  { s with coilEditions := s.coilEditions.set 0 r e }.writeBytes (coilImageOffset r) (e :: coilImageBody s r ++ [e])

/-! ## Publication -/

/-- The numbers either list names, each once. -/
def bothKeys (a b : List Nat) : List Nat := a ++ b.filter fun k => !a.contains k

/-- A group's shown fields differ. A crane's position, tong and speed alone do not make its group be written: a STATUS
handled whole does (R196). -/
def groupChanged (old new : State) (g : Nat) : Bool :=
  if 3 ≤ g ∧ g < 7 then
    (old.crane (g - 3)).key != (new.crane (g - 3)).key || old.currentMove (g - 3) != new.currentMove (g - 3)
  else groupBody old g != groupBody new g

/-- The groups a handling may change by its records: all but the three XP writes as it goes. -/
def recordGroups (old new : State) : List Nat :=
  (List.range 17).map (· + 3) ++ (bothKeys old.columns.keys new.columns.keys).map Group.column ++ [Group.totals]

/-- The slot image entries a handling writes: those of which it changed a field. -/
def slotsWritten (old new : State) : List Nat :=
  (bothKeys new.touched.slots (bothKeys old.slots.keys new.slots.keys)).filter fun i =>
    new.touched.slots.contains i || slotImageBody old i != slotImageBody new i

/-- The coil image entries a handling writes. -/
def coilsWritten (old new : State) : List Nat :=
  (bothKeys new.touched.coils (bothKeys old.coils.keys new.coils.keys)).filter fun r =>
    new.touched.coils.contains r || coilImageBody old r != coilImageBody new r

/-- The groups a handling writes at its end. -/
def groupsWritten (old new : State) : List Nat :=
  (recordGroups old new).filter fun g => new.touched.groups.contains g || groupChanged old new g

/-- The end of a handling: each image entry and each directory group of which it changed a field is written once, with the
values it left, even where one change undid another (R195). While the clearing runs nothing is written (R173). -/
def publish (old new : State) : State :=
  if new.mode = .resetting then { new with touched := {} }
  else
    let s := (slotsWritten old new).foldl State.writeSlotImage new
    let s := (coilsWritten old new).foldl State.writeCoilImage s
    let s := (groupsWritten old new).foldl State.writeGroup s
    { s with touched := {} }

/-- One command: its handling from the cleared output record, then publication. -/
def handle (f : State → State) (s : State) : Host.Outcome State Fault Refusal :=
  let s := s.begin
  .next (publish s (f s))

end Sys2Proof.Machine
end

