-- ==== Sys2Proof/Machine/Journal.lean ====
section
/-! DEFINITION. The journal: room, writing, the holding queue and flush attempts (R190 to R194). -/

namespace Sys2Proof.Machine

/-- 32-bit counts are taken modulo 4,294,967,296 (R191). -/
def two32 : Nat := 4294967296

/-- The read count as software last wrote it, read in one access (R197). -/
def State.readCount (s : State) : Nat := s.readNat readCountOffset 4

/-- The backlog: write count less read count, modulo 2^32 (R191). -/
def State.backlog (s : State) : Nat := (s.writeCount + two32 - s.readCount) % two32

/-- The journal has room: not full, and the read count valid (R191). -/
def State.journalRoom (s : State) : Bool := decide (s.backlog < Config.journalPlaces)

/-- The 32 bytes of an entry under a sequence number (11.3). -/
def JournalEntry.bytes (e : JournalEntry) (seq : Nat) : List Byte :=
  leBytes 4 seq ++ [byte e.kind, byte e.subject] ++ leBytes 2 e.tag ++ leBytes 4 e.coil ++ padTo 20 e.detail

/-- The offset of the ring place that entry number `n` takes. -/
def journalOffset (n : Nat) : Nat := 0x9000 + n % Config.journalPlaces * 32

/-- Writes one entry into the journal: the entry, the journal group, the ENTRY notice (R192). -/
def State.writeEntry (s : State) (e : JournalEntry) : State :=
  let s := s.writeBytes (journalOffset s.writeCount) (e.bytes ((s.writeCount + 1) % two32))
  let s := { s with writeCount := (s.writeCount + 1) % two32 }
  (s.writeGroup Group.journal).raise .entry

/-- Writes the journal group, unless the clearing runs (R173). -/
def State.writeJournalGroup (s : State) : State :=
  if s.mode = .resetting then s else s.writeGroup Group.journal

/-- An entry joins the end of the holding queue with JFULL, or is dropped with JLOST (R193). -/
def State.holdEntry (s : State) (e : JournalEntry) : State :=
  if s.holding.length < Config.holdingPlaces then
    ({ s with holding := s.holding ++ [e] }.writeJournalGroup).raise .jfull
  else s.raise .jlost

/-- A flush attempt: held entries are written oldest first while there is room (R194). -/
def State.flushHeld : List JournalEntry → State → State
  | [], s => { s with holding := [] }
  | e :: rest, s =>
    if s.journalRoom then State.flushHeld rest ({ s with holding := rest }.writeEntry e)
    else { s with holding := e :: rest }

def State.flush (s : State) : State := State.flushHeld s.holding s

/-- An entry is written if there is room, else held (R193). -/
def State.writeOrHold (s : State) (e : JournalEntry) : State :=
  if s.journalRoom then s.writeEntry e else s.holdEntry e

/-- An entry XP produces or is handed (R193). During RESETTING every entry is held (R173, R194). -/
def State.produce (s : State) (e : JournalEntry) : State :=
  if s.mode = .resetting then s.holdEntry e
  else if s.holding.isEmpty then s.writeOrHold e
  else
    let s := s.flush
    if s.holding.isEmpty then s.writeOrHold e else s.holdEntry e

/-- An entry with the notice of its kind, raised at production whatever becomes of the entry (R193). -/
def State.report (s : State) (n : Notice) (e : JournalEntry) : State := (s.raise n).produce e

/-- The MODE entry of a change of mode (11.3). -/
def modeEntry (new old : Mode) (cause : Nat) : JournalEntry :=
  { kind := 10, subject := 0, detail := [byte new.code, byte old.code, byte cause] }

/-- A change of mode: the mode, the directory, the MODE entry, the MODE notice (R161). -/
def State.changeMode (s : State) (new : Mode) : State :=
  let old := s.mode
  let s := { s with mode := new }
  let s := s.writeGroup Group.general
  (s.produce (modeEntry new old 0)).raise .mode

/-! ## Entries of the working blocks -/

/-- A CRANE_STATE entry with the CRANE notice: the event, and detail bytes 13, 14 and 16..17 (R190, 11.3). -/
def State.craneEntry (s : State) (c event : Nat) (b13 b14 d : Nat := 0) : State :=
  s.report .crane
    { kind := 4, subject := c, detail := [byte event, byte b13, byte b14, 0] ++ leBytes 2 d }

/-- A BAY_STATE entry's detail fields (11.3). -/
structure BayDetail where
  entry : Nat := 0xFF
  coil : Nat := 0
  cause : Nat := 0
  reason : Nat := 0
  weight : Nat := 0
  rearWeight : Nat := 0
  front : Nat := 0
  rear : Nat := 0
  frontTol : Nat := 0
  rearTol : Nat := 0
  group : Nat := 0
  frontReport : Nat := 0
  rearReport : Nat := 0
  deriving DecidableEq, Repr

/-- A BAY_STATE entry for the bay as it stands (R160, 11.3). -/
def bayEntry (s : State) (b : Nat) (d : BayDetail) : JournalEntry :=
  { kind := 7, subject := b, coil := d.coil
    detail :=
      [byte (s.bay b).state.code, byte d.entry, byte d.cause, byte d.reason] ++ leBytes 2 d.weight
        ++ leBytes 2 d.rearWeight ++ leBytes 2 d.front ++ leBytes 2 d.rear ++ leBytes 2 d.frontTol
        ++ leBytes 2 d.rearTol ++ [byte d.group, byte d.frontReport, byte d.rearReport] }

end Sys2Proof.Machine
end

