-- ==== Sys2Proof/Machine/Flags.lean ====
section
/-! DEFINITION. The registers: what a read returns, and the flag and enable computations of the three notice
registers (R179, R180, R198, R201, 11.6). -/

namespace Sys2Proof.Machine

/-- The ten notice bits of a register word; the other bits are not examined (R180). -/
def noticeBits (v : Word32) : BitVec 10 := v.extractLsb' 0 10

/-- A write of NOTICE: each flag whose bit is 1 is cleared. -/
def clearFlags (flags written : BitVec 10) : BitVec 10 := flags &&& ~~~written

/-- A write of NOTICE_ON: each enable whose bit is 1 is set. -/
def setEnables (enables written : BitVec 10) : BitVec 10 := enables ||| written

/-- A write of NOTICE_OFF: each enable whose bit is 1 is cleared. -/
def clearEnables (enables written : BitVec 10) : BitVec 10 := enables &&& ~~~written

/-- The NOTICE bit of JFULL. -/
def jfullWritten (v : Word32) : Bool := v.getLsbD Notice.jfull.bit

/-- The six registers (R179). -/
inductive Register where
  | ident | control | post | notice | noticeOn | noticeOff
  deriving DecidableEq, Repr

/-- What a 32-bit read of a register returns; reads have no side effects (section 9.3, 11.6). -/
def State.readRegister (s : State) : Register → Word32
  | .ident => BitVec.ofNat 32 (0x4160 + 0x10000 * 1 + 0x1000000 * (s.straps + 1))
  | .control => BitVec.ofNat 32 s.mode.code
  | .post => BitVec.ofNat 32 s.posts.length
  | .notice => s.flags.zeroExtend 32
  | .noticeOn => s.enables.zeroExtend 32
  | .noticeOff => 0

/-- The first cell and the count of a POST write (R201). -/
def postFirst (v : Word32) : Nat := (v.extractLsb' 0 8).toNat
def postCount (v : Word32) : Nat := (v.extractLsb' 8 8).toNat

end Sys2Proof.Machine
end

