-- ==== Sys2Proof/Machine/Cells.lean ====
section
/-! DEFINITION. Cells: the test before every write, progress, answers, and skips (R175 to R188). -/

namespace Sys2Proof.Machine

/-- The state byte of a cell: 0 FREE, 1 FILLED, 2 TAKEN, 3 WORKING, 4 ANSWERED. -/
def State.cellState (s : State) (n : Nat) : Nat := (s.readByte (cellOffset n)).toNat

/-- The take number field of a cell. -/
def State.cellTake (s : State) (n : Nat) : Nat := s.readNat (cellOffset n + 8) 4

/-- The test of R177: the cell is TAKEN or WORKING, for this take. -/
def State.cellIsOf (s : State) (n take : Nat) : Bool :=
  (s.cellState n == 2 || s.cellState n == 3) && s.cellTake n == take

/-- A progress write: the progress byte alone, dropped where the test fails (R177, R186). -/
def State.progress (s : State) (n take value : Nat) : State :=
  if s.cellIsOf n take then s.writeByte (cellOffset n + 3) (byte value) else s

/-- A WORKING write: the progress byte, then the state WORKING (R186). -/
def State.working (s : State) (n take value : Nat) : State :=
  if s.cellIsOf n take then (s.writeByte (cellOffset n + 3) (byte value)).writeByte (cellOffset n) 3 else s

/-- Records a skipped cell and raises POSTSKIP (R177, R183). -/
def State.skipCell (s : State) (n cause stateByte : Nat) : State :=
  ({ s with lastSkip := { cell := n, cause := cause, stateByte := stateByte } }.writeGroup Group.intake).raise .postskip

/-- The bytes an answer puts into its cell: the whole answer area, the code, the state ANSWERED (R187). -/
def State.writeAnswer (s : State) (n : Nat) (a : Answer) : State :=
  let s := s.writeBytes (cellOffset n + 128) (padTo 128 a.area)
  let s := s.writeByte (cellOffset n + 2) (byte a.code.code)
  s.writeByte (cellOffset n) 4

/-- An answer to a take: written with the ANSWER notice, or dropped as ANSWER_LOST where the test of R177 fails. -/
def State.answer (s : State) (n take : Nat) (a : Answer) : State :=
  if s.cellIsOf n take then (s.writeAnswer n a).raise .answer
  else s.skipCell n 2 (s.cellState n)

/-- The answer to an order. -/
def State.reply (s : State) (o : Order) (a : Answer) : State := s.answer o.cell o.take a

/-! ## The answers of R188 -/

def Answer.ok : Answer := { code := .done }
def Answer.badField (n : Nat) : Answer := { code := .badField, area := [byte n, 0] }
def Answer.badEntryField (n entry : Nat) : Answer := { code := .badField, area := [byte n, byte entry] }
def Answer.wrongMode (m : Mode) : Answer := { code := .wrongMode, area := [byte m.code] }
def Answer.unknownCoil (id : Nat) (entry : Nat := absent8) : Answer :=
  { code := .unknownCoil, area := leBytes 4 id ++ [byte entry] }
def Answer.coilState (id : Nat) (entry : Nat := absent8) : Answer :=
  { code := .coilState, area := leBytes 4 id ++ [byte entry] }
def Answer.duplicateCoil (id record : Nat) : Answer :=
  { code := .duplicateCoil, area := leBytes 4 id ++ leBytes 2 record }
def Answer.placeTaken (p : Place) : Answer :=
  { code := .placeTaken, area := [byte p.kindCode, 0] ++ leBytes 2 p.valueCode }
/-- STATION_BUSY, QUEUE_FULL, NO_CRANE and CHANNEL_BUSY carry one number. -/
def Answer.numbered (c : Code) (n : Nat) : Answer := { code := c, area := [byte n] }
def Answer.slotUnfit (i : Nat) : Answer := { code := .slotUnfit, area := leBytes 2 i }
/-- NO_CRANE for a plan: no crane was named, and the entry stands where BAD_FIELD and PLAN_UNFIT have it (log entry 19). -/
def Answer.noCraneFor (entry : Nat) : Answer := { code := .noCrane, area := [byte absent8, byte entry] }
/-- CRANE_STATE and BAY_STATE carry the crane or bay and its state. -/
def Answer.stateOf (c : Code) (n state : Nat) : Answer := { code := c, area := [byte n, byte state] }
def Answer.planUnfit (g : LoadGroup) (entry front rear : Nat) : Answer :=
  { code := .planUnfit
    area := [byte g.code, byte entry] ++ leBytes 2 front ++ leBytes 2 rear ++ leBytes 2 (front + rear) }
def Answer.layout (check subject second : Nat) : Answer :=
  { code := .layout, area := [byte check, byte subject, byte second] }

end Sys2Proof.Machine
end

