-- ==== Sys2Proof/Machine/Steps.lean ====
section
/-! DEFINITION. CU's step telegrams, holds, crane states and stop causes (R43, R44, R57, R102, R103). -/

namespace Sys2Proof.Machine

/-! ## Crane states -/

/-- A zero set is ended without effect on Z; its cell is answered CHANNEL_BUSY (R131, R132). -/
def State.dropZeroSet (s : State) (k : Nat) : State :=
  match (s.channel k).zeroSet with
  | none => s
  | some z =>
    (s.modChannel k fun c => { c with zeroSet := none }).answer z.cell z.take (.numbered .channelBusy k)

/-- Sets a crane's state; a crane that leaves IDLE ends a zero set on its hook channel (R132), also where HALT_ALL is what makes it
leave (log entry 64). -/
def State.setCraneState (s : State) (c : Nat) (st : CraneState) : State :=
  let old := (s.crane c).state
  let s := s.modCrane c fun k => { k with state := st }
  if old = .idle ∧ st ≠ .idle then s.dropZeroSet c else s

/-! ## Sending -/

/-- CU sends a step telegram: its characters follow those the link has still to send (R44). -/
def State.send (s : State) (c : Nat) (t : StepTelegram) : State :=
  { s with sent := s.sent ++ [(c, t)], outgoing := s.outgoing.put c (s.outgoingTo c ++ t.characters c) }

/-- The number of a crane's next step: the last plus 1, passing over the done sequence last reported (R43). -/
def Crane.nextNumber (c : Crane) : Nat :=
  let n := (c.lastSeq + 1) % 256
  if n = c.doneSeq then (n + 1) % 256 else n

/-- The number LIMIT and STOP carry: the current step's, or the one last sent (R43). -/
def Crane.currentNumber (c : Crane) : Nat :=
  match c.step with
  | some st => st.seq
  | none => c.lastSeq

/-- The telegram of a step; a GOTO carries the grant as RU then holds it (R44). -/
def stepTelegram (seq : Nat) (grant : Span) : StepKind → StepTelegram
  | .goto x y => .goto seq x y grant.lo grant.hi
  | .lower h => .lower seq h
  | .grip => .grip seq
  | .tagread => .tagread seq
  | .hoist h => .hoist seq h
  | .release => .release seq

/-- Sends a step under the next number; it becomes the current step (R43). -/
def State.sendStep (s : State) (c : Nat) (kind : StepKind) : State :=
  let k := s.crane c
  let n := k.nextNumber
  let s := s.setCrane c
    { k with
      lastSeq := n, step := some { seq := n, kind := kind }, givenUp := .no, waiting := none,
      tagRead := if kind = .tagread then none else k.tagRead }
  s.send c (stepTelegram n k.grant kind)

/-- Sends a STOP; a step in progress is given up (R44, R57). -/
def State.sendStop (s : State) (c : Nat) (now : Bool) : State :=
  let k := s.crane c
  let s := s.send c (.stop k.currentNumber now)
  if k.step.isSome ∧ k.givenUp = .no then s.modCrane c fun k => { k with givenUp := .stop } else s

/-- Sends a LIMIT with the grant as it stands (R44). -/
def State.sendLimit (s : State) (c : Nat) : State :=
  let k := s.crane c
  s.send c (.limit k.currentNumber k.grant.lo k.grant.hi)

/-- A step is in progress: sent, not complete, not given up. -/
def Crane.stepInProgress (c : Crane) : Bool := c.step.isSome && c.givenUp == .no

/-- The GOTO of a leg is in progress. -/
def Crane.gotoInProgress (c : Crane) : Bool :=
  match c.step, c.givenUp with
  | some { kind := .goto _ _, .. }, .no => true
  | _, _ => false

/-- CU forgets the crane's step, whether sent or waiting. -/
def State.clearStep (s : State) (c : Nat) : State :=
  s.modCrane c fun k => { k with step := none, givenUp := .no, waiting := none }

/-! ## Bed steps (R103) -/

/-- The place a move's steps work over in its phase: the source in the pick and in a set-back, else the destination. -/
def Move.workPlace (m : Move) : Option Place :=
  match m.phase with
  | .pickLower | .pickGrip | .pickVerify | .pickHoist => some m.source
  | .setLower | .setRelease | .setHoist => some (if m.setBack.isSome then m.source else m.dest)
  | _ => none

/-- The bay over whose bed the crane's current move works, if any. -/
def State.workBed (s : State) (c : Nat) : Option Nat :=
  match (s.currentMove c).bind s.move? with
  | some m =>
    match m.workPlace with
    | some (.bed b _) => some b
    | _ => none
  | none => none

/-- The crane's next step is a bed step of a bay whose bed-hold flag is set. -/
def State.bedHeld (s : State) (c : Nat) : Bool :=
  match s.workBed c with
  | some b => (s.bay b).bedHold
  | none => false

/-! ## Steps that wait, and steps sent again -/

/-- A step the crane's work is due to send: it waits, in place of the step in progress, while the crane is STOPPED or
the bed is held (R57, R103). -/
def State.dueStep (s : State) (c : Nat) (kind : StepKind) : State :=
  if (s.crane c).state = .stopped ∨ s.bedHeld c then
    s.modCrane c fun k => { k with step := none, givenUp := .no, waiting := some kind }
  else s.sendStep c kind

/-- When no hold remains, the waiting step is sent, or else the step a STOP gave up is sent again (R57, R103). -/
def State.resumeSteps (s : State) (c : Nat) : State :=
  let k := s.crane c
  if k.state = .stopped ∨ s.bedHeld c then s
  else
    match k.waiting, k.step, k.givenUp with
    | some kind, _, _ => s.sendStep c kind
    | none, some st, .stop => s.sendStep c st.kind
    | _, _, _ => s

/-! ## Stop causes (R57) -/

def Causes.has (c : Causes) : Cause → Bool
  | .haltAll => c.haltAll
  | .lockLost => c.lockLost
  | .west => c.west
  | .east => c.east

def Causes.put (c : Causes) (v : Bool) : Cause → Causes
  | .haltAll => { c with haltAll := v }
  | .lockLost => { c with lockLost := v }
  | .west => { c with west := v }
  | .east => { c with east := v }

def Causes.isEmpty (c : Causes) : Bool := !(c.haltAll || c.lockLost || c.west || c.east)

/-- The cause code of a CAUSE_ADDED or CAUSE_REMOVED entry, and the neighbour it names (11.3). -/
def Cause.codes (c : Nat) : Cause → Nat × Nat
  | .haltAll => (1, 0)
  | .lockLost => (2, 0)
  | .west => (3, c - 1)
  | .east => (3, c + 1)

/-- The states a stop cause acts on. -/
def CraneState.stoppable : CraneState → Bool
  | .idle | .busy | .yielding => true
  | _ => false

/-- Adds a cause: entered in the journal, and the first cause of an IDLE, BUSY or YIELDING crane makes it STOPPED with
that state as its resume state. A cause already held is not added twice (R57). -/
def State.addCause (s : State) (c : Nat) (cause : Cause) : State :=
  let k := s.crane c
  if k.causes.has cause then s
  else
    let s := s.modCrane c fun k => { k with causes := k.causes.put true cause }
    let s :=
      if k.causes.isEmpty && k.state.stoppable then
        (s.modCrane c fun k => { k with resume := k.state }).setCraneState c .stopped
      else s
    s.craneEntry c 7 (cause.codes c).1 (cause.codes c).2

/-- Removes a cause; when the last leaves a STOPPED crane, it returns to its resume state and its step is sent (R57). -/
def State.removeCause (s : State) (c : Nat) (cause : Cause) : State :=
  let k := s.crane c
  if k.causes.has cause then
    let s := s.modCrane c fun k => { k with causes := k.causes.put false cause }
    let s := s.craneEntry c 8 (cause.codes c).1 (cause.codes c).2
    if (k.causes.put false cause).isEmpty ∧ k.state = .stopped then
      (s.setCraneState c k.resume).resumeSteps c
    else s
  else s

/-- The crane's state, seen through a stop: the resume state of a STOPPED crane, else its state. -/
def Crane.working (c : Crane) : CraneState := if c.state = .stopped then c.resume else c.state

/-- Moves a crane from one working state to another, through a stop if it is STOPPED. -/
def State.setWorking (s : State) (c : Nat) (st : CraneState) : State :=
  if (s.crane c).state = .stopped then s.modCrane c fun k => { k with resume := st } else s.setCraneState c st

/-- IDLE with an empty queue: what RU is told for its yields (R70). -/
def State.idleFree (s : State) (c : Nat) : Bool :=
  (s.crane c).state == .idle && (s.crane c).queue.isEmpty

/-! ## Phases -/

/-- A change of a move's phase, written into the progress byte of its cell and of the cell that aborts it (R87, R104). -/
def State.setPhase (s : State) (m : Nat) (ph : Phase) : State :=
  match s.move? m with
  | none => s
  | some v =>
    let s := s.setMove m { v with phase := ph }
    let s :=
      match v.origin with
      | .cell n take => s.progress n take ph.code
      | _ => s
    match v.abort with
    | some a => s.progress a.cell a.take ph.code
    | none => s

end Sys2Proof.Machine
end

