-- ==== Sys2Proof/Machine/Pipeline.lean ====
section
/-! DEFINITION. WU's weight pipeline: range, net, primary, linearity, window, settle, report (R116 to R121). -/

namespace Sys2Proof.Machine

/-- Stage 1: a raw count beyond ±8,000,000 is overrange (R116). -/
def overrange (count : Int) : Bool := decide (count < -8000000 ∨ 8000000 < count)

/-- Stages 2 and 3: the primary weight in kg (R116, R117). -/
def Channel.primary (k : Channel) (count : Int) : Int := divHalfAway ((count - k.zero) * k.wref) k.span

/-- Correction point `i` in kg (R118). -/
def Channel.point (k : Channel) (i : Nat) : Int := k.points.getD i 0

/-- Stage 4: the correction of a primary weight (R118). -/
def Channel.correction (k : Channel) (w1 : Int) : Int :=
  let step := k.cap / 8
  if w1 ≤ 0 then k.point 0
  else if (k.cap : Int) ≤ w1 then k.point 8
  else
    let i := w1.toNat / step
    k.point i + divHalfAway ((k.point (i + 1) - k.point i) * (w1 - (i * step : Nat))) step

/-- Stages 2 to 4: the corrected weight w2 of an in-range count (R116 to R118). -/
def Channel.corrected (k : Channel) (count : Int) : Int :=
  k.primary count + k.correction (k.primary count)

/-- What a sample puts into a window: its corrected weight, or an overrange mark (R116, R119). -/
def Channel.entryOf (k : Channel) (count : Int) : Option Int :=
  if overrange count then none else some (k.corrected count)

/-- Stage 5: an entry joins at the newest end; the oldest of 8 goes first (R119). -/
def pushEntry (es : List (Option Int)) (e : Option Int) : List (Option Int) :=
  (if es.length < 8 then es else es.drop 1) ++ [e]

/-- The values of a window that holds 8 values and no mark; else none (R119). -/
def windowValues (es : List (Option Int)) : Option (List Int) :=
  if es.length = 8 ∧ es.all Option.isSome then some (es.filterMap id) else none

/-- The largest value less the smallest. -/
def spread : List Int → Int
  | [] => 0
  | v :: rest => rest.foldl max v - rest.foldl min v

/-- Stage 6: the window's newest sample is steady (R120). -/
def steadySample (band : Nat) (es : List (Option Int)) : Bool :=
  match windowValues es with
  | some vs => decide (spread vs ≤ band)
  | none => false

/-- One sample taken into a session's window of a channel, with its steady count (R119, R120). -/
def ChannelWindow.take (w : ChannelWindow) (k : Channel) (count : Int) : ChannelWindow :=
  let es := pushEntry w.entries (k.entryOf count)
  { entries := es, steady := if steadySample k.settleBand es then min (w.steady + 1) k.settleCount else 0 }

/-- The channel is settled (R120). -/
def ChannelWindow.settled (w : ChannelWindow) (k : Channel) : Bool := w.steady == k.settleCount

/-- The window's average wf, rounded half away from zero (R119). -/
def windowAverage (vs : List Int) : Int := divHalfAway vs.sum 8

/-- What one channel reports (R121). -/
inductive Report where
  | weight (w : Nat)
  | over
  | noLoad
  deriving DecidableEq, Repr

/-- Stage 7: the report of a window average, in 10 kg units (R121). -/
def reportOf (cap : Nat) (wf : Int) : Report :=
  if (cap : Int) < wf then .over
  else if wf < -100 then .noLoad
  else if wf < 0 then .weight 0
  else .weight (min ((wf.toNat + 5) / 10) (cap / 10))

/-- The report of a settled window. A settled window holds 8 values; any other has no average (R119). -/
def ChannelWindow.report (w : ChannelWindow) (k : Channel) : Report :=
  match windowValues w.entries with
  | some vs => reportOf k.cap (windowAverage vs)
  | none => .over

/-- The weight of a report, 0 where it gives none. -/
def Report.weightOr0 : Report → Nat
  | .weight w => w
  | _ => 0

/-- The weighing report codes (11.1). -/
def Report.code : Report → Nat
  | .weight _ => 1
  | .over => 2
  | .noLoad => 3

/-- What a hook session hands CU (R95, R124). -/
inductive HookResult where
  | weighed (w : Nat)
  | unsettled
  | over
  | noWeight
  deriving DecidableEq, Repr

/-- A hook report as CU receives it: NO_LOAD is UNSETTLED (R124). -/
def Report.hookResult : Report → HookResult
  | .weight w => .weighed w
  | .over => .over
  | .noLoad => .unsettled

/-- What a platform session hands LU (R125). -/
inductive PlatformResult where
  | reports (front rear : Report)
  | unsettled
  | noWeight
  deriving DecidableEq, Repr

/-- The last reported weight follows a report that gives a weight (R127). One equal to the weight already held is no change and
writes no group (log entry 68). -/
def State.noteReport (s : State) (k : Nat) : Report → State
  | .weight w => s.modChannel k fun c => { c with lastWeight := w }
  | _ => s

/-- A channel is ACTIVE (R113). -/
def Channel.active (c : Channel) : Bool := !c.fault && c.configured && c.data

/-- The platform channels of a bay (R112). -/
def frontChannel (b : Nat) : Nat := 4 + 2 * b
def rearChannel (b : Nat) : Nat := 5 + 2 * b

/-- The bay of a platform channel. -/
def channelBay (k : Nat) : Nat := (k - 4) / 2

end Sys2Proof.Machine
end

