-- ==== Sys2Proof/Machine/Runway.lean ====
section
/-! DEFINITION. RU: spans, leg requests and scans, yields and wait cycles, widening and holds, bay closures
(spec 04, R62 to R81). -/

namespace Sys2Proof.Machine

/-! ## Spans (section 4.2) -/

def Span.hull (a b : Span) : Span := { lo := min a.lo b.lo, hi := max a.hi b.hi }

/-- The part of `a` inside `b`. -/
def Span.meet (a b : Span) : Span := { lo := max a.lo b.lo, hi := min a.hi b.hi }

/-- Spans overlap when they share a stretch of positive length. -/
def Span.overlaps (a b : Span) : Bool := decide ((a.meet b).lo < (a.meet b).hi)

/-- Closed intervals share at least a point. -/
def Span.touches (a b : Span) : Bool := decide (a.lo ≤ b.hi ∧ b.lo ≤ a.hi)

def Span.within (a b : Span) : Bool := decide (b.lo ≤ a.lo ∧ a.hi ≤ b.hi)

/-- Limits both ends of a span to a span. -/
def Span.limitTo (a b : Span) : Span :=
  { lo := min (max a.lo b.lo) b.hi, hi := max (min a.hi b.hi) b.lo }

/-- Cuts the east or the west end of a span; a cut beyond the other end leaves that end alone (log entry 21). -/
def Span.cutEast (a : Span) (hi : Int) : Span := { a with hi := max a.lo (min a.hi hi) }
def Span.cutWest (a : Span) (lo : Int) : Span := { a with lo := min a.hi (max a.lo lo) }

def Span.around (x : Int) (m : Int) : Span := { lo := x - m, hi := x + m }

namespace State

/-- The usable runway for bridge centres (R60). -/
def runSpan (s : State) : Span := { lo := s.runway.lo, hi := s.runway.hi }

/-- The clearance of cranes `i` and `j` (R62). -/
def clearance (s : State) (i j : Nat) : Int :=
  (s.crane i).halfWidth + s.runway.gap + (s.crane j).halfWidth

/-- Span `a` of crane `i` is separated from span `b` of crane `j` (R62). -/
def separated (s : State) (i : Nat) (a : Span) (j : Nat) (b : Span) : Bool :=
  if i < j then decide (a.hi + s.clearance i j ≤ b.lo) else decide (b.hi + s.clearance i j ≤ a.lo)

/-- The adjacent fitted cranes, west before east (R62). -/
def neighbours (s : State) (k : Nat) : List Nat :=
  (if 0 < k then [k - 1] else []) ++ (if s.fitted (k + 1) then [k + 1] else [])

/-- The runway left to crane `k` between its neighbours' grants, within the usable runway. -/
def roomOf (s : State) (k : Nat) : Span :=
  { lo := if 0 < k then max s.runSpan.lo ((s.crane (k - 1)).grant.hi + s.clearance (k - 1) k) else s.runSpan.lo
    hi := if s.fitted (k + 1) then min s.runSpan.hi ((s.crane (k + 1)).grant.lo - s.clearance k (k + 1))
      else s.runSpan.hi }

/-- The closed extent of a bay (R78). -/
def extent (s : State) (b : Nat) : Span :=
  Span.meet { lo := (s.bay b).bxLo - s.runway.bayMargin, hi := (s.bay b).bxHi + s.runway.bayMargin } s.runSpan

/-- The bay's extent is closed: the bay is configured and its area OCCUPIED (R78). -/
def closed (s : State) (b : Nat) : Bool := (s.bay b).state != .unconfigured && (s.bay b).occupied

/-- The closed bays. -/
def closedBays (s : State) : List Nat := [0, 1, 2].filter s.closed

end State

/-- The position used of R54, as an interval. -/
def Crane.positionUsed (c : Crane) : Span :=
  match c.lock with
  | .locked => { lo := c.wholeLaser, hi := c.wholeLaser }
  | .lost => { lo := min c.wholeEncoder c.wholeLaser, hi := max c.wholeEncoder c.wholeLaser }

/-- The braking distance (R64). -/
def State.braking (s : State) (k : Nat) : Nat :=
  let v := min (s.crane k).speed.natAbs 400
  divUp (v * v) (2 * s.runway.decel)

/-- The stopping extent (R64). -/
def State.stopping (s : State) (k : Nat) : Span :=
  let c := s.crane k
  let x : Int := c.xLaser
  let m : Int := s.runway.margin
  let b : Int := s.braking k
  if 0 < c.speed then { lo := x - m, hi := x + b + m }
  else if c.speed < 0 then { lo := x - b - m, hi := x + m }
  else { lo := x - m, hi := x + m }

/-! ## Leg requests (R65, R66) -/

/-- The span of a request of crane `k` with target `t`, from its grant as it stands (R65). -/
def State.requestSpan (s : State) (k t : Nat) : Span :=
  let g := (s.crane k).grant
  let m : Int := s.runway.margin
  Span.meet { lo := min g.lo (t - m), hi := max g.hi (t + m) } s.runSpan

/-- The neighbours a span of crane `k` is not separated from. -/
def State.blockers (s : State) (k : Nat) (r : Span) : List Nat :=
  (s.neighbours k).filter fun j => !s.separated k r j (s.crane j).grant

/-- A loaded crane's span clears a bay: it is open, or not overlapped, or the crane stands on its breach list and the
part inside the extent lies within its grant (R65). -/
def State.bayAdmits (s : State) (k : Nat) (r : Span) (b : Nat) : Bool :=
  !s.closed b || !r.overlaps (s.extent b)
    || ((s.bay b).breach.contains k && (r.meet (s.extent b)).within (s.crane k).grant)

/-- RU's last reported tong state of a crane is CLOSED_LOADED. RU works from the reports CU hands it, those handled whole: a
report that leaves the link LOST goes no further than CU (R45; log entry 65). -/
def Crane.loaded (c : Crane) : Bool := c.wholeTong == .closedLoaded

/-- A request's span is compatible (R65). -/
def State.compatible (s : State) (r : Request) : Bool :=
  let span := s.requestSpan r.crane r.targetX
  (s.blockers r.crane span).isEmpty
    && (!(s.crane r.crane).loaded || [0, 1, 2].all (s.bayAdmits r.crane span))

def State.requestOf (s : State) (k : Nat) : Option Request := s.requests.find? fun r => r.crane == k

/-- The yield of a crane ends or is withdrawn: it returns to the state it left (R71, R73). -/
def State.endYield (s : State) (k : Nat) : State :=
  match (s.crane k).yield with
  | none => s
  | some y =>
    let s := s.modCrane k fun c => { c with yield := none }
    if (s.crane k).working = .yielding then s.setWorking k y.back else s

/-- A pending yield falls when crane `k`'s request, which it serves, leaves the list (R71); a yield of a wait cycle
falls only when, as `ended` says, the leg of `k` is over (R73). -/
def Crane.yieldFalls (c : Crane) (k : Nat) (ended : Bool) : Bool :=
  match c.yield with
  | some y => !y.granted && y.serves == k && (ended || !y.cycle)
  | none => false

/-- Crane `k`'s request leaves the list, granted or not; with `ended` its leg is over, which is noted for the moves
deferred to it (R66, R71, R73). Pending yields that fall with it leave the list in turn. -/
def State.requestLeft : Nat → State → Nat → Bool → State
  | 0, s, _, _ => s
  | fuel + 1, s, k, ended =>
    let s :=
      { s with
        requests := s.requests.filter fun r => r.crane != k
        stalled := s.stalled.filter fun i => i != k && i + 1 != k }
    [0, 1, 2, 3].foldl (init := s) fun s j =>
      let c := s.crane j
      let falls := c.yieldFalls k ended
      let s :=
        match c.deferral with
        | some d =>
          if ended && d.other == k then
            s.modCrane j fun c => { c with deferral := some { d with otherEnded := true } }
          else s
        | none => s
      if falls then (State.requestLeft fuel s j true).endYield j else s

/-- The fixed depth of `requestLeft`: four cranes can hold four requests. -/
def listDepth : Nat := 5

/-- RU's grant of a request, and what CU does with it: the move enters its leg, the GOTO or LIMIT goes out (R66, R80, R90). -/
def State.grantRequest (s : State) (r : Request) : State :=
  let k := r.crane
  let c := s.crane k
  let dir : Direction :=
    if c.xLaser < r.targetX then .east else if r.targetX < c.xLaser then .west else .none
  let s := s.modCrane k fun c =>
    { c with
      grant := s.requestSpan k r.targetX, narrowDue := false
      leg := some { kind := r.kind, targetX := r.targetX, targetY := r.targetY, seq := r.seq, direction := dir } }
  let s := State.requestLeft listDepth s k false
  let goto : StepKind := .goto r.targetX r.targetY
  if r.remainder then
    if c.gotoInProgress then s.sendLimit k
    else if c.step.isSome ∧ c.state = .stopped then s.modCrane k fun c => { c with givenUp := .stop }
    else if c.step.isSome then s.sendStep k goto
    else s
  else
    match r.kind with
    | .yield =>
      (s.modCrane k fun c => { c with yield := c.yield.map fun y => { y with granted := true } }).dueStep k goto
    | .move =>
      match s.currentMove k with
      | none => s
      | some m =>
        match s.phaseOf m with
        | some .leg1Wait => (s.setPhase m .leg1).dueStep k goto
        | some .leg2Wait => (s.setPhase m .leg2).dueStep k goto
        | _ => s

/-- A request is granted at once, or joins the end of the list: where its crane's grant is held widened, or as not compatible.
The flag says that it joined, so that the checks of R70 and R72 follow (R66). -/
def State.grantOrJoin (s : State) (r : Request) : State × Bool :=
  if !(s.crane r.crane).heldWide && s.compatible r then (s.grantRequest r, false)
  else ({ s with requests := s.requests ++ [r] }, true)

/-! ## Yields and wait cycles (R70 to R74) -/

/-- The yield target of crane `j` for a span of the blocked crane `k` (R70). -/
def State.yieldTarget (s : State) (k : Nat) (r : Span) (j : Nat) : Option Nat :=
  let c := s.crane j
  let m : Int := s.runway.margin
  let x : Int := c.xLaser
  let t := if k < j then max x (r.hi + s.clearance k j + m) else min x (r.lo - s.clearance k j - m)
  if c.svcLo ≤ t ∧ t ≤ c.svcHi ∧ (Span.around t m).within s.runSpan then some t.toNat else none

/-- Gives crane `j` a yield that serves the request of crane `k` (R71, R73). -/
def State.giveYield (s : State) (j : Nat) (served : Request) (target : Nat) (cycle : Bool) : State × Bool :=
  let back : CraneState := if cycle then .busy else .idle
  let s := s.modCrane j fun c =>
    { c with yield := some { granted := false, cycle := cycle, serves := served.crane, back := back } }
  let s := s.setWorking j .yielding
  s.grantOrJoin
    { crane := j, kind := .yield, targetX := target, targetY := (s.crane j).y, seq := served.seq
      serves := served.crane }

/-- The first yield RU is to give: a waiting request, not held, blocked by an IDLE neighbour with an empty queue, and
its target (R70). Of two such neighbours the western one is yielded first (log entry 57). -/
def State.yieldDue (s : State) : Option (Request × Nat × Nat) :=
  s.requests.findSome? fun r =>
    if (s.crane r.crane).heldWide then none
    else
      let span := s.requestSpan r.crane r.targetX
      (s.blockers r.crane span).findSome? fun j =>
        if s.idleFree j ∧ (s.crane j).yield.isNone then
          (s.yieldTarget r.crane span j).map fun t => (r, j, t)
        else none

/-- Of two acceptance sequences, `a` is the later (R85). -/
def laterSeq (a b : Nat) : Bool := decide ((a + two32 - b) % two32 < 2147483648)

/-- Cranes `i` and `i + 1` form a wait cycle not yet marked stalled (R72). -/
def State.waitCycle (s : State) (i : Nat) : Option (Request × Request) :=
  match s.requestOf i, s.requestOf (i + 1) with
  | some a, some b =>
    if !(s.crane i).heldWide && !(s.crane (i + 1)).heldWide && !s.stalled.contains i
      && (s.blockers i (s.requestSpan i a.targetX)).contains (i + 1)
      && (s.blockers (i + 1) (s.requestSpan (i + 1) b.targetX)).contains i
    then some (a, b) else none
  | _, _ => none

/-- Marks a pair as stalled with its GRANT_STALL entry (R74). -/
def State.stallPair (s : State) (a b : Request) : State :=
  { s with stalled := s.stalled ++ [a.crane] }.report .crane
    { kind := 5, subject := a.crane
      detail := [byte b.crane, 0] ++ leBytes 2 a.targetX ++ leBytes 2 b.targetX }

/-- Which request of a wait cycle is withdrawn, then which one stays; none where neither is (R72). -/
def cycleLoser (a b : Request) : Option (Request × Request) :=
  match a.kind, b.kind with
  | .move, .yield => some (a, b)
  | .yield, .move => some (b, a)
  | .move, .move => if laterSeq a.seq b.seq then some (a, b) else some (b, a)
  | .yield, .yield => none

/-- A cut leg whose waiting remainder is withdrawn goes back to its waiting phase, its GOTO given up (log entry 20). -/
def State.uncutLeg (s : State) (k : Nat) : State :=
  let s := if (s.crane k).gotoInProgress then s.sendStop k true else s
  let s := (s.clearStep k).modCrane k fun c => { c with leg := none }
  match s.currentMove k with
  | none => s
  | some m =>
    match s.phaseOf m with
    | some .leg1 => s.setPhase m .leg1Wait
    | some .leg2 => s.setPhase m .leg2Wait
    | _ => s

/-- Resolves a wait cycle: one MOVE request is withdrawn, its move DEFERRED, its crane given a yield; or the pair
is stalled (R72 to R74). -/
def State.resolveCycle (s : State) (a b : Request) : State :=
  match cycleLoser a b with
  | none => s.stallPair a b
  | some (w, o) =>
    match s.yieldTarget o.crane (s.requestSpan o.crane o.targetX) w.crane with
    | none => s.stallPair a b
    | some t =>
      let s := State.requestLeft listDepth s w.crane true
      let s := if w.remainder then s.uncutLeg w.crane else s
      let s :=
        match s.currentMove w.crane with
        | some m => s.modMove m fun v => { v with deferred := true, wasDeferred := true }
        | none => s
      let s := s.modCrane w.crane fun c => { c with deferral := some { other := o.crane } }
      (s.giveYield w.crane o t true).1

/-- One act of the checks of R70 and R72: the first yield due, or else the first wait cycle; none when neither is.
Adjacent pairs are looked at from west to east, and one cycle is resolved at a time (log entry 48). -/
def State.checkOnce (s : State) : Option State :=
  match s.yieldDue with
  | some (r, j, t) => some (s.giveYield j r t false).1
  | none => ([0, 1, 2].findSome? s.waitCycle).map fun p => s.resolveCycle p.1 p.2

/-- A DEFERRED move that may request again: the other leg has ended and so has the crane's own yield (R73). Of several, the
one of the lowest crane number is first (log entry 49). -/
def State.resumable (s : State) : Option Nat :=
  [0, 1, 2, 3].find? fun k =>
    (s.crane k).deferral.any (fun d => d.otherEnded) && (s.crane k).yield.isNone

/-- The MOVE request of a crane's current move in its waiting phase (R90). -/
def State.legRequest (s : State) (k : Nat) : Option Request :=
  match s.currentMove k with
  | none => none
  | some m =>
    match s.move? m with
    | none => none
    | some v =>
      match v.phase with
      | .leg1Wait => some { crane := k, kind := .move, targetX := v.sourceX, targetY := v.sourceY, seq := v.seq }
      | .leg2Wait => some { crane := k, kind := .move, targetX := v.destX, targetY := v.destY, seq := v.seq }
      | _ => none

/-- CU clears DEFERRED and hands RU the move's request anew (R73, R90). -/
def State.requestAgain (s : State) (k : Nat) : State × Bool :=
  let s := s.modCrane k fun c => { c with deferral := none }
  let s :=
    match s.currentMove k with
    | some m => s.modMove m fun v => { v with deferred := false }
    | none => s
  match s.legRequest k with
  | some r => s.grantOrJoin r
  | none => (s, false)

/-- RU brings its list to rest: deferred moves that may request again do so, and, where `look` says so, the checks of
R70 and R72 are made until none acts. The fuel bounds the acts of one handling. -/
def State.settle : Nat → State → Bool → State
  | 0, s, _ => s
  | fuel + 1, s, look =>
    match s.resumable with
    | some k =>
      let r := s.requestAgain k
      State.settle fuel r.1 (look || r.2)
    | none =>
      if look then
        match s.checkOnce with
        | some s' => State.settle fuel s' true
        | none => s
      else s

/-- The acts one handling can need: four cranes, each at most one request, one yield and one deferral at a time. -/
def settleFuel : Nat := 32

def State.settleRU (s : State) (look : Bool) : State := State.settle settleFuel s look

/-- CU hands RU a request (R66). -/
def State.requestLeg (s : State) (r : Request) : State :=
  let p := s.grantOrJoin r
  p.1.settleRU p.2

/-- A scan of the request list, then its checks (R67). -/
def State.scan (s : State) : State :=
  let s := (s.requests.map (·.crane)).foldl (init := s) fun s k =>
    match s.requestOf k with
    | some r => if !(s.crane k).heldWide && s.compatible r then s.grantRequest r else s
    | none => s
  s.settleRU true

/-- A leg ends, its GOTO complete or given up by an abort: the narrowing is due, a waiting remainder leaves the list (R66, R69). -/
def State.endLeg (s : State) (k : Nat) : State :=
  let s := s.modCrane k fun c => { c with leg := none, narrowDue := true }
  State.requestLeft listDepth s k true

/-- A crane's request is withdrawn by CU: its move is aborted or fails (R66). -/
def State.withdrawRequest (s : State) (k : Nat) : State := State.requestLeft listDepth s k true

/-! ## Bay closures (R79 to R81) -/

/-- Enters a crane in a bay's breach list, with the ZONE_BREACH entry and the BAY notice (R79). -/
def State.listBreach (s : State) (k b : Nat) : State :=
  let u := (s.crane k).positionUsed
  let id := (((s.recordAt (.hook k)).bind s.coil?).map (·.id)).getD 0
  (s.modBay b fun v => { v with breach := v.breach ++ [k] }).report .bay
    { kind := 6, subject := b, coil := id
      detail := [byte k, 0] ++ leBytes 2 u.lo.toNat ++ leBytes 2 u.hi.toNat }

/-- The waiting remainder of a cut leg joins the list, if the leg's span before the cut reached `beyond` the cut edge and no
request of the crane waits already (R80, log entry 27). A GOTO that R79's STOP NOW gave up is sent again when that request
is granted; where none is placed, because the stopping extent covers the grant's end, nothing sends it again (log entry 46). -/
def State.joinRemainder (s : State) (k : Nat) (beyond : Bool) : State :=
  match (s.crane k).leg with
  | none => s
  | some l =>
    if beyond ∧ (s.requestOf k).isNone then
      { s with
        requests := s.requests ++
          [{ crane := k, kind := l.kind, targetX := l.targetX, targetY := l.targetY, seq := l.seq, remainder := true }] }
    else s

/-- Cuts a crane's grant to `g` at a bay, and scans (R79, R80). A GOTO in progress is sent the LIMIT, as R79 has it; a leg whose
GOTO is given up or waits is sent none (log entry 66). -/
def State.cutGrant (s : State) (k : Nat) (g : Span) : State :=
  let old := (s.crane k).grant
  let s := s.modCrane k fun c => { c with grant := g }
  let s := if (s.crane k).gotoInProgress then s.sendLimit k else s
  (s.joinRemainder k (decide (g.hi < old.hi ∨ old.lo < g.lo))).scan

/-- The closure test of a crane and a closed extent (R79). A step other than a GOTO that the STOP NOW gives up stays given up
until a later hold of the crane ends (log entry 45). -/
def State.closureTest (s : State) (k b : Nat) : State :=
  let c := s.crane k
  let e := s.extent b
  if !(s.closed b && c.loaded && c.grant.overlaps e && !(s.bay b).breach.contains k) then s
  else if c.heldWide || c.positionUsed.touches e then s.listBreach k b
  else
    let west := c.positionUsed.hi < e.lo
    let stop := s.stopping k
    if stop.overlaps e then
      let inLeg := c.gotoInProgress
      let s := s.sendStop k true
      let s := if inLeg then s.modCrane k fun c => { c with givenUp := .zone } else s
      let s := s.listBreach k b
      s.cutGrant k (if west then c.grant.cutEast stop.hi else c.grant.cutWest stop.lo)
    else
      s.cutGrant k (if west then c.grant.cutEast e.lo else c.grant.cutWest e.hi)

/-- The closure test of a crane against every closed bay, the bays in rising number (log entry 50). -/
def State.closureTests (s : State) (k : Nat) : State :=
  s.closedBays.foldl (fun s b => s.closureTest k b) s

/-- The tests of R81 at a report of a crane listed for a bay. A crane whose position used lies inside the extent stays listed,
and no second ZONE_BREACH entry is written, also at the report that ends its hold (log entry 62). A tong reported OPEN takes it
off the list even while its grant is held widened (log entry 67). -/
def State.breachTest (s : State) (k b : Nat) : State :=
  let c := s.crane k
  if !(s.bay b).breach.contains k then s
  else
    let off := s.modBay b fun v => { v with breach := v.breach.filter (· != k) }
    if c.wholeTong = .open_ then off
    else if !c.positionUsed.touches (s.extent b) && !c.heldWide then off.closureTest k b
    else s

/-! ## Widening and holds (R75 to R77) -/

/-- The neighbour on a side is stopped with a NEIGHBOUR cause that crane `k`'s widening placed (R76). -/
def State.stopNeighbour (s : State) (j : Nat) (cause : Cause) : State := (s.sendStop j true).addCause j cause

/-- Widens a crane's grant over its uncertainty and braking distance, clipped against its neighbours, and holds it (R75, R76).
Clipped on both sides, it stops the western neighbour before the eastern (log entry 56), and both before the closure tests of a
loaded crane (log entry 72). -/
def State.widen (s : State) (k : Nat) : State :=
  let c := s.crane k
  let m : Int := s.runway.margin
  let b : Int := s.braking k
  let u := c.positionUsed
  let want := (c.grant.hull { lo := u.lo - b - m, hi := u.hi + b + m }).meet s.runSpan
  let room := s.roomOf k
  let got := want.meet room
  let s := s.setCrane k
    { c with
      grant := got, heldWide := true
      beforeWide := if c.heldWide then c.beforeWide else c.grant }
  let s :=
    if want.lo < got.lo then
      (s.stopNeighbour (k - 1) .east).modCrane k fun c => { c with placedWest := true }
    else s
  let s :=
    if got.hi < want.hi then
      (s.stopNeighbour (k + 1) .west).modCrane k fun c => { c with placedEast := true }
    else s
  s.closureTests k

/-- The end of a hold: the grant narrows, the NEIGHBOUR causes placed are removed, the closure test and a scan follow (R77, R79).
The western neighbour's cause is removed before the eastern's (log entry 56), and both before the closure tests (log entry 71). No
LIMIT is sent: the GOTO sent again carries the narrowed grant (log entry 66). A crane on a bay's breach list is still on it
here, so that the closure test passes it over; breachTest takes it off at this report if its position used lies outside the
extent (R81, log entry 62). -/
def State.endHold (s : State) (k : Nat) : State :=
  let c := s.crane k
  if !c.heldWide then s
  else
    let near := Span.around c.xLaser s.runway.margin
    let want :=
      match c.leg with
      | some { kind := .move, .. } => c.beforeWide.hull near
      | _ => near
    let s := s.setCrane k
      { c with
        grant := (want.limitTo c.grant).limitTo s.runSpan
        heldWide := false, placedWest := false, placedEast := false }
    let s := if c.placedWest then s.removeCause (k - 1) .east else s
    let s := if c.placedEast then s.removeCause (k + 1) .west else s
    (s.closureTests k).scan

/-! ## A report (R68, R69, R81) -/

/-- The grant with the trailing edge of the leg in progress moved toward the crane (R68). -/
def Crane.trailed (c : Crane) (m : Int) : Span :=
  match c.leg.map Leg.direction with
  | some .east => { c.grant with lo := max c.grant.lo (min (c.xLaser - m) c.grant.hi) }
  | some .west => { c.grant with hi := min c.grant.hi (max (c.xLaser + m) c.grant.lo) }
  | _ => c.grant

/-- Trailing shrink: where the trailing edge of the leg in progress moves, CU sends the new span in a LIMIT, also while the leg's
GOTO is given up or waits (R44, R57, R68, R90), and a scan follows. -/
def State.shrink (s : State) (k : Nat) : State :=
  let g := (s.crane k).trailed s.runway.margin
  if g = (s.crane k).grant then s
  else
    ((s.modCrane k fun c => { c with grant := g }).sendLimit k).scan

/-- The runway of `room` that keeps off a closed extent `e` on the side or sides where span `g` does. -/
def Span.clearOf (room g e : Span) : Span :=
  { lo := if e.lo < g.hi then max room.lo (min e.hi g.lo) else room.lo
    hi := if g.lo < e.hi then min room.hi (max e.lo g.hi) else room.hi }

/-- The law of R79 binds the grant of crane `k` at bay `b`: the tong is loaded, the extent closed, the crane in no breach list
of the bay, and its grant does not overlap the extent. -/
def State.keepsOff (s : State) (k b : Nat) : Bool :=
  let c := s.crane k
  s.closed b && c.loaded && !(s.bay b).breach.contains k && !c.grant.overlaps (s.extent b)

/-- The room a narrowing of crane `k` has: between the neighbours' grants (R69), and off the closed extents that its grant keeps
off by the law of R79 (log entry 47). -/
def State.narrowRoom (s : State) (k : Nat) : Span :=
  ([0, 1, 2].filter (s.keepsOff k)).foldl (fun room b => room.clearOf (s.crane k).grant (s.extent b)) (s.roomOf k)

/-- The report last taken narrows the grant: a leg has ended, the crane stands LOCKED and its grant is not held widened
(R69, R77). -/
def Crane.narrows (c : Crane) : Bool := decide (c.narrowDue ∧ c.speed = 0 ∧ c.lock = .locked ∧ !c.heldWide)

/-- The narrowing after a leg's end, once the crane stands, and its scan (R69). -/
def State.narrow (s : State) (k : Nat) : State :=
  let c := s.crane k
  if c.narrows then
    (s.setCrane k
      { c with narrowDue := false, grant := (Span.around c.xLaser s.runway.margin).limitTo (s.narrowRoom k) }).scan
  else s

/-- RU's handling of a report of a fitted crane in RUN and HALTED. `loadedBefore` says that the report handed to RU before had the tong CLOSED_LOADED;
`wasHeld` says that the grant was held widened before it: the report that ends a hold narrows the grant (R77) and does
not shrink it further (worked case of section 4.6). The tests of R81 are made bay by bay in rising number, and before the
closure tests of a tong newly loaded (log entry 58). -/
def State.reportRU (s : State) (k : Nat) (loadedBefore wasHeld : Bool) : State :=
  let c := s.crane k
  let s := if c.lock = .locked ∧ !c.heldWide then (if wasHeld then s else s.shrink k).narrow k else s
  let s := [0, 1, 2].foldl (fun s b => s.breachTest k b) s
  if c.loaded && !loadedBefore then s.closureTests k else s

/-- A bay's extent closes: the closure test for every crane (R79), from west to east (log entry 50). -/
def State.closeExtent (s : State) (b : Nat) : State :=
  (fittedCranes s).foldl (fun s k => s.closureTest k b) s

/-- A bay's extent opens: its breach list is emptied and the list scanned (R81). -/
def State.openExtent (s : State) (b : Nat) : State :=
  (s.modBay b fun v => { v with breach := [] }).scan

end Sys2Proof.Machine
end

