-- ==== Sys2Proof/Machine/Store.lean ====
section
/-! DEFINITION. SU: positions, the cradle rules, slotting, and the creation of moves (spec 01 sections 1.1 to 1.6, spec 02). -/

namespace Sys2Proof.Machine

/-! ## Positions (R3, R25, R90) -/

namespace State

/-- The trolley position of a row. -/
def rowPos (s : State) (r : Nat) : Nat := s.rowY.getD r 0

/-- The trolley position of a slot (R3). -/
def slotY (s : State) (i : Nat) : Nat :=
  if isLower i then s.rowPos (slotPos i)
  else (s.rowPos (slotPos i - 12) + s.rowPos (slotPos i - 11)) / 2

def slotX (s : State) (i : Nat) : Nat := (s.column (slotColumn i)).x

def entry? (s : State) (b e : Nat) : Option Entry := (s.bay b).plan.find e

/-- Changes an entry of a bay's plan; a number without one is left alone. -/
def modEntry (s : State) (b e : Nat) (f : Entry → Entry) : State :=
  match s.entry? b e with
  | some v => s.modBay b fun k => { k with plan := k.plan.put e (f v) }
  | none => s

/-- The runway position of a place: the source x of a choice (R25). -/
def placeX (s : State) : Place → Nat
  | .slot i => s.slotX i
  | .station n => (s.station n).x
  | .hook c => (s.crane c).shownX
  | .bed b _ => (s.bay b).centre

/-- The trolley position of a place; of a bed entry the front support line plus the bed position, at most 4,000 (R90). -/
def placeY (s : State) : Place → Nat
  | .slot i => s.slotY i
  | .station n => (s.station n).y
  | .hook c => (s.crane c).y
  | .bed b e => min 4000 ((s.bay b).frontLine + ((s.entry? b e).map Entry.position).getD 0)

end State

/-- The weight used for a coil: measured if the record holds one, else declared (section 1.4). -/
def Coil.weightUsed (c : Coil) : Nat := c.measured.getD c.declared

/-! ## Cradle rules (R10 to R12) -/

/-- The coil that lies in a HELD slot. -/
def State.heldCoil (s : State) (i : Nat) : Option Coil :=
  if (s.slot i).state = .held then (s.slot i).coil.bind s.coil? else none

/-- A lower slot may be targeted (R10). -/
def State.lowerFits (s : State) (c : Coil) (weight i : Nat) : Bool :=
  let col := s.column (slotColumn i)
  (s.slot i).state == .free && !col.out && decide (c.width ≤ col.maxWidth)
    && decide (c.diameter ≤ col.maxDiameter) && decide (weight ≤ col.lowerLimit)

/-- An upper slot may be targeted (R11). -/
def State.upperFits (s : State) (c : Coil) (weight i : Nat) : Bool :=
  let col := s.column (slotColumn i)
  (s.slot i).state == .free && !col.out && decide (weight ≤ col.upperLimit)
    && match s.heldCoil (leftSupport i), s.heldCoil (rightSupport i) with
      | some l, some r =>
        decide (absDiff l.diameter r.diameter ≤ s.policy.cradleTolerance)
          && decide (c.width ≤ min l.width r.width) && !l.outbound && !r.outbound
      | _, _ => false

/-- A slot may be targeted for a coil under R10 or R11. -/
def State.slotFits (s : State) (c : Coil) (weight i : Nat) : Bool :=
  if isLower i then s.lowerFits c weight i else isUpper i && s.upperFits c weight i

/-- An upper position is occupied for R12: HELD, TARGETED or LEAVING. -/
def SlotState.occupied : SlotState → Bool
  | .held | .targeted | .leaving => true
  | _ => false

/-- A lower slot carries or is to carry an upper coil; an upper slot never does. -/
def State.buried (s : State) (i : Nat) : Bool :=
  isLower i && (uppersOver i).any fun u => (s.slot u).state.occupied

/-- A coil may be picked from a slot (R12). -/
def State.pickable (s : State) (i : Nat) : Bool := (s.slot i).state == .held && !s.buried i

/-! ## Cranes (R26, R27) -/

/-- Fitted, neither OUT nor FAULT, and the service range contains the x: one half of R26. -/
def State.serves (s : State) (x c : Nat) : Bool :=
  let k := s.crane c
  s.fitted c && k.state != .out && k.state != .fault && decide (k.svcLo ≤ x ∧ x ≤ k.svcHi)

/-- A crane is eligible for a source and a destination x (R26). -/
def State.eligible (s : State) (source dest c : Nat) : Bool := s.serves source c && s.serves dest c

/-- The load of a crane: the live moves in its queue (R27). -/
def State.load (s : State) (c : Nat) : Nat := (s.crane c).queue.length

/-- Puts a crane of a lower index into a ranking, before the cranes whose load is not lower. -/
def State.rankIn (s : State) (c : Nat) : List Nat → List Nat
  | [] => [c]
  | d :: rest => if s.load c ≤ s.load d then c :: d :: rest else d :: s.rankIn c rest

/-- Cranes ranked by load, and by index between equal loads (R27, R29). -/
def State.ranked (s : State) (cranes : List Nat) : List Nat := cranes.foldr s.rankIn []

/-! ## Choosing a slot (R28 to R34) -/

/-- Why a choice fails. -/
inductive ChoiceFail where
  | noCrane | noSlot | slotUnfit
  deriving DecidableEq, Repr

/-- What a choice starts from (R25): the coil, its source and weight used, and the upper slots excluded (R30). -/
structure Choice where
  record : Nat
  coil : Coil
  weight : Nat
  source : Place
  sourceX : Nat
  excluded : List Nat := []
  noUpper : Bool := false
  deriving DecidableEq, Repr

/-- The upper slots that rest on a lower source slot (R28, R30). -/
def restingOn : Place → List Nat
  | .slot i => if isLower i then uppersOver i else []
  | _ => []

/-- The choice for a coil from its place, with further upper slots excluded. -/
def State.choiceFor (s : State) (r : Nat) (c : Coil) (excluded : List Nat) : Choice :=
  { record := r, coil := c, weight := c.weightUsed, source := c.place, sourceX := s.placeX c.place
    excluded := restingOn c.place ++ excluded }

/-- A slot is a candidate for a crane (R29, R30). -/
def State.candidate (s : State) (ch : Choice) (crane i : Nat) : Bool :=
  let x := s.slotX i
  let k := s.crane crane
  s.slotFits ch.coil ch.weight i && !(ch.noUpper && isUpper i) && !ch.excluded.contains i
    && decide (k.svcLo ≤ x ∧ x ≤ k.svcHi)

/-- The group term of a column (R32); the coil being moved is disregarded at its own source. -/
def State.groupTerm (s : State) (ch : Choice) (col : Nat) : Nat :=
  let others := s.slots.filter fun p => slotColumn p.1 == col && ch.source != .slot p.1
  if others.any fun p =>
      p.2.state == .held && ((p.2.coil.bind s.coil?).map Coil.group == some ch.coil.group) then 0
  else if others.any fun p => p.2.state == .held || p.2.state == .leaving then s.policy.gMix
  else s.policy.gEmpty

/-- The crowd term for a crane being tried (R33). -/
def State.crowdTerm (s : State) (crane x : Nat) : Nat :=
  if (fittedCranes s).any fun j =>
      j != crane && decide ((s.crane j).grant.lo ≤ (x : Int) ∧ (x : Int) ≤ (s.crane j).grant.hi) then
    s.policy.cZone
  else 0

/-- The score of a candidate (R31). -/
def State.score (s : State) (ch : Choice) (crane i : Nat) : Nat :=
  let x := s.slotX i
  absDiff x ch.sourceX / 100 + (if isUpper i then s.policy.pUp else 0)
    + s.groupTerm ch (slotColumn i) + s.crowdTerm crane x

/-- The lowest score wins, and the lowest index between equal scores (R34); slots come in index order. -/
def bestOf (score : Nat → Nat) : List Nat → Option Nat
  | [] => none
  | i :: rest =>
    match bestOf score rest with
    | none => some i
    | some j => if score i ≤ score j then some i else some j

/-- The winner among the candidates for one crane. -/
def State.bestSlot (s : State) (ch : Choice) (crane : Nat) : Option Nat :=
  bestOf (s.score ch crane) (s.slots.keys.filter (s.candidate ch crane))

/-- Crane by crane in the ranking, the first that has a candidate (R29, steps 3 to 5). -/
def State.searchCranes (s : State) (ch : Choice) : List Nat → Except ChoiceFail (Nat × Nat)
  | [] => .error .noSlot
  | c :: rest =>
    match s.bestSlot ch c with
    | some i => .ok (i, c)
    | none => s.searchCranes ch rest

/-- The cranes a choice may use: those that serve the source, limited to the carrying crane of a coil on a hook and to
the crane software names (R26, R29). -/
def State.cranesFor (s : State) (ch : Choice) (named : Option Nat) : List Nat :=
  ([0, 1, 2, 3].filter (s.serves ch.sourceX)).filter fun c =>
    (match ch.source with
      | .hook k => k == c
      | _ => true)
    && (match named with
      | some n => n == c
      | none => true)

/-- The choice with an AUTO target (R29). -/
def State.chooseAuto (s : State) (ch : Choice) (named : Option Nat) : Except ChoiceFail (Nat × Nat) :=
  match s.ranked (s.cranesFor ch named) with
  | [] => .error .noCrane
  | ranking => s.searchCranes ch ranking

/-- The crane for a known destination x: the least loaded eligible one (R27). -/
def State.chooseCrane (s : State) (ch : Choice) (named : Option Nat) (destX : Nat) : Option Nat :=
  (s.ranked ((s.cranesFor ch named).filter (s.serves destX))).head?

/-- The choice with a named target: the slot first, then the crane (R28). -/
def State.chooseNamed (s : State) (ch : Choice) (named : Option Nat) (i : Nat) : Except ChoiceFail (Nat × Nat) :=
  if s.slotFits ch.coil ch.weight i && !ch.excluded.contains i then
    match s.chooseCrane ch named (s.slotX i) with
    | some c => .ok (i, c)
    | none => .error .noCrane
  else .error .slotUnfit

/-! ## Creating a move (R20, R83 to R85, R87) -/

/-- The place named by a move as its source is given up to it: LEAVING (R20). -/
def State.markSource (s : State) (p : Place) (m : Nat) : State :=
  match p with
  | .slot i => s.setSlot i { s.slot i with state := .leaving, move := some m }
  | .station n => s.setStation n { s.station n with state := .leaving, move := some m }
  | .bed b e => s.modEntry b e fun v => { v with bed := .leaving }
  | .hook _ => s

/-- The place named as the destination: TARGETED for the coil, or RESERVED (R20, R148). -/
def State.markDest (s : State) (p : Place) (m coil : Nat) : State :=
  match p with
  | .slot i => s.setSlot i { state := .targeted, coil := some coil, move := some m }
  | .bed b e => s.modEntry b e fun v => { v with bed := .reserved }
  | _ => s

/-- The queue with a new move: at its end, or for a hook source directly behind the current move (R84). -/
def State.enqueue (s : State) (c m : Nat) (fromHook : Bool) : List Nat :=
  let q := (s.crane c).queue
  if fromHook then
    match s.currentMove c, q with
    | some _, h :: rest => h :: m :: rest
    | _, _ => m :: q
  else q ++ [m]

/-- The acceptance sequence after `n` (R85). -/
def nextSequence (n : Nat) : Nat := if n = 4294967295 then 1 else n + 1

/-- SU creates a move and hands it to CU's move list, or makes no mark where the list or the queue is full, or the coil's
record has a live move already (R20). -/
def State.createMove (s : State) (origin : Origin) (tag r : Nat) (c : Coil) (dest : Place) (auto : Bool)
    (crane : Nat) : Option State :=
  if c.move.isNone ∧ (s.crane crane).queue.length < Config.queuePlaces then
    match s.moves.lowestFree Config.moveNumbers 0 with
    | none => none
    | some m =>
      let v : Move :=
        { seq := s.nextSeq, origin := origin, tag := tag, coil := r, source := c.place, dest := dest, auto := auto
          crane := crane, sourceX := s.placeX c.place, sourceY := s.placeY c.place, destX := s.placeX dest
          destY := s.placeY dest }
      let fromHook := match c.place with
        | .hook _ => true
        | _ => false
      let q := s.enqueue crane m fromHook
      let s := (s.markSource c.place m).markDest dest m r
      let s := s.modCoil r fun k => { k with move := some m }
      let s := { s with nextSeq := nextSequence s.nextSeq }
      some ((s.setMove m v).modCrane crane fun k => { k with queue := q })
  else none

/-! ## What a move does to the store (R21) -/

/-- Whether a slot is LEAVING by the move. -/
def State.leavingBy (s : State) (i m : Nat) : Bool :=
  (s.slot i).state == .leaving && (s.slot i).move == some m

/-- A destination slot TARGETED by the move becomes FREE (R7, R21). -/
def State.freeTarget (s : State) (p : Place) (m : Nat) : State :=
  match p with
  | .slot i => if (s.slot i).state = .targeted ∧ (s.slot i).move = some m then s.setSlot i { state := .free } else s
  | _ => s

/-- A source slot or station still LEAVING by the move becomes FREE or EMPTY (R21). -/
def State.freeSource (s : State) (p : Place) (m : Nat) : State :=
  match p with
  | .slot i => if s.leavingBy i m then s.setSlot i { state := .free } else s
  | .station n =>
    if (s.station n).state = .leaving ∧ (s.station n).move = some m then
      s.setStation n { s.station n with state := .empty, coil := none, move := none }
    else s
  | _ => s

/-- A source slot or station LEAVING by the move becomes HELD again (R21). -/
def State.restoreSource (s : State) (p : Place) (m : Nat) : State :=
  match p with
  | .slot i => if s.leavingBy i m then s.setSlot i { s.slot i with state := .held, move := none } else s
  | .station n =>
    if (s.station n).state = .leaving ∧ (s.station n).move = some m then
      s.setStation n { s.station n with state := .held, move := none }
    else s
  | _ => s

/-- A destination slot becomes HELD by the coil (R21, SET_RELEASE completed). -/
def State.fillSlot (s : State) (p : Place) (r : Nat) : State :=
  match p with
  | .slot i => s.setSlot i { state := .held, coil := some r }
  | _ => s

/-- The coil's place becomes `p` (R21). -/
def State.setPlace (s : State) (r : Nat) (p : Place) : State := s.modCoil r fun c => { c with place := p }

/-- The re-choice of R35: a lower slot for a live move, among the columns of the move's crane. -/
def State.rechoose (s : State) (m : Nat) : Option State :=
  match s.move? m with
  | none => none
  | some v =>
    match s.coil? v.coil with
    | none => none
    | some c =>
      let ch : Choice :=
        { record := v.coil, coil := c, weight := c.weightUsed, source := v.source, sourceX := v.sourceX
          excluded := restingOn v.source, noUpper := true }
      match s.bestSlot ch v.crane with
      | none => none
      | some i =>
        let s := s.freeTarget v.dest m
        let s := s.markDest (.slot i) m v.coil
        some (s.setMove m { v with dest := .slot i, destX := s.slotX i, destY := s.slotY i })

/-- The seat height of a coil at a place (R91). -/
def State.seatHeight (s : State) (c : Coil) (p : Place) : Nat :=
  match p with
  | .slot i =>
    if isUpper i then
      let d := fun k => (((s.slot k).coil.bind s.coil?).map Coil.diameter).getD 0
      (d (leftSupport i) + d (rightSupport i)) / 40 + c.diameter / 20
    else c.diameter / 20
  | _ => c.diameter / 20

end Sys2Proof.Machine
end

