-- ==== Sys2Proof/Machine/Loading.lean ====
section
/-! DEFINITION. LU: shares and loads, plan entries and their evaluation, bay states, arrivals and checks (spec 07; R36 to R40). -/

namespace Sys2Proof.Machine

/-! ## Axle-group arithmetic (R141, R142) -/

/-- The rear share of a coil of weight `w` at position `p` on a truck of support spacing `l` (R141). -/
def rearShare (w p l : Nat) : Nat := (w * p + l / 2) / l

/-- The front share: the remainder of the weight (R141). -/
def frontShare (w p l : Nat) : Nat := w - rearShare w p l

/-- The first load limit that front and rear loads exceed, tested front, rear, gross (R140, R143, R149). -/
def Bay.exceeded (b : Bay) (front rear : Nat) : Option LoadGroup :=
  if b.frontLimit < front then some .front
  else if b.rearLimit < rear then some .rear
  else if b.grossLimit < front + rear then some .gross
  else none

/-- The coil of the entry is on the bed: FILLED or LEAVING (R142). -/
def Entry.onBed (e : Entry) : Bool := e.bed == .filled || e.bed == .leaving

/-- RESERVED with a bed weight: the axle recheck has passed (R142). -/
def Entry.committed (e : Entry) : Bool := e.bed == .reserved && e.bedWeight.isSome

/-- The entry is in flight (R145). -/
def Entry.inFlight (e : Entry) : Bool :=
  e.started && (e.state == .waiting || e.state == .digging || e.state == .moving)

/-! ## Bay states -/

/-- Zero tracking of a channel ends: its partial batch set is discarded (R128), and its zero set ends (R132). -/
def State.endTracking (s : State) (k : Nat) : State :=
  (s.modChannel k fun c => { c with batchSet := none }).dropZeroSet k

/-- Sets a bay's state; a bay that leaves EMPTY ends zero tracking and the zero sets on its platform channels (R132, R139, log
entry 51), the front before the rear (log entry 60). -/
def State.setBayState (s : State) (b : Nat) (st : BayState) : State :=
  let old := (s.bay b).state
  let s := s.modBay b fun k => { k with state := st }
  if old = .empty ∧ st ≠ .empty then (s.endTracking (frontChannel b)).endTracking (rearChannel b) else s

/-- The truck record, the plan and the loads are cleared (R140, R157, R158). -/
def Bay.withoutTruck (b : Bay) : Bay :=
  { b with
    truckRef := 0, spacing := 0, frontLimit := 0, rearLimit := 0, grossLimit := 0, tareFront := 0, tareRear := 0
    front := 0, rear := 0, plan := [], remaining := 0 }

/-- The coil id of an entry. -/
def State.entryCoilId (s : State) (b e : Nat) : Nat :=
  ((((s.entry? b e).map Entry.coil).bind s.coil?).map Coil.id).getD 0

/-- The bay's answer to an order its state forbids. -/
def State.bayRefusal (s : State) (b : Nat) : Answer := .stateOf .bayState b (s.bay b).state.code

/-! ## Platform sessions (R123, R139, R155) -/

/-- Asks WU for a platform session: it opens when both channels are ACTIVE, and its stage goes into the waiting cell's
progress byte (R123, R127, R139). The flag says whether it opened. -/
def State.openPlatform (s : State) (b : Nat) (p : Purpose) : State × Bool :=
  if (s.channel (frontChannel b)).active && (s.channel (rearChannel b)).active then
    let s := s.modBay b fun k => { k with session := some { purpose := p } }
    match (s.bay b).waitingCell with
    | some (cell, take) => (s.progress cell take 1, true)
    | none => (s, true)
  else (s, false)

/-- The cause of a pair of reports that are not both weights (R140, R156): OVER, NO_LOAD, or, where each platform
gives one of them, a free value (log entry 9). -/
def State.reportCause (s : State) (f r : Report) : State × Nat :=
  let tooHeavy := f == .over || r == .over
  let noLoad := f == .noLoad || r == .noLoad
  if tooHeavy && noLoad then
    ({ s with freeCount := s.freeCount + 1 }, if Config.mixedCauseIsOver s.freeCount then 2 else 3)
  else (s, if tooHeavy then 2 else 3)

/-- The UNSETTLED answer of an arrival: cause, both reports and both weights (R140, R188). -/
def Answer.unsettledTruck (cause front rear frontWeight rearWeight : Nat) : Answer :=
  { code := .unsettled
    area := [byte cause, byte front, byte rear, 0] ++ leBytes 2 frontWeight ++ leBytes 2 rearWeight }

/-- The waiting cell is answered and cleared (R140). -/
def State.answerWaiting (s : State) (b : Nat) (a : Answer) : State :=
  match (s.bay b).waitingCell with
  | some (cell, take) => (s.modBay b fun k => { k with waitingCell := none }).answer cell take a
  | none => s

/-- An arrival that gives no tares: the bay returns to EMPTY without a truck (R140). -/
def State.dropArrival (s : State) (b : Nat) (a : Answer) : State :=
  ((s.setBayState b .empty).modBay b Bay.withoutTruck).answerWaiting b a

/-- LU ends an arrival (R140). -/
def State.settleArrival (s : State) (b : Nat) : PlatformResult → State
  | .reports (.weight f) (.weight r) =>
    match (s.bay b).exceeded f r with
    | some g => s.dropArrival b (.planUnfit g absent8 f r)
    | none =>
      let s := s.setBayState b .arrived
      let s := s.modBay b fun k => { k with tareFront := f, tareRear := r, front := f, rear := r }
      s.answerWaiting b { code := .done, area := leBytes 2 f ++ leBytes 2 r }
  | .reports f r =>
    let p := s.reportCause f r
    p.1.dropArrival b (.unsettledTruck p.2 f.code r.code f.weightOr0 r.weightOr0)
  | .unsettled => s.dropArrival b (.unsettledTruck 4 4 4 0 0)
  | .noWeight => s.dropArrival b (.unsettledTruck 5 5 5 0 0)

/-- The check tolerance of a computed load (R155). -/
def Bay.tolerance (b : Bay) (load : Nat) : Nat := max b.checkMin (load * b.checkPm / 1000)

/-- A group passes the check (R155). -/
def Bay.passes (b : Bay) (load reported : Nat) : Bool := decide (absDiff load reported ≤ b.tolerance load)

/-- The bay becomes READY or DISCREPANT, with its BAY_STATE entry and the BAY notice (R156, R160). -/
def State.endCheck (s : State) (b : Nat) (st : BayState) (cause f r fw rw : Nat) : State :=
  let s := s.setBayState b st
  let k := s.bay b
  s.report .bay <| bayEntry s b
    { cause := cause, weight := fw, rearWeight := rw, front := k.front, rear := k.rear
      frontTol := k.tolerance k.front, rearTol := k.tolerance k.rear, frontReport := f, rearReport := r }

/-- The cause of a failed check: FRONT, REAR or both; 0 when both groups pass (R156). -/
def Bay.checkCause (b : Bay) (f r : Nat) : Nat :=
  match b.passes b.front f, b.passes b.rear r with
  | true, true => 0
  | false, true => 7
  | true, false => 8
  | false, false => 9

/-- LU settles a check (R156). -/
def State.settleCheck (s : State) (b : Nat) : PlatformResult → State
  | .reports (.weight f) (.weight r) =>
    let cause := (s.bay b).checkCause f r
    s.endCheck b (if cause = 0 then .ready else .discrepant) cause 1 1 f r
  | .reports f r =>
    let p := s.reportCause f r
    p.1.endCheck b .discrepant (p.2 + 8) f.code r.code f.weightOr0 r.weightOr0
  | .unsettled => s.endCheck b .discrepant 12 4 4 0 0
  | .noWeight => s.endCheck b .discrepant 13 5 5 0 0

/-- LU settles a platform session by its purpose. -/
def State.settlePlatform (s : State) (b : Nat) (p : Purpose) (r : PlatformResult) : State :=
  match p with
  | .arrival => s.settleArrival b r
  | .check => s.settleCheck b r

/-- The bay becomes CHECK and asks for its session (R155). -/
def State.enterCheck (s : State) (b : Nat) : State :=
  let s := s.setBayState b .check
  let s := s.produce (bayEntry s b {})
  let p := s.openPlatform b .check
  if p.2 then p.1 else p.1.settleCheck b .noWeight

/-! ## Entries (R145 to R152) -/

/-- An entry becomes BLOCKED: a LOADING bay, or a DISCREPANT bay that is unloaded, becomes PLAN_HOLD; a BAY_STATE entry
names the entry and its cause, with the BAY notice (R151, R154). -/
def State.blockEntry (s : State) (b e : Nat) (cause : BlockCause) : State :=
  let group :=
    match cause, (s.entry? b e).bind Entry.axle with
    | .failed .axle, some g => g.code
    | _, _ => 0
  let s := s.modEntry b e fun v => { v with state := .blocked, cause := some cause, axle := none }
  let st := (s.bay b).state
  let s := if st = .loading ∨ st = .discrepant then s.setBayState b .planHold else s
  s.report .bay <| bayEntry s b
    { entry := e, coil := s.entryCoilId b e, cause := cause.code, reason := cause.reasonCode, group := group }

/-- What SU answers to an evaluation (R36). -/
inductive Evaluation where
  | moving | digging | wait
  | blocked (cause : BlockCause)
  deriving DecidableEq, Repr

/-- A dig move of the entry is live. -/
def State.hasDig (s : State) (b e : Nat) : Bool := s.moves.any fun p => p.2.origin == .dig b e

/-- The entry's own move to the bed (R39, R40). -/
def State.entryMove (s : State) (b e r : Nat) (c : Coil) : State × Evaluation :=
  match s.chooseCrane (s.choiceFor r c []) none (s.bay b).centre with
  | none => (s, .blocked .noCrane)
  | some k =>
    match s.createMove (.plan b e) 0 r c (.bed b e) false k with
    | some s' => (s', .moving)
    | none => (s, .wait)

/-- DIGGING when the entry has a live dig move, WAIT otherwise (R38, R40). -/
def State.digAnswer (s : State) (b e : Nat) : Evaluation := if s.hasDig b e then .digging else .wait

/-- The dig moves of the HELD uppers over lower slot `i`, left before right; an evaluation where one stops it
(R37, R40). An upper whose coil has a live move still, the move that filled it being in SET_HOIST, is passed over: SU
creates no second move for it (R20, log entry 44). -/
def State.digUppers (b e i : Nat) : List Nat → State → State × Option Evaluation
  | [], s => (s, none)
  | u :: rest, s =>
    match if (s.slot u).state = .held then (s.slot u).coil else none with
    | none => State.digUppers b e i rest s
    | some r =>
      match s.coil? r with
      | none => State.digUppers b e i rest s
      | some c =>
        if c.move.isSome then State.digUppers b e i rest s
        else
          match s.chooseAuto (s.choiceFor r c (uppersOver i)) none with
          | .error .noCrane => (s, some (.blocked .noCrane))
          | .error _ => (s, some (.blocked .noSlot))
          | .ok (t, k) =>
            match s.createMove (.dig b e) 0 r c (.slot t) true k with
            | some s' => State.digUppers b e i rest s'
            | none => (s, some (s.digAnswer b e))

/-- SU evaluates a plan entry whose coil lies at a slot or a station (R36 to R40). -/
def State.evaluate (s : State) (b e r : Nat) (c : Coil) : State × Evaluation :=
  match c.place with
  | .slot i =>
    if isLower i then
      match State.digUppers b e i (uppersOver i) s with
      | (s, some a) => (s, a)
      | (s, none) => if s.buried i then (s, s.digAnswer b e) else s.entryMove b e r c
    else s.entryMove b e r c
  | _ => s.entryMove b e r c

/-- The coil lies in a lower slot under an occupied upper position (R147). -/
def State.coilBuried (s : State) (c : Coil) : Bool :=
  match c.place with
  | .slot i => s.buried i
  | _ => false

/-- LU asks SU to evaluate an entry and sets its state from the answer (R147). An entry whose own move finds the list or a queue
full, no upper position over its coil occupied, is WAITING even while a dig move of it is live (log entry 61). -/
def State.askEntry (s : State) (b e : Nat) : State :=
  match s.entry? b e with
  | none => s
  | some v =>
    match s.coil? v.coil with
    | none => s
    | some c =>
      if c.move.isSome then s
      else
        match c.place with
        | .hook _ => s.blockEntry b e .coilState
        | .bed _ _ => s
        | _ =>
          let p := s.evaluate b e v.coil c
          match p.2 with
          | .moving => p.1.modEntry b e fun v => { v with state := .moving }
          | .digging => p.1.modEntry b e fun v => { v with state := .digging }
          | .wait =>
            let st : EntryState := if p.1.coilBuried c then .digging else .waiting
            p.1.modEntry b e fun v => { v with state := st }
          | .blocked cause => p.1.blockEntry b e cause

/-- The number of a bay's entries in flight. -/
def State.flights (s : State) (b : Nat) : Nat := ((s.bay b).plan.filter fun p => p.2.inFlight).length

/-- The first entry in plan order that is WAITING and not started (R146). -/
def State.nextEntry (s : State) (b : Nat) : Option Nat :=
  ((s.bay b).plan.find? fun p => p.2.state == .waiting && !p.2.started).map (·.1)

/-- While the bay is LOADING and fewer than 2 entries are in flight, the next is started; a plan has at most 6 (R146). -/
def State.startEntries : Nat → State → Nat → State
  | 0, s, _ => s
  | fuel + 1, s, b =>
    if (s.bay b).state = .loading ∧ s.flights b < 2 then
      match s.nextEntry b with
      | none => s
      | some e => State.startEntries fuel ((s.modEntry b e fun v => { v with started := true }).askEntry b e) b
    else s

/-- An entry becomes LOADED: its BAY_STATE entry, then the check or the next entries (R150). -/
def State.entryLoaded (s : State) (b e : Nat) : State :=
  let s := s.modEntry b e fun v => { v with state := .loaded }
  let s := s.modBay b fun k => { k with remaining := k.remaining - 1 }
  let w := ((s.entry? b e).bind Entry.bedWeight).getD 0
  let s := s.produce (bayEntry s b { entry := e, coil := s.entryCoilId b e, weight := w })
  if (s.bay b).state = .loading ∧ (s.bay b).remaining = 0 then s.enterCheck b else State.startEntries 6 s b

/-- Every started entry that is WAITING or DIGGING is evaluated again, bay by bay in plan order (R147). -/
def State.askAll (s : State) : State :=
  [0, 1, 2].foldl (init := s) fun s b =>
    (s.bay b).plan.keys.foldl (init := s) fun s e =>
      match s.entry? b e with
      | some v => if v.started && (v.state == .waiting || v.state == .digging) then s.askEntry b e else s
      | none => s

/-! ## Bed states (R148, R149, R154) -/

/-- A coil is set on its bed entry: FILLED, its shares added (R98, R148). -/
def State.fillBed (s : State) (b e : Nat) : State :=
  match s.entry? b e with
  | none => s
  | some v =>
    (s.modEntry b e fun v => { v with bed := .filled }).modBay b fun k =>
      { k with front := k.front + v.frontShare, rear := k.rear + v.rearShare }

/-- A reserved entry whose coil was not set there is FREE again, its commitment cleared (R148). -/
def State.releaseBed (s : State) (b e : Nat) : State :=
  s.modEntry b e fun v =>
    if v.bed = .reserved then { v with bed := .free, bedWeight := none, frontShare := 0, rearShare := 0 } else v

/-- A coil leaves its bed entry: shares removed, the entry BLOCKED with UNLOADED, a DISCREPANT bay PLAN_HOLD
(R148, R154). -/
def State.leaveBed (s : State) (b e : Nat) : State :=
  match s.entry? b e with
  | none => s
  | some v =>
    if v.bed = .leaving then
      let s := s.modEntry b e fun v => { v with bed := .free, bedWeight := none, frontShare := 0, rearShare := 0 }
      let s := s.modBay b fun k =>
        { k with front := k.front - v.frontShare, rear := k.rear - v.rearShare, remaining := k.remaining + 1 }
      s.blockEntry b e .unloaded
    else s

/-- A coil is back on its own bed entry (R148). -/
def State.restoreBed (s : State) (b e : Nat) : State :=
  s.modEntry b e fun v => if v.bed = .leaving then { v with bed := .filled } else v

/-- The loads the bay would carry: tares, coils on the bed, committed entries, without entry `e` (R149). -/
def Bay.plannedLoads (k : Bay) (e : Nat) : Nat × Nat :=
  let counted := k.plan.filter fun p => p.1 != e && (p.2.onBed || p.2.committed)
  (k.tareFront + (counted.map fun p => p.2.frontShare).sum, k.tareRear + (counted.map fun p => p.2.rearShare).sum)

/-- The axle recheck of a plan move's measured weight: the entry is committed, or the first group exceeded is kept
for the move's end (R149). The flag says that the loads are within the limits. -/
def State.recheck (s : State) (b e w : Nat) : State × Bool :=
  match s.entry? b e with
  | none => (s, true)
  | some v =>
    let k := s.bay b
    let f := frontShare w v.position k.spacing
    let r := rearShare w v.position k.spacing
    let others := k.plannedLoads e
    match k.exceeded (others.1 + f) (others.2 + r) with
    | some g => (s.modEntry b e fun v => { v with axle := some g }, false)
    | none =>
      (s.modEntry b e fun v => { v with bedWeight := some w, frontShare := f, rearShare := r, axle := none }, true)

/-! ## The end of a move (R108 step 2, R150) -/

/-- Where a move leaves its coil (R21). -/
inductive CoilAt where
  | source | hook | dest
  deriving DecidableEq, Repr

/-- LU settles the bed entries and the plan entry of an ended move; an entry LOADED lets the next be started (R148, R150),
which comes before the waiting entries are evaluated again (R147, log entry 52). -/
def State.endAtLU (s : State) (v : Move) (at_ : CoilAt) (res : MoveResult) : State :=
  let s :=
    match v.source with
    | .bed b e =>
      match at_ with
      | .source => s.restoreBed b e
      | .hook => s.leaveBed b e
      | .dest => s
    | _ => s
  let s :=
    match v.dest with
    | .bed b e => if at_ = CoilAt.dest then s else s.releaseBed b e
    | _ => s
  match v.origin with
  | .plan b e =>
    if at_ = CoilAt.dest then s.entryLoaded b e
    else
      match res with
      | .failed r => s.blockEntry b e (.failed r)
      | _ => s.blockEntry b e .aborted
  | _ => s

end Sys2Proof.Machine
end

