-- ==== Sys2Proof/Machine/Moves.lean ====
section
/-! DEFINITION. CU: the course of a move, its weighing, its end, aborts, and the entry into and leaving of FAULT
(spec 05; R58). -/

namespace Sys2Proof.Machine

/-- After an event of CU: moves that may request again do so, and where a crane has become IDLE with an empty queue RU
looks at its list (R70, R73). -/
def State.afterCU (before s : State) : State :=
  s.settleRU ([0, 1, 2, 3].any fun j => s.idleFree j && !before.idleFree j)

/-! ## The end of a move (R108 to R110) -/

/-- The end of a move in SU (R21). SET_RELEASE completed has already put the coil at its destination. -/
def State.endAtSU (s : State) (m : Nat) (v : Move) (at_ : CoilAt) : State :=
  let s :=
    match at_ with
    | .source => ((s.restoreSource v.source m).freeTarget v.dest m).setPlace v.coil v.source
    | .hook => ((s.freeSource v.source m).freeTarget v.dest m).setPlace v.coil (.hook v.crane)
    | .dest => s
  s.modCoil v.coil fun c => { c with move := none }

/-- The move leaves the move list and its crane's queue (R84, R108). -/
def State.dropMove (s : State) (m : Nat) (v : Move) : State :=
  { s with moves := s.moves.erase m }.modCrane v.crane fun c => { c with queue := c.queue.filter (· != m) }

def MoveResult.code : MoveResult → Nat
  | .done => 1
  | .aborted => 2
  | .failed _ => 3

/-- The failure reason, or the phase for ABORTED. -/
def MoveResult.detail (ph : Phase) : MoveResult → Nat
  | .done => 0
  | .aborted => ph.code
  | .failed r => r.code

def Origin.kindCode : Origin → Nat
  | .cell _ _ => 1
  | .plan _ _ => 2
  | .dig _ _ => 3

/-- The cell, or the bay plus 16 times the entry. -/
def Origin.valueCode : Origin → Nat
  | .cell n _ => n
  | .plan b e => b + 16 * e
  | .dig b e => b + 16 * e

/-- Whether the end of a move writes a MOVE_END entry (R110). -/
def Move.journaled (v : Move) (res : MoveResult) : Bool :=
  (match v.origin with
    | .cell _ _ => false
    | _ => true)
  || v.wasDeferred
  || (match res with
    | .done => false
    | .aborted => v.abort.all fun a => a.kind != .quiet
    | .failed _ => true)

/-- The MOVE_END entry (R110, 11.3). -/
def moveEndEntry (s : State) (m : Nat) (v : Move) (res : MoveResult) : JournalEntry :=
  let c := s.coil? v.coil
  { kind := 1, subject := v.crane, tag := v.tag, coil := (c.map Coil.id).getD 0
    detail :=
      [byte m, byte v.origin.kindCode, byte v.origin.valueCode, byte res.code, byte (res.detail v.phase),
        byte ((c.map fun c => c.status.code).getD 0), byte v.source.kindCode, byte v.dest.kindCode]
      ++ leBytes 2 v.source.valueCode ++ leBytes 2 v.dest.valueCode
      ++ [byte (v.wasDeferred.toNat + 2 * v.late.toNat)] }

/-- The answer of a move's cell (R110). -/
def moveAnswer (s : State) (v : Move) : MoveResult → Answer
  | .done =>
    let c := s.coil? v.coil
    { code := .done
      area :=
        leBytes 2 v.dest.valueCode ++ [byte v.crane, byte ((c.map fun c => c.status.code).getD 0)]
        ++ leBytes 2 ((c.bind Coil.measured).getD absent16) ++ [byte v.late.toNat] }
  | .aborted => { code := .aborted, area := [byte v.phase.code] }
  | .failed r => { code := .failed, area := [byte r.code] }

/-- The answer of the abort cell at the move's end: DONE, with LATE and the result where the abort did not take
effect (R104). -/
def abortAnswer : MoveResult → Answer
  | .aborted => { code := .done, area := [0] }
  | .done => { code := .done, area := [2, byte (MoveResult.code .done), 0] }
  | .failed r => { code := .done, area := [2, byte (MoveResult.code (.failed r)), byte r.code] }

/-- The answer to an abort that finds a request recorded already (R104). -/
def repeatAnswer : Answer := { code := .done, area := [1] }

/-- Answers and journal entries of a move's end: MOVE_END, the cell, the abort cell (R108 step 4, R110). -/
def State.reportEnd (s : State) (m : Nat) (v : Move) (res : MoveResult) : State :=
  let s := if v.journaled res then s.produce (moveEndEntry s m v res) else s
  let s :=
    match v.origin with
    | .cell n take => s.answer n take (moveAnswer s v res)
    | _ => s
  match v.abort with
  | some a => s.answer a.cell a.take (abortAnswer res)
  | none => s

/-- The crane of an ended move is IDLE, or its resume state is; on a yield of R73 it goes on with the yield; in FAULT it
stays. A move that had not begun leaves its crane as it is (R57, R108 step 5). -/
def State.releaseCrane (s : State) (v : Move) : State :=
  if v.phase = .queued then s
  else
    let s := s.modCrane v.crane fun c => { c with deferral := none }
    match (s.crane v.crane).working with
    | .yielding => s.modCrane v.crane fun c => { c with yield := c.yield.map fun y => { y with back := .idle } }
    | .busy => (s.clearStep v.crane).setWorking v.crane .idle
    | _ => s

/-- The end of a move, in the order of R108: SU, then LU settles its entries, then the move leaves list and queue. Its place
has then come free, and the waiting entries are evaluated again before CU's answers and entries (log entry 30). -/
def State.endMove (s : State) (m : Nat) (at_ : CoilAt) (res : MoveResult) : State :=
  match s.move? m with
  | none => s
  | some v =>
    let s := ((s.endAtSU m v at_).endAtLU v at_ res).dropMove m v
    (s.askAll.reportEnd m v res).releaseCrane v

/-! ## Set-back and leg 2 (R96, R97, R100) -/

/-- The coil of a move. -/
def State.moveCoil (s : State) (m : Nat) : Option Coil := (s.move? m).bind fun v => s.coil? v.coil

/-- The crane lowers the move's coil onto a place: LOWER with the seat height there (R91). -/
def State.lowerOnto (s : State) (m : Nat) (p : Place) : State :=
  match s.move? m, s.moveCoil m with
  | some v, some c => s.dueStep v.crane (.lower (s.seatHeight c p))
  | _, _ => s

/-- A set-back begins: SET_LOWER over the source (R100). -/
def State.startSetBack (s : State) (m : Nat) (r : Reason) : State :=
  match s.move? m with
  | none => s
  | some v => ((s.modMove m fun v => { v with setBack := some r }).setPhase m .setLower).lowerOnto m v.source

/-- LEG2_WAIT: the source is given up, then leg 2 is requested (R97, R90). -/
def State.enterLeg2 (s : State) (m : Nat) : State :=
  match s.move? m with
  | none => s
  | some v =>
    let s := (s.setPhase m .leg2Wait).freeSource v.source m
    let s :=
      match v.source with
      | .bed b e => s.leaveBed b e
      | _ => s
    match s.legRequest v.crane with
    | some r => s.requestLeg r
    | none => s

/-- CU asks SU for a new destination: LEG2_WAIT bound for it, or a set-back with TIER_WEIGHT (R97). -/
def State.askRechoice (s : State) (m : Nat) : State :=
  match s.rechoose m with
  | some s' => s'.enterLeg2 m
  | none => s.startSetBack m .tierWeight

/-! ## Weighing on the hook (R95, R96) -/

/-- The weigh tolerance of a declared weight (R95). -/
def State.weighTolerance (s : State) (declared : Nat) : Nat :=
  max s.policy.weighMin (declared * s.policy.weighPm / 1000)

/-- A result is WEIGHED within tolerance for a coil (R95). -/
def State.withinTolerance (s : State) (c : Coil) : HookResult → Bool
  | .weighed w => decide (absDiff w c.declared ≤ s.weighTolerance c.declared)
  | _ => false

/-- What a result makes of a coil's weighing fields (R15). -/
def Coil.weigh (c : Coil) (within : Bool) : HookResult → Coil
  | .weighed w => { c with measured := some w, status := if within then .weighed else .mismatch }
  | .unsettled | .noWeight => { c with measured := none, status := .unsettled }
  | .over => { c with measured := none, status := .over }

/-- The coil record takes a result; a WEIGHED result outside tolerance is journaled (R95). -/
def State.recordWeighing (s : State) (v : Move) (r : HookResult) : State :=
  match s.coil? v.coil with
  | none => s
  | some c =>
    let within := s.withinTolerance c r
    let s := s.setCoil v.coil (c.weigh within r)
    match r, within with
    | .weighed w, false =>
      s.report .weight
        { kind := 2, subject := v.crane, tag := v.tag, coil := c.id, detail := leBytes 2 c.declared ++ leBytes 2 w }
    | _, _ => s

/-- The measured weight exceeds the upper weight limit of the destination's column (R96). -/
def State.tierExceeded (s : State) (c : Coil) (i : Nat) : Bool :=
  isUpper i && c.measured.any fun w => decide ((s.column (slotColumn i)).upperLimit < w)

/-- The course of a move after its weighing, by the cases of R96 in order. `s` holds the updated record, and `within`
says WEIGHED within tolerance. -/
def State.afterWeighing (s : State) (m : Nat) (v : Move) (r : HookResult) (within : Bool) : State :=
  match r, v.dest with
  | .over, _ => s.startSetBack m .overload
  | .weighed w, .bed b e =>
    if within then
      let p := s.recheck b e w
      if p.2 then p.1.enterLeg2 m else p.1.startSetBack m .axle
    else s.startSetBack m .weight
  | _, .bed _ _ => s.startSetBack m .weight
  | _, .slot i =>
    if (s.coil? v.coil).any fun c => s.tierExceeded c i then
      if v.auto then s.askRechoice m else s.startSetBack m .tierWeight
    else s.enterLeg2 m
  | _, _ => s.enterLeg2 m

/-- CU takes the result of a move's weighing (R95, R96). -/
def State.weighResult (s : State) (m : Nat) (r : HookResult) : State :=
  match s.move? m with
  | none => s
  | some v =>
    if v.phase = .weigh then
      let within := (s.coil? v.coil).any fun c => s.withinTolerance c r
      (s.recordWeighing v r).afterWeighing m v r within
    else s

/-- A hook session is closed without a result (R126). -/
def State.closeHook (s : State) (k : Nat) : State := s.modChannel k fun c => { c with session := none }

/-- The move enters WEIGH and CU opens a hook session; a channel that is not ACTIVE gives NO_WEIGHT at once (R95, R123). -/
def State.enterWeigh (s : State) (m : Nat) : State :=
  match s.move? m with
  | none => s
  | some v =>
    let s := s.setPhase m .weigh
    if (s.channel v.crane).active then s.modChannel v.crane fun c => { c with session := some {} }
    else s.weighResult m .noWeight

/-! ## The pick and its withdrawal (R92 to R95) -/

/-- SU sets PLACE_DOUBT on a coil (R15). -/
def State.doubtPlace (s : State) (r : Nat) : State := s.modCoil r fun c => { c with placeDoubt := true }

/-- The withdrawal steps begin: RELEASE, then HOIST (R94). -/
def State.startWithdrawal (s : State) (m : Nat) (w : Withdrawal) : State :=
  match s.move? m with
  | none => s
  | some v => (s.modMove m fun v => { v with withdrawal := some w }).dueStep v.crane .release

/-- The HOIST every move sends goes to the clear height (R91). -/
def State.hoistStep (s : State) : StepKind := .hoist s.runway.clearHeight

/-- The result a withdrawal was sent for (R94). -/
def Withdrawal.result : Withdrawal → MoveResult
  | .noCoil => .failed .noCoil
  | .tag => .failed .tag
  | .aborted => .aborted

/-- An AT_SAFE abort waits for the step in progress (R105, R106). -/
def Move.safeAbort (v : Move) : Bool := v.abort.any fun a => a.kind == .atSafe

/-- GRIP complete: the tong decides (R92). -/
def State.gripDone (s : State) (m : Nat) (v : Move) : State :=
  if (s.crane v.crane).tong = .closedLoaded then
    ((s.modMove m fun v => { v with attempts := 0 }).setPhase m .pickVerify).dueStep v.crane .tagread
  else (s.doubtPlace v.coil).startWithdrawal m .noCoil

/-- TAGREAD complete: the read passes, or fails and is tried up to three times (R93). -/
def State.tagDone (s : State) (m : Nat) (v : Move) : State :=
  let read := (s.crane v.crane).tagRead.join
  let id := ((s.coil? v.coil).map Coil.id).getD 0
  if read = some id then
    ((s.modCoil v.coil fun c => { c with placeDoubt := false }).setPhase m .pickHoist).dueStep v.crane s.hoistStep
  else
    let n := v.attempts + 1
    let s := s.modMove m fun v => { v with attempts := n }
    if n < 3 then s.dueStep v.crane .tagread
    else
      let s := s.produce
        { kind := 3, subject := v.crane, tag := v.tag, coil := id, detail := leBytes 4 (read.getD 0) }
      (s.doubtPlace v.coil).startWithdrawal m .tag

/-- PICK_HOIST completed: the coil is on the hook (R95); an AT_SAFE abort ends the move there (R106). -/
def State.hoistDone (s : State) (m : Nat) (v : Move) : State :=
  let s := s.setPlace v.coil (.hook v.crane)
  if v.safeAbort then s.endMove m .hook .aborted else s.enterWeigh m

/-- SET_RELEASE completed: the coil is at its destination, or back at its source in a set-back (R98, R100). -/
def State.releaseDone (s : State) (m : Nat) (v : Move) : State :=
  let s :=
    if v.setBack.isSome then s.setPlace v.coil v.source
    else
      let s := (s.fillSlot v.dest v.coil).setPlace v.coil v.dest
      match v.dest with
      | .bed b e => s.fillBed b e
      | _ => s
  (s.setPhase m .setHoist).dueStep v.crane s.hoistStep

/-- A step of the withdrawal, or of an abort at SET_LOWER, is complete (R94, R105, R107). -/
def State.withdrawalDone (s : State) (m : Nat) (v : Move) (w : Withdrawal) (kind : StepKind) : State :=
  match kind with
  | .release => s.dueStep v.crane s.hoistStep
  | .hoist _ => s.endMove m (if v.phase = .setLower then .hook else .source) w.result
  | _ => s

/-- A step of a move is complete: the move goes on by its phase (R88 to R100). With an AT_SAFE abort waiting, the completion of
GRIP or TAGREAD starts the withdrawal whatever the tong or the read says (log entry 31) and leaves PLACE_DOUBT as it is (log
entry 70). -/
def State.phaseDone (s : State) (m : Nat) (v : Move) (kind : StepKind) : State :=
  match v.withdrawal with
  | some w => s.withdrawalDone m v w kind
  | none =>
    match v.phase with
    | .leg1 => ((s.endLeg v.crane).setPhase m .pickLower).lowerOnto m v.source
    | .pickLower =>
      if v.safeAbort then s.startWithdrawal m .aborted else (s.setPhase m .pickGrip).dueStep v.crane .grip
    | .pickGrip => if v.safeAbort then s.startWithdrawal m .aborted else s.gripDone m v
    | .pickVerify => if v.safeAbort then s.startWithdrawal m .aborted else s.tagDone m v
    | .pickHoist => s.hoistDone m v
    | .leg2 => ((s.endLeg v.crane).setPhase m .setLower).lowerOnto m v.dest
    | .setLower => (s.setPhase m .setRelease).dueStep v.crane .release
    | .setRelease => s.releaseDone m v
    | .setHoist =>
      match v.setBack with
      | some r => s.endMove m .source (.failed r)
      | none => (s.setPhase m .done).endMove m .dest .done
    | _ => s

/-- The crane travels on a yield leg. -/
def Crane.onYieldLeg (c : Crane) : Bool :=
  match c.leg with
  | some { kind := .yield, .. } => true
  | _ => false

/-- A yield leg is complete: the crane returns to the state it left, and the moves that may request again do so. Where the same
report narrows its grant, RU looks at its list in the narrowing's scan; else it looks now, if a crane has become IDLE with an empty
queue (R69, R70, R71, log entry 36). -/
def State.yieldDone (s : State) (k : Nat) : State :=
  let t := ((s.endLeg k).endYield k).settleRU false
  if (t.crane k).narrows then t else s.afterCU t

/-- A crane's current step is complete: CU hands it to the yield or to the current move (R46). -/
def State.stepDone (s : State) (k : Nat) (st : Step) : State :=
  let s := s.clearStep k
  if (s.crane k).onYieldLeg then s.yieldDone k
  else
    match s.currentMove k with
    | none => s
    | some m =>
      match s.move? m with
      | some v => s.afterCU (s.phaseDone m v st.kind)
      | none => s

/-! ## Beginning a move (R89, R90) -/

/-- The crane's hook is named by no coil record, or the move starts from that hook (R89). -/
def State.hookAllows (s : State) (k : Nat) (v : Move) : Bool :=
  (s.recordAt (.hook k)).isNone || v.source == .hook k

/-- The move at the head of a crane's queue that may begin (R89). -/
def State.beginner (s : State) (k : Nat) : Option (Nat × Move) :=
  if s.inService && s.fitted k && (s.crane k).working == .idle then
    match (s.crane k).queue with
    | [] => none
    | m :: _ =>
      match s.move? m with
      | some v => if v.phase = .queued ∧ s.hookAllows k v then some (m, v) else none
      | none => none
  else none

/-- A move begins: the crane is BUSY, and the move requests its first leg (R89, R90). -/
def State.beginMove (s : State) (k : Nat) : State :=
  match s.beginner k with
  | none => s
  | some (m, v) =>
    let s := s.setWorking k .busy
    match v.source with
    | .hook _ => s.enterLeg2 m
    | _ =>
      let s := s.setPhase m .leg1Wait
      match s.legRequest k with
      | some r => s.requestLeg r
      | none => s

/-! ## Aborts (R104 to R107) -/

/-- An abort comes too late to take effect (R107). -/
def State.lateAbort (s : State) (m : Nat) : State := s.modMove m fun v => { v with late := true }

/-- CU withdraws the request of a waiting leg; a DEFERRED move's request is withdrawn already, and its crane's yield
runs on (R105). -/
def State.withdrawLeg (s : State) (v : Move) : State := if v.deferred then s else s.withdrawRequest v.crane

/-- An abort acts on a move in its present phase (R105 to R107). `kind` is NOW, AT_SAFE or QUIET. A pick whose step is held when
an AT_SAFE abort comes is sent that step at the hold's end, and the withdrawal follows its completion (log entry 59). -/
def State.actAbort (s : State) (m : Nat) (v : Move) (kind : AbortKind) : State :=
  let now := kind != .atSafe
  let k := v.crane
  match v.withdrawal with
  | some .aborted => s
  | some _ => s.lateAbort m
  | none =>
    match v.phase with
    | .queued => s.endMove m .source .aborted
    | .leg1Wait => (s.withdrawLeg v).endMove m .source .aborted
    | .leg1 => ((s.sendStop k now).endLeg k).endMove m .source .aborted
    | .pickLower | .pickGrip | .pickVerify =>
      if now then (s.sendStop k true).startWithdrawal m .aborted else s
    | .pickHoist =>
      if now then ((s.sendStop k true).setPlace v.coil (.hook k)).endMove m .hook .aborted else s
    | .weigh => (s.closeHook k).endMove m .hook .aborted
    | .leg2Wait => (s.withdrawLeg v).endMove m .hook .aborted
    | .leg2 => ((s.sendStop k now).endLeg k).endMove m .hook .aborted
    | .setLower =>
      if now then
        ((s.sendStop k true).modMove m fun v => { v with withdrawal := some .aborted, late := false }).dueStep k s.hoistStep
      else s.lateAbort m
    | .setRelease | .setHoist => s.lateAbort m
    | .done => s

/-! ## FAULT (R58, R101) -/

/-- Where a move failed by a FAULT leaves its coil, by its last known phase (R101). -/
def Move.faultPlace (v : Move) : CoilAt :=
  match v.phase with
  | .weigh | .leg2Wait | .leg2 | .setLower | .setRelease => .hook
  | .setHoist => if v.setBack.isSome then .source else .dest
  | _ => .source

/-- The coil may already stand on its seat (R101). -/
def Move.faultDoubt (v : Move) : Bool := v.phase == .setLower || v.phase == .setRelease

/-- CU fails a crane's current move on a FAULT (R101). -/
def State.failMove (s : State) (k : Nat) (r : Reason) : State :=
  match s.currentMove k with
  | none => s
  | some m =>
    match s.move? m with
    | none => s
    | some v =>
      let s := if v.phase = .weigh then s.closeHook k else s
      let s := if v.faultDoubt then s.doubtPlace v.coil else s
      s.endMove m v.faultPlace (.failed r)

/-- A crane's leg, its request and its yield end with its FAULT; the leg is not narrowed (R58, R66, R69). -/
def State.dropLeg (s : State) (k : Nat) : State :=
  (State.requestLeft listDepth s k true).modCrane k fun c =>
    { c with leg := none, narrowDue := false, yield := none, deferral := none }

/-- A crane enters FAULT: STOP NOW, its move failed, its grant widened and held, its CRANE_STATE entry (R58, R75, R101). -/
def State.enterFault (s : State) (k : Nat) (r : Reason) (code : Nat) : State :=
  let before := s
  let s := s.sendStop k true
  let s := (s.modCrane k fun c => { c with reason := r }).setCraneState k .fault
  let s := ((s.clearStep k).dropLeg k).failMove k r
  let s := (s.widen k).craneEntry k 5 r.code code
  before.afterCU s

/-- A crane leaves FAULT for OUT; RU ends the hold of its grant if its lock is LOCKED, and scans (R58, R67, R77). -/
def State.leaveFault (s : State) (k : Nat) : State :=
  let s := (s.setCraneState k .out).craneEntry k 6
  if (s.crane k).lock = .locked then s.endHold k else s.scan

end Sys2Proof.Machine
end

