-- ==== Sys2Proof/Machine/Weighing.lean ====
section
/-! DEFINITION. WU: sessions, data flags, zero tracking and zero sets, sample by sample (R113, R122 to R134). -/

namespace Sys2Proof.Machine

/-! ## Zero tracking (R128 to R130) -/

/-- The alarm parts of the alarm choice, in 10,000ths of Cap (R114). -/
def alarmParts : Nat → Nat
  | 0 => 25
  | 1 => 50
  | 2 => 100
  | 3 => 200
  | _ => 400

/-- The alarm limit in kg (R129). -/
def Channel.alarmLimit (c : Channel) : Nat := c.cap * alarmParts c.alarm / 10000

/-- The mean of a complete batch set (R129). -/
def Channel.batchMean (c : Channel) (sum : Int) : Int := divHalfAway sum (16 * c.batches)

/-- The drift of a mean from the channel's zero, in kg (R129). -/
def Channel.drift (c : Channel) (m : Int) : Nat := (divHalfAway ((m - c.zero).natAbs * c.wref) c.span).toNat

/-- The drift field of a CHANNEL_FAULT entry: a drift its 2 bytes cannot hold is a free value (log entry 8). -/
def driftField (free drift : Nat) : List Byte :=
  if drift < 65536 then leBytes 2 drift else leBytes 2 (Config.wideDriftField free).toNat

/-- A complete batch set is evaluated by the three cases of R129. -/
def State.evaluateSet (s : State) (k : Nat) (sum : Int) : State :=
  let c := s.channel k
  let m := c.batchMean sum
  let drift := c.drift m
  if drift ≤ c.trackBand then s.modChannel k fun c => { c with zero := m }
  else
    let detail := leSigned 4 c.zero ++ leSigned 4 m
    if drift ≤ c.alarmLimit then
      let s := s.report .weight { kind := 8, subject := k, detail := detail ++ leBytes 2 drift }
      s.modChannel k fun c => { c with latched := c.latched || c.latchMode }
    else
      let s := s.modChannel k fun c => { c with fault := true }
      let free := s.freeCount
      let s := { s with freeCount := if drift < 65536 then free else free + 1 }
      s.report .weight
        { kind := 9, subject := k, detail := detail ++ driftField free drift ++ leBytes 2 c.alarmLimit }

/-- One sample in zero tracking: added to the batch set, or interrupting it (R128). -/
def State.track (s : State) (k : Nat) (count : Int) (eligible : Bool) : State :=
  let c := s.channel k
  if !(s.inService && c.configured && !c.fault) then s
  else if !eligible || overrange count then s.modChannel k fun c => { c with batchSet := none }
  else if c.latched then s
  else
    let b := c.batchSet.getD {}
    let b := { b with sum := b.sum + count, inBatch := b.inBatch + 1 }
    let b := if b.inBatch = 16 then { b with inBatch := 0, batches := b.batches + 1 } else b
    if b.batches = c.batches then (s.modChannel k fun c => { c with batchSet := none }).evaluateSet k b.sum
    else s.modChannel k fun c => { c with batchSet := some b }

/-! ## Zero sets (R131, R132) -/

/-- The DONE answer of ZERO_SET: the old and the new zero. -/
def zeroAnswer (old new : Int) : Answer := { code := .done, area := leSigned 4 old ++ leSigned 4 new }

/-- One sample of a zero set in progress; the flag says that this sample completed the set (R131). -/
def State.zeroSample (s : State) (k : Nat) (z : ZeroSet) (count : Int) (eligible : Bool) : State × Bool :=
  if !eligible then (s.dropZeroSet k, false)
  else if overrange count then (s, false)
  else
    let z := { z with sum := z.sum + count, count := z.count + 1 }
    let s := s.progress z.cell z.take z.count
    if z.count = 16 then
      let old := (s.channel k).zero
      let new := divHalfAway z.sum 16
      let s := s.modChannel k fun c =>
        { c with zero := new, fault := false, latched := false, batchSet := none, zeroSet := none }
      ((s.touch (Group.channel k)).answer z.cell z.take (zeroAnswer old new), true)
    else (s.modChannel k fun c => { c with zeroSet := some z }, false)

/-- What a sample does outside a session: the zero set first, then tracking (R128, R131). -/
def State.outsideSession (s : State) (k : Nat) (count : Int) (eligible : Bool) : State :=
  match (s.channel k).zeroSet with
  | none => s.track k count eligible
  | some z =>
    let p := s.zeroSample k z count eligible
    if p.2 then p.1 else p.1.track k count eligible

/-- A sample arrives: the data flag is set and the expiry restarts (R113); whether it was eligible is kept for R131. -/
def State.sampleArrives (s : State) (k : Nat) (eligible : Bool) : State :=
  s.modChannel k fun c => { c with data := true, expiryRunning := true, lastEligible := eligible }

/-! ## Hook sessions (R124) -/

/-- The conditions of R128 on a hook channel. -/
def State.hookEligible (s : State) (k : Nat) : Bool :=
  let c := s.crane k
  s.inService && c.state == .idle && c.tong == .open_ && decide (s.runway.clearHeight ≤ c.hook)

/-- The result of a hook session that ends with this sample, if it does (R124). -/
def hookEnd (c : Channel) (h : HookSession) : Option HookResult :=
  if h.window.settled c then some (h.window.report c).hookResult
  else if 40 ≤ h.count then some (if h.window.entries.all Option.isSome then .unsettled else .over)
  else none

/-- A session's result is handed to CU, the last reported weight set before (R124, R127). -/
def State.endHookSession (s : State) (k : Nat) (r : HookResult) : State :=
  let s := s.closeHook k
  let s :=
    match r with
    | .weighed w => s.noteReport k (.weight w)
    | _ => s
  match s.currentMove k with
  | some m => s.weighResult m r
  | none => s

/-- One sample of an open hook session (R124). -/
def State.hookSessionSample (s : State) (k : Nat) (h : HookSession) (count : Int) : State :=
  let c := s.channel k
  let h := { window := h.window.take c count, count := h.count + 1 }
  match hookEnd c h with
  | some r => s.endHookSession k r
  | none => s.modChannel k fun c => { c with session := some h }

/-- A hook sample (R112, R124, R128, R131). Eligibility is that of its arrival. -/
def State.hookSample (s : State) (k : Nat) (count : Int) : State :=
  let eligible := s.hookEligible k
  let open_ := (s.channel k).session
  let s := (s.sampleArrives k eligible).outsideSession k count eligible
  match open_ with
  | some h => s.hookSessionSample k h count
  | none => s

/-! ## Platform sessions (R125) -/

/-- The result of a platform session that ends with this SAMPLE, if it does (R125). -/
def platformEnd (f r : Channel) (p : PlatformSession) : Option PlatformResult :=
  if p.front.settled f && p.rear.settled r then some (.reports (p.front.report f) (p.rear.report r))
  else if 100 ≤ p.count then some .unsettled
  else none

/-- A session's result is handed to LU, the last reported weights set before (R125, R127). -/
def State.endPlatformSession (s : State) (b : Nat) (purpose : Purpose) (r : PlatformResult) : State :=
  let s := s.modBay b fun k => { k with session := none }
  let s :=
    match r with
    | .reports f g => (s.noteReport (frontChannel b) f).noteReport (rearChannel b) g
    | _ => s
  s.settlePlatform b purpose r

/-- The stage passes to SETTLING when both windows hold 8 entries; LU shows it in the waiting cell (R122, R127, R139). -/
def State.noteStage (s : State) (b count : Nat) : State :=
  match (s.bay b).waitingCell with
  | some (cell, take) => if count = 8 then s.progress cell take 2 else s
  | none => s

/-- One SAMPLE of an open platform session (R125). -/
def State.platformSessionSample (s : State) (b : Nat) (p : PlatformSession) (front rear : Int) : State :=
  let f := s.channel (frontChannel b)
  let r := s.channel (rearChannel b)
  let p := { p with front := p.front.take f front, rear := p.rear.take r rear, count := p.count + 1 }
  let s := s.noteStage b p.count
  match platformEnd f r p with
  | some res => s.endPlatformSession b p.purpose res
  | none => s.modBay b fun k => { k with session := some p }

/-- A SAMPLE of a bay: one sample on each platform channel, front before rear (R112, R125). -/
def State.platformSample (s : State) (b : Nat) (front rear : Int) : State :=
  let eligible := s.inService && (s.bay b).state == .empty
  let open_ := (s.bay b).session
  let s := (s.sampleArrives (frontChannel b) eligible).outsideSession (frontChannel b) front eligible
  let s := (s.sampleArrives (rearChannel b) eligible).outsideSession (rearChannel b) rear eligible
  match open_ with
  | some p => s.platformSessionSample b p front rear
  | none => s

/-! ## Data flags (R113, R126, R132) -/

/-- A channel's data flag is cleared: its batch set is discarded and its zero set ends (R128, R132). -/
def State.clearData (s : State) (k : Nat) : State :=
  (s.modChannel k fun c => { c with data := false, batchSet := none }).dropZeroSet k

/-- The session on a channel ends with NO_WEIGHT (R126). -/
def State.loseSession (s : State) (k : Nat) : State :=
  if k < 4 then
    if (s.channel k).session.isSome then s.endHookSession k .noWeight else s
  else
    match (s.bay (channelBay k)).session with
    | some p => s.endPlatformSession (channelBay k) p.purpose .noWeight
    | none => s

/-- A channel's sample expiry runs out (R113). An expiry that is not running does not run out. -/
def State.sampleExpires (s : State) (k : Nat) : State :=
  if (s.channel k).expiryRunning then
    let s := s.modChannel k fun c => { c with expiryRunning := false }
    if (s.channel k).data then (s.clearData k).loseSession k else s
  else s

/-- A session open on a hook channel whose crane's link is lost: by a free value WU hands CU the NO_WEIGHT first, which
updates the coil record, or the FAULT comes first (R126). The FAULT then fails the move from WEIGH: no course of R96 is begun
in between (log entry 7). -/
def State.hookLinkLost (s : State) (k : Nat) : State :=
  if (s.channel k).session.isSome then
    let first := Config.linkLossReachesWuFirst s.freeCount
    let s := { s with freeCount := s.freeCount + 1 }.closeHook k
    if first then
      match (s.currentMove k).bind s.move? with
      | some v => s.recordWeighing v .noWeight
      | none => s
    else s
  else s

end Sys2Proof.Machine
end

