-- ==== Sys2Proof/Machine/Links.lean ====
section
/-! DEFINITION. CU: link supervision, position lock, faults and overruns, and the handling of STATUS and TAG (R42 to R58). -/

namespace Sys2Proof.Machine

/-! ## Link supervision (R48 to R51) -/

/-- A crane's link becomes LOST (R50). In RUN and HALTED the crane is in FAULT with reason LINK; one in FAULT already
has its reason replaced. -/
def State.loseLink (s : State) (k : Nat) : State :=
  let s := s.modCrane k fun c => { c with link := .lost, recoveryCount := 0 }
  let s := s.craneEntry k 1
  let s := (s.hookLinkLost k).clearData k
  if s.inService then
    if (s.crane k).state = .fault then
      ((s.sendStop k true).modCrane k fun c => { c with reason := .link }).widen k
    else s.enterFault k .link 0
  else s

/-- A bad telegram is counted (R48), or resets the recovery of a LOST link (R51). -/
def State.countBad (s : State) (k : Nat) : State :=
  let c := s.crane k
  if c.link = .lost then s.modCrane k fun c => { c with recoveryCount := 0 }
  else
    let s := s.modCrane k fun c => { c with badCount := c.badCount + 1, link := .doubt }
    if c.badCount + 1 = 4 then s.loseLink k else s

/-- A valid telegram of either kind sets the bad count to 0 (R48). -/
def State.countGood (s : State) (k : Nat) : State :=
  if (s.crane k).link = .lost then s else s.modCrane k fun c => { c with badCount := 0, link := .up }

/-- The report expiry runs out (R49). -/
def State.reportExpires (s : State) (k : Nat) : State :=
  if (s.crane k).link = .lost then s.modCrane k fun c => { c with recoveryCount := 0 } else s.loseLink k

/-! ## The values of a STATUS (R45, R202) -/

/-- A tong code beyond 2 is taken as CLOSED_LOADED (R45). -/
def tongOf (code : Nat) : Tong := if code = 0 then .open_ else if code = 1 then .closedEmpty else .closedLoaded

/-- The values CU takes from a report (R45). -/
def Crane.storeReport (c : Crane) (r : StatusReport) : Crane :=
  { c with
    reported := true
    doneSeq := r.doneSeq.toNat
    xEncoder := min r.xEncoder.toNat 60000
    xLaser := min r.xLaser.toNat 60000
    y := min r.y.toNat 4000
    hook := min r.hook.toNat 2000
    tong := tongOf r.tong.toNat
    speed := r.speed.toInt
    load := r.load.toInt
    faultCode := r.faultCode.toNat }

/-- A report handled whole also gives the position used (R54). -/
def Crane.storeWhole (c : Crane) (r : StatusReport) : Crane :=
  let c := c.storeReport r
  { c with wholeEncoder := c.xEncoder, wholeLaser := c.xLaser, wholeTong := c.tong }

/-! ## Position lock (R52, R53) -/

/-- The encoder-to-laser difference of the last report. -/
def Crane.lockDistance (c : Crane) : Nat := absDiff c.xEncoder c.xLaser

/-- Lock becomes LOST (R53). -/
def State.loseLock (s : State) (k : Nat) : State :=
  let s := s.modCrane k fun c => { c with lock := .lost, hitCount := 0 }
  let s := s.craneEntry k 3 0 0 (s.crane k).lockDistance
  if s.inService then
    let s := s.sendStop k true
    let st := (s.crane k).state
    let s := if st.stoppable || st == .stopped then s.addCause k .lockLost else s
    s.widen k
  else s

/-- Lock becomes LOCKED again: the hold ends unless the crane is in FAULT, then LOCK_LOST is removed and the step sent
again with the narrowed grant (R53, R77). -/
def State.regainLock (s : State) (k : Nat) : State :=
  let s := s.modCrane k fun c => { c with lock := .locked, missCount := 0 }
  let s := s.craneEntry k 4
  if s.inService then
    let before := s
    let s := if (s.crane k).state = .fault then s else s.endHold k
    before.afterCU (s.removeCause k .lockLost)
  else s

/-- Position lock judges a report (R52). -/
def State.judgeLock (s : State) (k : Nat) : State :=
  let c := s.crane k
  let inWindow := decide (c.lockDistance ≤ s.runway.lockWindow)
  match c.lock, inWindow with
  | .locked, true => s.modCrane k fun c => { c with missCount := 0 }
  | .locked, false =>
    if c.missCount + 1 = 3 then s.loseLock k else s.modCrane k fun c => { c with missCount := c.missCount + 1 }
  | .lost, true =>
    if c.hitCount + 1 = 8 then s.regainLock k else s.modCrane k fun c => { c with hitCount := c.hitCount + 1 }
  | .lost, false => s.modCrane k fun c => { c with hitCount := 0 }

/-! ## Faults and overruns (R55, R58) -/

/-- The drive fault code of a report is tested, and a FAULT of the drive or of an overrun left (R58). -/
def State.testDrive (s : State) (k : Nat) : State :=
  let c := s.crane k
  if c.state = .fault then
    match c.reason with
    | .drive => if c.faultCode = 0 ∧ c.speed = 0 then s.leaveFault k else s
    | .overrun =>
      if c.faultCode ≠ 0 then s.modCrane k fun c => { c with reason := .drive }
      else if c.lock = .locked ∧ c.speed = 0 then s.leaveFault k
      else s
    | _ => s
  else if c.faultCode ≠ 0 then s.enterFault k .drive c.faultCode
  else s

/-- A LOCKED report lies outside the grant by more than the lock window (R55). -/
def State.overruns (s : State) (k : Nat) (grant : Span) : Bool :=
  let c := s.crane k
  let w : Int := s.runway.lockWindow
  c.lock == .locked && decide ((c.xLaser : Int) < grant.lo - w ∨ grant.hi + w < c.xLaser)

/-- Step 4 of R45. The overrun test is made against the grant before the report, and not on a crane that was in FAULT
or is. -/
def State.testFaults (s : State) (k : Nat) (grant : Span) : State :=
  let was := (s.crane k).state
  let s := s.testDrive k
  if was ≠ .fault ∧ (s.crane k).state ≠ .fault ∧ s.overruns k grant then s.enterFault k .overrun 0 else s

/-! ## STATUS (R45) -/

/-- Step 5 of R45: a done sequence that is the current step's number completes it (R46). -/
def State.testDone (s : State) (k : Nat) : State :=
  let c := s.crane k
  match c.step with
  | some st => if c.state ≠ .fault ∧ st.seq = c.doneSeq then s.stepDone k st else s
  | none => s

/-- Steps 2 to 6 of R45, for a report handled whole. `recovered` says that it completed the recovery of the link (R51);
`before` is the crane's record before the report. -/
def State.takeWhole (s : State) (k : Nat) (recovered : Bool) (before : Crane) : State :=
  let s := s.judgeLock k
  let s := if s.inService && !recovered then s.testFaults k before.grant else s
  let s := if s.inService && recovered then s.testDrive k else s
  let s := s.testDone k
  let s := if s.inService then s.reportRU k before.loaded before.heldWide else s
  (s.hookSample k (s.crane k).load).touch (Group.crane k)

/-- The link returns to UP, and a crane in FAULT with reason LINK becomes OUT (R51). -/
def State.recoverLink (s : State) (k : Nat) : State :=
  let s := (s.modCrane k fun c => { c with link := .up, badCount := 0 }).craneEntry k 2
  if s.inService && (s.crane k).state == .fault && (s.crane k).reason == .link then s.leaveFault k else s

/-- A valid STATUS of a fitted crane (R45, R51). -/
def State.takeStatus (s : State) (k : Nat) (r : StatusReport) : State :=
  let c := s.crane k
  if c.link = .lost then
    let n := c.recoveryCount + 1
    if n < 10 then s.modCrane k fun c => { c.storeReport r with recoveryCount := n }
    else
      let s := s.modCrane k fun c => { c.storeWhole r with recoveryCount := n }
      (s.recoverLink k).takeWhole k true c
  else
    let s := (s.countGood k).modCrane k fun c => c.storeWhole r
    s.takeWhole k false c

/-! ## TAG (R47) -/

/-- A valid TAG: the first for the current TAGREAD is kept as its read; any other is discarded. -/
def State.takeTag (s : State) (k : Nat) (r : TagReport) : State :=
  let s := s.countGood k
  let c := s.crane k
  match c.step with
  | some st =>
    if st.kind = .tagread ∧ st.seq = r.seq.toNat ∧ c.tagRead = none then
      s.modCrane k fun c => { c with tagRead := some (if r.present = 0 then none else some r.id.toNat) }
    else s
  | none => s

end Sys2Proof.Machine
end

