-- ==== Sys2Proof/Machine/Operands.lean ====
section
/-! DEFINITION. The order bodies: where each field stands and which field is the first out of range (R200, 11.2). -/

namespace Sys2Proof.Machine

/-- The number of the first check that fails, counted from `n`. -/
def firstBad : Nat → List Bool → Option Nat
  | _, [] => none
  | n, ok :: rest => if ok then firstBad (n + 1) rest else some n

/-- Both ends included. -/
def inRange (lo hi n : Nat) : Bool := decide (lo ≤ n ∧ n ≤ hi)

def inRangeInt (lo hi n : Int) : Bool := decide (lo ≤ n ∧ n ≤ hi)

/-- A field in which 0 selects a value (R114, R136). -/
def orDefault (d n : Nat) : Nat := if n = 0 then d else n

/-- The fields of a body, by name. Offsets are those of the table of R200. -/
abbrev Body := List Byte

/-! ## Store orders -/

def Body.column (b : Body) : Nat := fieldNat b 0 1

/-- Row y number `i` of SET_COLUMN. -/
def Body.rowY (b : Body) (i : Nat) : Nat := fieldNat b (14 + 2 * i) 2

/-- The row y values of SET_COLUMN. -/
def Body.rows (b : Body) : List Nat := (List.range 12).map b.rowY

/-- The column record a SET_COLUMN gives, its OUT flag aside (R1). -/
def Body.columnRecord (b : Body) : Column :=
  { configured := true
    x := fieldNat b 2 2
    mask := BitVec.ofNat 12 (fieldNat b 4 2)
    maxWidth := fieldNat b 6 2
    maxDiameter := fieldNat b 8 2
    lowerLimit := fieldNat b 10 2
    upperLimit := fieldNat b 12 2 }

/-- SET_COLUMN: column, x, mask, sizes, limits, twelve rows (R1). -/
def Body.setColumnBad (b : Body) : Option Nat :=
  let c := b.columnRecord
  firstBad 1 <|
    [inRange 0 63 b.column, inRange 0 60000 c.x, true, inRange 600 2200 c.maxWidth, inRange 800 2500 c.maxDiameter,
      inRange 1 4500 c.lowerLimit, inRange 1 4500 c.upperLimit]
    ++ (List.range 12).map fun i =>
      inRange 0 4000 (b.rowY i) && (i == 0 || decide (b.rowY (i - 1) < b.rowY i))

def Body.station (b : Body) : Nat := fieldNat b 0 1

/-- SET_STATION: station, x, y (R8). -/
def Body.setStationBad (b : Body) : Option Nat :=
  firstBad 1 [inRange 0 1 b.station, inRange 0 60000 (fieldNat b 2 2), inRange 0 4000 (fieldNat b 4 2)]

/-- The ranges of R14 for id, declared weight, width and diameter; the dispatch group takes any value. -/
def coilFieldChecks (id declared width diameter : Nat) : List Bool :=
  [decide (1 ≤ id), inRange 1 4500 declared, inRange 600 2200 width, inRange 800 2500 diameter, true]

/-- The coil record PLACE_COIL or ANNOUNCE_COIL makes, its five fields standing from offset `off` (R14). -/
def Body.coilRecord (b : Body) (off : Nat) (p : Place) : Coil :=
  { id := fieldNat b off 4, declared := fieldNat b (off + 4) 2, width := fieldNat b (off + 6) 2
    diameter := fieldNat b (off + 8) 2, group := fieldNat b (off + 10) 1, place := p }

/-- The five checks of a coil's fields from offset `off`. -/
def Body.coilChecks (b : Body) (off : Nat) : List Bool :=
  let c := b.coilRecord off (.hook 0)
  coilFieldChecks c.id c.declared c.width c.diameter

def Body.placeKind (b : Body) : Nat := fieldNat b 11 1
def Body.placeValue (b : Body) : Nat := fieldNat b 12 2

/-- The place PLACE_COIL names, where its kind is SLOT, STATION or HOOK (R17). -/
def Body.placeNamed (b : Body) : Option Place :=
  if b.placeKind = 1 then some (.slot b.placeValue)
  else if b.placeKind = 2 then some (.station b.placeValue)
  else if b.placeKind = 3 then some (.hook b.placeValue)
  else none

/-- PLACE_COIL: the fields of R14, then the place kind; a bed is not accepted (R17). -/
def Body.placeCoilBad (b : Body) : Option Nat := firstBad 1 (b.coilChecks 0 ++ [inRange 1 3 b.placeKind])

/-- The policy values a SET_POLICY gives (R24). -/
def Body.policy (b : Body) : Policy :=
  { cradleTolerance := fieldNat b 0 2, pUp := fieldNat b 2 1, gMix := fieldNat b 3 1, gEmpty := fieldNat b 4 1
    cZone := fieldNat b 5 1, weighMin := fieldNat b 6 2, weighPm := fieldNat b 8 1 }

/-- SET_POLICY (R24). -/
def Body.setPolicyBad (b : Body) : Option Nat :=
  firstBad 1
    [inRange 0 500 b.policy.cradleTolerance, true, true, true, true, inRange 0 500 b.policy.weighMin,
      inRange 0 100 b.policy.weighPm]

/-- ANNOUNCE_COIL: station, then the fields of R14 (R16). -/
def Body.announceBad (b : Body) : Option Nat := firstBad 1 (inRange 0 1 b.station :: b.coilChecks 4)

/-- The coil id of REMOVE_COIL, QUERY_COIL, HOLD_COIL, STORE_COIL and RELOCATE_COIL. -/
def Body.coilId (b : Body) : Nat := fieldNat b 0 4

/-- The value of HOLD_COIL: 1 sets, 0 clears (R19). -/
def Body.holdValue (b : Body) : Nat := fieldNat b 4 1

/-- The target of a move order: a slot index, or AUTO. -/
def Body.target (b : Body) : Option Nat := if fieldNat b 4 2 = 0xFFFF then none else some (fieldNat b 4 2)

/-- The crane of a move order: a crane, or AUTO. -/
def Body.craneNamed (b : Body) : Option Nat := if fieldNat b 6 1 = 0xFF then none else some (fieldNat b 6 1)

/-- STORE_COIL and RELOCATE_COIL: coil id, target, crane (R86, step 1). -/
def Body.moveOrderBad (b : Body) : Option Nat :=
  firstBad 1
    [decide (1 ≤ b.coilId), b.target.all fun i => decide (i < 1536), b.craneNamed.all fun c => decide (c < 4)]

/-! ## Runway and crane orders -/

/-- The runway parameters a SET_RUNWAY gives (R60). -/
def Body.runway (b : Body) : Runway :=
  { configured := true, lo := fieldNat b 0 2, hi := fieldNat b 2 2, margin := fieldNat b 4 2, gap := fieldNat b 6 2
    decel := fieldNat b 8 2, lockWindow := fieldNat b 10 2, clearHeight := fieldNat b 12 2
    bayMargin := fieldNat b 14 2 }

/-- SET_RUNWAY (R60). -/
def Body.setRunwayBad (b : Body) : Option Nat :=
  let r := b.runway
  firstBad 1
    [inRange 0 60000 r.lo, inRange 0 60000 r.hi && decide (r.lo < r.hi), inRange 10 500 r.margin,
      inRange 100 1000 r.gap, inRange 10 200 r.decel, inRange 5 200 r.lockWindow, inRange 100 2000 r.clearHeight,
      inRange 0 1000 r.bayMargin]

/-- The crane of SET_CRANE, CRANE_OUT and CRANE_IN. -/
def Body.crane (b : Body) : Nat := fieldNat b 0 1
def Body.svcLo (b : Body) : Nat := fieldNat b 2 2
def Body.svcHi (b : Body) : Nat := fieldNat b 4 2
def Body.halfWidth (b : Body) : Nat := fieldNat b 6 2

/-- The fields of SET_CRANE after the crane number (R61). -/
def Body.setCraneBad (b : Body) : Option Nat :=
  firstBad 2 [inRange 0 60000 b.svcLo, inRange 0 60000 b.svcHi, inRange 300 1500 b.halfWidth]

def Body.moveTag (b : Body) : Nat := fieldNat b 0 2
def Body.moveNumber (b : Body) : Nat := fieldNat b 2 1

/-- The variant of ABORT_MOVE (R104). -/
def Body.variant (b : Body) : Option AbortKind :=
  if fieldNat b 3 1 = 1 then some .now
  else if fieldNat b 3 1 = 2 then some .atSafe
  else if fieldNat b 3 1 = 3 then some .quiet
  else none

/-- ABORT_MOVE: move tag, move number, variant (R104). -/
def Body.abortBad (b : Body) : Option Nat := firstBad 1 [true, inRange 0 31 b.moveNumber, b.variant.isSome]

/-! ## Channel orders -/

def Body.channel (b : Body) : Nat := fieldNat b 0 1

/-- The calibration a SET_CHANNEL gives; the flags, the reported weight and the tracking record take their values at
its completion (R114, R115). -/
def Body.channelRecord (b : Body) : Channel :=
  { configured := true
    cap := fieldNat b 2 2
    zero := fieldInt b 4 4
    span := fieldNat b 8 4
    wref := fieldNat b 12 2
    points := (List.range 9).map fun i => fieldInt b (14 + 2 * i) 2
    settleBand := orDefault 40 (fieldNat b 32 2)
    settleCount := orDefault 5 (fieldNat b 34 1)
    batches := orDefault 4 (fieldNat b 35 1)
    trackBand := orDefault 20 (fieldNat b 36 2)
    alarm := fieldNat b 38 1
    latchMode := fieldNat b 39 1 == 1 }

/-- SET_CHANNEL (R114). `fitted` says that a hook channel's crane is fitted. -/
def Body.setChannelBad (b : Body) (fitted : Bool) : Option Nat :=
  let c := b.channelRecord
  firstBad 1 <|
    [inRange 0 9 b.channel && (fitted || decide (4 ≤ b.channel)), inRange 8000 60000 c.cap && c.cap % 8 == 0,
      inRangeInt (-8000000) 8000000 c.zero, inRange 1 8000000 c.span, inRange 1 60000 c.wref]
    ++ c.points.map (inRangeInt (-500) 500)
    ++ [inRange 5 500 c.settleBand, inRange 3 20 c.settleCount, inRange 1 31 c.batches, inRange 5 200 c.trackBand,
      inRange 0 4 c.alarm, inRange 0 1 (fieldNat b 39 1)]

/-! ## Bay orders -/

def Body.bay (b : Body) : Nat := fieldNat b 0 1
def Body.bxLo (b : Body) : Nat := fieldNat b 2 2
def Body.bxHi (b : Body) : Nat := fieldNat b 4 2
def Body.centre (b : Body) : Nat := fieldNat b 6 2
def Body.frontLine (b : Body) : Nat := fieldNat b 8 2
def Body.checkMin (b : Body) : Nat := orDefault 30 (fieldNat b 10 2)
def Body.checkPm (b : Body) : Nat := orDefault 10 (fieldNat b 12 2)

/-- SET_BAY (R136). -/
def Body.setBayBad (b : Body) : Option Nat :=
  firstBad 1
    [inRange 0 2 b.bay, inRange 0 60000 b.bxLo, inRange 0 60000 b.bxHi && decide (b.bxLo < b.bxHi),
      inRange b.bxLo b.bxHi b.centre, inRange 0 4000 b.frontLine, inRange 0 500 b.checkMin, inRange 0 100 b.checkPm]

def Body.truckRef (b : Body) : Nat := fieldNat b 4 4
def Body.spacing (b : Body) : Nat := fieldNat b 8 2
def Body.frontLimit (b : Body) : Nat := fieldNat b 10 2
def Body.rearLimit (b : Body) : Nat := fieldNat b 12 2
def Body.grossLimit (b : Body) : Nat := fieldNat b 14 2

/-- TRUCK_ARRIVE (R139). -/
def Body.truckArriveBad (b : Body) : Option Nat :=
  firstBad 1
    [inRange 0 2 b.bay, true, inRange 300 1400 b.spacing, inRange 1 6000 b.frontLimit, inRange 1 6000 b.rearLimit,
      inRange 1 12000 b.grossLimit]

/-- The entry count of LOAD_PLAN. -/
def Body.entryCount (b : Body) : Nat := fieldNat b 1 1

/-- A coil id and a bed position of a LOAD_PLAN. -/
structure PlanItem where
  id : Nat
  position : Nat
  deriving DecidableEq, Repr

/-- The entries a LOAD_PLAN names: as many as its count (R200). -/
def Body.planItems (b : Body) : List PlanItem :=
  (List.range b.entryCount).map fun k => { id := fieldNat b (8 + 8 * k) 4, position := fieldNat b (12 + 8 * k) 2 }

end Sys2Proof.Machine
end

