-- ==== Sys2Proof/Machine/Inbound.lean ====
section
/-! DEFINITION. The inbound lists: how an owner takes an order up, and how XP takes a mode order (R163, R185). -/

namespace Sys2Proof.Machine

/-- The inbound list of an owner; XP's own is the mode order it waits to handle. -/
def State.inbound (s : State) : Owner → List Order
  | .su => s.inboundSU
  | .ru => s.inboundRU
  | .cu => s.inboundCU
  | .wu => s.inboundWU
  | .lu => s.inboundLU
  | .xp => s.modeOrder.toList

def State.setInbound (s : State) (w : Owner) (l : List Order) : State :=
  match w with
  | .su => { s with inboundSU := l }
  | .ru => { s with inboundRU := l }
  | .cu => { s with inboundCU := l }
  | .wu => { s with inboundWU := l }
  | .lu => { s with inboundLU := l }
  | .xp => { s with modeOrder := l.head? }

/-- Every owner has taken up every order handed to it (R163). -/
def State.allTakenUp (s : State) : Bool :=
  s.inboundSU.isEmpty && s.inboundRU.isEmpty && s.inboundCU.isEmpty && s.inboundWU.isEmpty && s.inboundLU.isEmpty

/-- The owner takes the order at the head of its list, if it is of the kind; else there is no such event and nothing
happens (R185, log entry 1). -/
def takeOrder (w : Owner) (kind : Nat) (f : State → Order → State) (s : State) : State :=
  match s.inbound w with
  | [] => s
  | o :: rest => if o.kind = kind then f (s.setInbound w rest) o else s

/-- The head descriptor leaves the post queue once intake has dealt with its last cell (R182). -/
def State.dropDealt (s : State) : State :=
  match s.posts with
  | [] => s
  | d :: rest => if d.count ≤ d.dealt then { s with posts := rest } else s

/-- XP handles the mode order it holds, once every owner has taken up its orders; then intake goes on (R163). -/
def takeModeOrder (kind : Nat) (f : State → Order → State) (s : State) : State :=
  match s.modeOrder with
  | some o => if o.kind = kind ∧ s.allTakenUp then f { s with modeOrder := none }.dropDealt o else s
  | none => s

/-- An order with its body's first field out of range, if there is one, answered BAD_FIELD; else its handling. -/
def State.checked (s : State) (o : Order) (bad : Option Nat) (f : State → Order → State) : State :=
  match bad with
  | some n => s.reply o (.badField n)
  | none => f s o

end Sys2Proof.Machine
end

