-- ==== Sys2Proof/Machine/BayOrders.lean ====
section
/-! DEFINITION. LU's orders SET_BAY, TRUCK_ARRIVE, LOAD_PLAN, TRUCK_RELEASE and TRUCK_CANCEL (R136, R139, R143, R144,
R153, R157, R158). -/

namespace Sys2Proof.Machine

/-! ## SET_BAY, TRUCK_ARRIVE -/

/-- SET_BAY with its fields in range: the area state is read from the input, and the bed-hold flag follows it (R136, R138). -/
def State.setBayOrder (s : State) (o : Order) : State :=
  let b : Body := o.body
  let low := s.areaLow.contains b.bay
  let s := s.modBay b.bay fun k =>
    { k with
      state := .empty, bxLo := b.bxLo, bxHi := b.bxHi, centre := b.centre, frontLine := b.frontLine
      checkMin := b.checkMin, checkPm := b.checkPm, occupied := low, bedHold := low }
  (s.touch (Group.bay b.bay)).reply o .ok

/-- SET_BAY (R136). -/
def execSetBay (s : State) : Host.Outcome State Fault Refusal :=
  handle (takeOrder .lu Kind.setBay fun s o => s.checked o (Body.setBayBad o.body) State.setBayOrder) s

/-- TRUCK_ARRIVE with its fields in range (R139): the truck record, ARRIVING, the waiting cell, the session. -/
def State.truckArriveOrder (s : State) (o : Order) : State :=
  let d : Body := o.body
  let b := d.bay
  if (s.bay b).state ≠ .empty then s.reply o (s.bayRefusal b)
  else
    let s := s.modBay b fun k =>
      { k.withoutTruck with
        truckRef := d.truckRef, spacing := d.spacing, frontLimit := d.frontLimit, rearLimit := d.rearLimit
        grossLimit := d.grossLimit }
    let s := s.setBayState b .arriving
    let s := (s.modBay b fun k => { k with waitingCell := some (o.cell, o.take) }).working o.cell o.take 0
    let p := s.openPlatform b .arrival
    if p.2 then p.1 else p.1.settleArrival b .noWeight

/-- TRUCK_ARRIVE (R139). -/
def execTruckArrive (s : State) : Host.Outcome State Fault Refusal :=
  handle (takeOrder .lu Kind.truckArrive fun s o => s.checked o (Body.truckArriveBad o.body) State.truckArriveOrder) s

/-! ## LOAD_PLAN: the checks -/

/-- The first entry field out of range, with its entry: a coil id of 0 or named before (field 3), a position beyond the
support spacing or closer than 120 cm to an earlier one (field 4). `seen` holds the LOADED and the earlier entries
(R143 step 2, R153 step 3, R200). -/
def itemsBad (spacing : Nat) : Nat → List PlanItem → List PlanItem → Option (Nat × Nat)
  | _, _, [] => none
  | k, seen, it :: rest =>
    if it.id = 0 ∨ seen.any fun p => p.id == it.id then some (3, k)
    else if spacing < it.position ∨ seen.any fun p => decide (absDiff p.position it.position < 120) then some (4, k)
    else itemsBad spacing (k + 1) (it :: seen) rest

/-- The first entry, with its index, that a test refuses. -/
def firstItem (test : PlanItem → Bool) : Nat → List PlanItem → Option (Nat × PlanItem)
  | _, [] => none
  | k, it :: rest => if test it then some (k, it) else firstItem test (k + 1) rest

/-- The record of the coil an entry names. -/
def State.itemCoil (s : State) (it : PlanItem) : Option Coil := (s.recordOf it.id).bind s.coil?

/-- The coil is named by an entry of the bay's own plan that is not LOADED (R153, step 4). -/
def State.ownEntry (s : State) (b : Nat) (id : Nat) : Bool :=
  (s.bay b).plan.any fun p => p.2.state != .loaded && ((s.coil? p.2.coil).any fun c => c.id == id)

/-- Step 4 of R143: at a slot or a station, no live move, neither flag; a coil of the plan being replaced passes the
OUTBOUND test. -/
def State.itemForbidden (s : State) (b : Nat) (it : PlanItem) : Bool :=
  match s.itemCoil it with
  | none => false
  | some c =>
    (match c.place with
      | .slot _ | .station _ => false
      | _ => true)
    || c.move.isSome || c.qualityHold || (c.outbound && !s.ownEntry b it.id)

/-- Step 5 of R143: no crane is eligible for the coil's source and the bay centre. -/
def State.itemUnserved (s : State) (b : Nat) (it : PlanItem) : Bool :=
  match s.itemCoil it with
  | none => false
  | some c => !([0, 1, 2, 3].any (s.eligible (s.placeX c.place) (s.bay b).centre))

/-- Step 6 of R143: the entries added one by one to the loads; the answer at the first limit exceeded, else the loads. -/
def State.addLoads (s : State) (k : Bay) : Nat → Nat × Nat → List PlanItem → Except Answer (Nat × Nat)
  | _, loads, [] => .ok loads
  | i, loads, it :: rest =>
    let w := ((s.itemCoil it).map Coil.weightUsed).getD 0
    let f := loads.1 + frontShare w it.position k.spacing
    let r := loads.2 + rearShare w it.position k.spacing
    match k.exceeded f r with
    | some g => .error (.planUnfit g i f r)
    | none => s.addLoads k (i + 1) (f, r) rest

/-- Steps 3 to 6 of R143 (R153 steps 4 and 5), each step across all entries before the next. -/
def State.checkItems (s : State) (b : Nat) (loads : Nat × Nat) (items : List PlanItem) : Except Answer (Nat × Nat) :=
  match firstItem (fun it => (s.itemCoil it).isNone) 0 items with
  | some (k, it) => .error (.unknownCoil it.id k)
  | none =>
    match firstItem (s.itemForbidden b) 0 items with
    | some (k, it) => .error (.coilState it.id k)
    | none =>
      match firstItem (s.itemUnserved b) 0 items with
      | some (k, _) => .error (.noCraneFor k)
      | none => s.addLoads (s.bay b) 0 loads items

/-- The LOADED entries of a plan, which a replacement keeps (R153). -/
def Bay.loadedPlan (k : Bay) : Tab Entry := k.plan.filter fun p => p.2.state == .loaded

/-- The LOADED entries as items, for the tests of R153. -/
def State.loadedItems (s : State) (b : Nat) : List PlanItem :=
  (s.bay b).loadedPlan.map fun p =>
    { id := ((s.coil? p.2.coil).map Coil.id).getD 0, position := p.2.position }

/-- The tares plus the shares of every LOADED entry as held; of a truck without a plan, the tares (R143, R153). -/
def Bay.loadedLoads (k : Bay) : Nat × Nat :=
  (k.tareFront + (k.loadedPlan.map fun p => p.2.frontShare).sum,
    k.tareRear + (k.loadedPlan.map fun p => p.2.rearShare).sum)

/-- The entry count and entry fields, then the coils and the loads: the loads, or the answer (R143, R153, R200). -/
def State.checkPlan (s : State) (b least : Nat) (d : Body) : Except Answer (Nat × Nat) :=
  let k := s.bay b
  let n := d.entryCount
  if !inRange least 6 n || 6 < n + k.loadedPlan.length then .error (.badField 2)
  else
    match itemsBad k.spacing 0 (s.loadedItems b) d.planItems with
    | some (field, entry) => .error (.badEntryField field entry)
    | none => s.checkItems b k.loadedLoads d.planItems

/-! ## LOAD_PLAN: acceptance -/

/-- LU asks SU to set or clear OUTBOUND on a coil (R15). -/
def State.setOutbound (s : State) (r : Nat) (v : Bool) : State := s.modCoil r fun c => { c with outbound := v }

/-- The new entries join a plan, each under the lowest free entry number; with the numbers given (R144, R153). -/
def addEntries : List Entry → Tab Entry → Tab Entry × List Nat
  | [], t => (t, [])
  | v :: rest, t =>
    match t.lowestFree 6 0 with
    | none => (t, [])
    | some e =>
      let p := addEntries rest (t.put e v)
      (p.1, e :: p.2)

/-- The DONE answer of LOAD_PLAN: the count, the entry numbers, the loads (11.2). -/
def planAnswer (entries : List Nat) (loads : Nat × Nat) : Answer :=
  { code := .done
    area :=
      byte entries.length :: padTo 7 (entries.map byte) ++ leBytes 2 loads.1 ++ leBytes 2 loads.2
        ++ leBytes 2 (loads.1 + loads.2) }

/-- The entries a LOAD_PLAN brings, WAITING and not started. -/
def State.newEntries (s : State) (items : List PlanItem) : List Entry :=
  items.filterMap fun it => (s.recordOf it.id).map fun r => { coil := r, position := it.position }

/-- A plan that passed every check is accepted: the coils of removed entries that the new list does not name lose OUTBOUND, the
new ones gain it, the bay is LOADING and starts entries, or goes to CHECK when nothing remains (R144, R153). -/
def State.acceptPlan (s : State) (o : Order) (b : Nat) (items : List PlanItem) (loads : Nat × Nat) : State :=
  let fresh := s.newEntries items
  let dropped := (s.bay b).plan.filter fun p => p.2.state != .loaded && fresh.all fun v => v.coil != p.2.coil
  let s := dropped.foldl (fun s p => s.setOutbound p.2.coil false) s
  let s := fresh.foldl (fun s v => s.setOutbound v.coil true) s
  let p := addEntries fresh (s.bay b).loadedPlan
  let s := s.modBay b fun k => { k with plan := p.1, remaining := items.length }
  let s :=
    if items.isEmpty then s.enterCheck b
    else
      let s := s.setBayState b .loading
      State.startEntries 6 (s.produce (bayEntry s b {})) b
  s.reply o (planAnswer p.2 loads)

/-- A live move has origin PLAN of the bay. -/
def State.planLive (s : State) (b : Nat) : Bool :=
  s.moves.any fun p =>
    match p.2.origin with
    | .plan c _ => c == b
    | _ => false

/-- A live move has origin DIG of the bay. -/
def State.digLive (s : State) (b : Nat) : Bool :=
  s.moves.any fun p =>
    match p.2.origin with
    | .dig c _ => c == b
    | _ => false

/-- A live move has a source on the bay's bed. -/
def State.bedSourceLive (s : State) (b : Nat) : Bool :=
  s.moves.any fun p =>
    match p.2.source with
    | .bed c _ => c == b
    | _ => false

/-- A plan is checked, then accepted or answered with the first check that fails. -/
def State.planOrder (s : State) (o : Order) (b least : Nat) : State :=
  let d : Body := o.body
  match s.checkPlan b least d with
  | .error a => s.reply o a
  | .ok loads => s.acceptPlan o b d.planItems loads

/-- LOAD_PLAN: a first plan in ARRIVED, a replacement in PLAN_HOLD with nothing in flight (R143, R153). -/
def State.loadPlanOrder (s : State) (o : Order) : State :=
  let b := Body.bay o.body
  if 2 < b then s.reply o (.badField 1)
  else
    match (s.bay b).state with
    | .arrived => s.planOrder o b 1
    | .planHold =>
      if (s.bay b).plan.any (fun p => p.2.inFlight) || s.planLive b || s.digLive b || s.bedSourceLive b then
        s.reply o (s.bayRefusal b)
      else s.planOrder o b 0
    | _ => s.reply o (s.bayRefusal b)

/-- LOAD_PLAN (R143, R144, R153). -/
def execLoadPlan (s : State) : Host.Outcome State Fault Refusal :=
  handle (takeOrder .lu Kind.loadPlan State.loadPlanOrder) s

/-! ## TRUCK_RELEASE, TRUCK_CANCEL -/

/-- The bay is EMPTY again, with its BAY_STATE entry (R157, R158). -/
def State.emptyBay (s : State) (b : Nat) : State :=
  let s := (s.modBay b Bay.withoutTruck).setBayState b .empty
  s.produce (bayEntry s b {})

/-- The coil's place is a bed entry of the bay. -/
def Coil.onBedOf (c : Coil) (b : Nat) : Bool :=
  match c.place with
  | .bed k _ => k == b
  | _ => false

/-- The bed weights of the coils on the bed, in sum (R157). -/
def Bay.bedTotal (k : Bay) : Nat := ((k.plan.filter fun p => p.2.onBed).map fun p => p.2.bedWeight.getD 0).sum

/-- The DONE answer of TRUCK_RELEASE. -/
def releaseAnswer (ref coils total : Nat) : Answer :=
  { code := .done, area := leBytes 4 ref ++ [byte coils, 0] ++ leBytes 2 total }

/-- TRUCK_RELEASE (R157). -/
def State.releaseOrder (s : State) (o : Order) : State :=
  let b := Body.bay o.body
  if 2 < b then s.reply o (.badField 1)
  else if ((s.bay b).state = .ready ∨ (s.bay b).state = .discrepant) ∧ ¬ s.bedSourceLive b ∧ ¬ s.digLive b then
    let k := s.bay b
    let gone := (s.coils.filter fun p => p.2.onBedOf b).map (·.1)
    let s := gone.foldl State.removeCoil s
    (s.emptyBay b).reply o (releaseAnswer k.truckRef gone.length k.bedTotal)
  else s.reply o (s.bayRefusal b)

/-- TRUCK_RELEASE (R157). -/
def execTruckRelease (s : State) : Host.Outcome State Fault Refusal :=
  handle (takeOrder .lu Kind.truckRelease State.releaseOrder) s

/-- TRUCK_CANCEL may be taken: ARRIVED, or PLAN_HOLD with every bed entry FREE, no plan or dig move live (R158) and no
move live that unloads the bed (R154). -/
def State.cancellable (s : State) (b : Nat) : Bool :=
  (s.bay b).state == .arrived
    || ((s.bay b).state == .planHold && (s.bay b).plan.all (fun p => p.2.bed == .free) && !s.planLive b
      && !s.digLive b && !s.bedSourceLive b)

/-- TRUCK_CANCEL (R158). -/
def State.cancelOrder (s : State) (o : Order) : State :=
  let b := Body.bay o.body
  if 2 < b then s.reply o (.badField 1)
  else if s.cancellable b then
    let s := (s.bay b).plan.foldl (fun s p => s.setOutbound p.2.coil false) s
    (s.emptyBay b).reply o .ok
  else s.reply o (s.bayRefusal b)

/-- TRUCK_CANCEL (R158). -/
def execTruckCancel (s : State) : Host.Outcome State Fault Refusal :=
  handle (takeOrder .lu Kind.truckCancel State.cancelOrder) s

end Sys2Proof.Machine
end

