-- ==== Sys2Proof/Machine/ChannelOrders.lean ====
section
/-! DEFINITION. WU's orders SET_CHANNEL, ZERO_SET and ZERO_REARM (R114, R115, R130, R131). -/

namespace Sys2Proof.Machine

/-- The phases in which a hook channel cannot be set (R115). -/
def Phase.picking : Phase → Bool
  | .pickLower | .pickGrip | .pickVerify | .pickHoist | .weigh => true
  | _ => false

/-- The bay states in which a platform channel cannot be set (R115). -/
def BayState.weighs : BayState → Bool
  | .arriving | .arrived | .loading | .planHold | .check => true
  | _ => false

/-- The channel belongs to a session (R122). -/
def State.inSession (s : State) (k : Nat) : Bool :=
  if k < 4 then (s.channel k).session.isSome else (s.bay (channelBay k)).session.isSome

/-- The busy cases of SET_CHANNEL (R115). -/
def State.channelBusy (s : State) (k : Nat) : Bool :=
  (s.channel k).zeroSet.isSome
    || (s.inService
      && (if k < 4 then ((s.currentMove k).bind s.phaseOf).any Phase.picking
          else (s.bay (channelBay k)).state.weighs))

/-- The channel with a new calibration: its data flag, expiry and last sample's eligibility stay (R115). -/
def Channel.recalibrated (old new : Channel) : Channel :=
  { new with
    data := old.data, expiryRunning := old.expiryRunning, lastEligible := old.lastEligible, session := old.session }

/-- SET_CHANNEL with its fields in range (R115). -/
def State.setChannelOrder (s : State) (o : Order) : State :=
  let b : Body := o.body
  let k := b.channel
  if s.channelBusy k then s.reply o (.numbered .channelBusy k)
  else ((s.modChannel k fun c => c.recalibrated b.channelRecord).touch (Group.channel k)).reply o .ok

/-- SET_CHANNEL (R114, R115). -/
def execSetChannel (s : State) : Host.Outcome State Fault Refusal :=
  handle
    (takeOrder .wu Kind.setChannel fun s o =>
      s.checked o (Body.setChannelBad o.body (s.fitted (Body.channel o.body))) State.setChannelOrder) s

/-- The cases in which ZERO_SET is answered CHANNEL_BUSY (R131). -/
def State.zeroBusy (s : State) (k : Nat) : Bool :=
  let c := s.channel k
  !c.configured || !c.data || s.inSession k || c.zeroSet.isSome || !c.lastEligible

/-- ZERO_SET: a zero set starts, and its cell is WORKING (R131). -/
def State.zeroSetOrder (s : State) (o : Order) : State :=
  let k := Body.channel o.body
  if 9 < k then s.reply o (.badField 1)
  else if s.zeroBusy k then s.reply o (.numbered .channelBusy k)
  else
    (s.modChannel k fun c => { c with zeroSet := some { cell := o.cell, take := o.take } }).working o.cell o.take 0

/-- ZERO_SET (R131). -/
def execZeroSet (s : State) : Host.Outcome State Fault Refusal :=
  handle (takeOrder .wu Kind.zeroSet State.zeroSetOrder) s

/-- ZERO_REARM: the latched flag is cleared (R130). -/
def State.zeroRearmOrder (s : State) (o : Order) : State :=
  let k := Body.channel o.body
  if 9 < k then s.reply o (.badField 1)
  else (s.modChannel k fun c => { c with latched := false }).reply o .ok

/-- ZERO_REARM (R130). -/
def execZeroRearm (s : State) : Host.Outcome State Fault Refusal :=
  handle (takeOrder .wu Kind.zeroRearm State.zeroRearmOrder) s

end Sys2Proof.Machine
end

