-- ==== Sys2Proof/Machine/CraneOrders.lean ====
section
/-! DEFINITION. RU's orders SET_RUNWAY and SET_CRANE, and CU's orders ABORT_MOVE, CRANE_OUT and CRANE_IN
(R59 to R61, R104). -/

namespace Sys2Proof.Machine

/-! ## SET_RUNWAY, SET_CRANE -/

/-- SET_RUNWAY with its fields in range: all eight values together; the closed extents follow from them (R60, R78). -/
def State.setRunwayOrder (s : State) (o : Order) : State :=
  { s with runway := Body.runway o.body }.reply o .ok

/-- SET_RUNWAY (R60). -/
def execSetRunway (s : State) : Host.Outcome State Fault Refusal :=
  handle (takeOrder .ru Kind.setRunway fun s o => s.checked o (Body.setRunwayBad o.body) State.setRunwayOrder) s

/-- The CRANE_STATE answer. -/
def State.craneRefusal (s : State) (c : Nat) : Answer := .stateOf .craneState c (s.crane c).state.code

/-- SET_CRANE: the crane number, whether it is fitted, then the three values (R61). -/
def State.setCraneOrder (s : State) (o : Order) : State :=
  let b : Body := o.body
  let c := b.crane
  if 3 < c then s.reply o (.badField 1)
  else if !s.fitted c then s.reply o (s.craneRefusal c)
  else
    s.checked o b.setCraneBad fun s o =>
      (s.modCrane c fun k =>
        { k with configured := true, svcLo := b.svcLo, svcHi := b.svcHi, halfWidth := b.halfWidth }).reply o .ok

/-- SET_CRANE (R61). -/
def execSetCrane (s : State) : Host.Outcome State Fault Refusal :=
  handle (takeOrder .ru Kind.setCrane State.setCraneOrder) s

/-! ## CRANE_OUT, CRANE_IN -/

/-- CRANE_OUT is taken when the crane is IDLE, or STOPPED with resume state IDLE, and its queue is empty (R59). -/
def Crane.mayLeave (c : Crane) : Bool := c.working == .idle && c.queue.isEmpty

/-- CRANE_IN is taken when the crane is OUT, its link UP and its lock LOCKED (R59). -/
def Crane.mayReturn (c : Crane) : Bool := c.state == .out && c.link == .up && c.lock == .locked

/-- CRANE_OUT and CRANE_IN: the crane number, ABSENT, then the order's own test (R59). -/
def State.craneOrder (test : Crane → Bool) (f : State → Nat → State) (s : State) (o : Order) : State :=
  let c := Body.crane o.body
  if 3 < c then s.reply o (.badField 1)
  else if s.fitted c && test (s.crane c) then (f s c).reply o .ok
  else s.reply o (s.craneRefusal c)

/-- The crane becomes OUT; its causes, its grant and its coil are kept (R59). -/
def State.takeOut (s : State) (c : Nat) : State := (s.setCraneState c .out).craneEntry c 9

/-- The crane returns to service, with HALT_ALL added in HALTED (R59). -/
def State.bringIn (s : State) (c : Nat) : State :=
  let before := s
  let s := if s.mode = .halted then s.addCause c .haltAll else s
  let s :=
    if (s.crane c).causes.isEmpty then s.setCraneState c .idle
    else (s.modCrane c fun k => { k with resume := .idle }).setCraneState c .stopped
  before.afterCU (s.craneEntry c 10)

/-- CRANE_OUT (R59). -/
def execCraneOut (s : State) : Host.Outcome State Fault Refusal :=
  handle (takeOrder .cu Kind.craneOut (State.craneOrder Crane.mayLeave State.takeOut)) s

/-- CRANE_IN (R59). -/
def execCraneIn (s : State) : Host.Outcome State Fault Refusal :=
  handle (takeOrder .cu Kind.craneIn (State.craneOrder Crane.mayReturn State.bringIn)) s

/-! ## ABORT_MOVE -/

/-- Of two live moves, the one accepted earlier (R85, R104). -/
def olderMove (a b : Nat × Move) : Nat × Move := if laterSeq a.2.seq b.2.seq then b else a

/-- The oldest of a list of live moves. -/
def oldestMove : List (Nat × Move) → Option (Nat × Move)
  | [] => none
  | a :: rest => some (rest.foldl olderMove a)

/-- A live move of origin CELL with the tag. -/
def Move.taggedBy (v : Move) (tag : Nat) : Bool :=
  match v.origin with
  | .cell _ _ => v.tag == tag
  | _ => false

/-- The move an ABORT_MOVE selects (R104). -/
def State.selectMove (s : State) (tag number : Nat) : Option (Nat × Move) :=
  if tag = 0 then (s.move? number).map fun v => (number, v)
  else oldestMove (s.moves.filter fun p => p.2.taggedBy tag)

/-- ABORT_MOVE on a selected move: recorded and acted on, or an AT_SAFE request made NOW or QUIET, or nothing but
REPEAT (R104). -/
def State.abortMove (s : State) (o : Order) (m : Nat) (v : Move) (kind : AbortKind) : State :=
  match v.abort with
  | none =>
    let s := s.modMove m fun v => { v with abort := some { kind := kind, cell := o.cell, take := o.take } }
    (s.working o.cell o.take v.phase.code).actAbort m v kind
  | some a =>
    let s := s.reply o repeatAnswer
    if a.kind = .atSafe ∧ kind ≠ .atSafe then
      (s.modMove m fun v => { v with abort := some { a with kind := kind } }).actAbort m v kind
    else s

/-- ABORT_MOVE with its fields in range (R104). -/
def State.abortOrder (s : State) (o : Order) : State :=
  let b : Body := o.body
  match b.variant, s.selectMove b.moveTag b.moveNumber with
  | none, _ => s.reply o (.badField 3)
  | some _, none => s.reply o { code := .unknownMove }
  | some kind, some (m, v) => s.afterCU (s.abortMove o m v kind)

/-- ABORT_MOVE (R104 to R107). -/
def execAbortMove (s : State) : Host.Outcome State Fault Refusal :=
  handle (takeOrder .cu Kind.abortMove fun s o => s.checked o (Body.abortBad o.body) State.abortOrder) s

end Sys2Proof.Machine
end

