-- ==== Sys2Proof/Machine/FieldEvents.lean ====
section
/-! DEFINITION. The field events: crane telegrams, scale line telegrams, expiries, area inputs, the beginning of a move
(R42 to R49, R89, R112, R113, R124, R125, R138). -/

namespace Sys2Proof.Machine

/-- An event on a crane link; on the link of a crane not fitted it is discarded (R42, R48). -/
def onLink (c : Fin 4) (f : State → Nat → State) (s : State) : State := if s.fitted c.val then f s c.val else s

/-- STATUS (R45). -/
def execStatus (c : Fin 4) (r : StatusReport) (s : State) : Host.Outcome State Fault Refusal :=
  handle (onLink c fun s k => s.takeStatus k r) s

/-- TAG (R47). -/
def execTag (c : Fin 4) (r : TagReport) (s : State) : Host.Outcome State Fault Refusal :=
  handle (onLink c fun s k => s.takeTag k r) s

/-- BAD_TELEGRAM (R42, R48). -/
def execBadTelegram (c : Fin 4) (s : State) : Host.Outcome State Fault Refusal :=
  handle (onLink c State.countBad) s

/-- REPORT_EXPIRY (R49). -/
def execReportExpiry (c : Fin 4) (s : State) : Host.Outcome State Fault Refusal :=
  handle (onLink c State.reportExpires) s

/-- SAMPLE (R112). -/
def execSample (b : Fin 3) (r : SampleReport) (s : State) : Host.Outcome State Fault Refusal :=
  handle (fun s => s.platformSample b.val r.front.toInt r.rear.toInt) s

/-- BAD_SAMPLE_TELEGRAM: discarded and not counted (R112). -/
def execBadSampleTelegram (_b : Fin 3) (s : State) : Host.Outcome State Fault Refusal := .next s.begin

/-- SAMPLE_EXPIRY (R113). -/
def execSampleExpiry (k : Fin 10) (s : State) : Host.Outcome State Fault Refusal :=
  handle (fun s => s.sampleExpires k.val) s

/-- The cranes whose current move works over a bay's bed. -/
def State.cranesOver (s : State) (b : Nat) : List Nat := (fittedCranes s).filter fun c => s.workBed c == some b

/-- CU's bed-hold flag is set: bed steps in progress are given up; or cleared: they are sent (R103). -/
def State.setBedHold (s : State) (b : Nat) (v : Bool) : State :=
  let s := s.modBay b fun k => { k with bedHold := v }
  (s.cranesOver b).foldl (init := s) fun s c =>
    if v then (if (s.crane c).stepInProgress then s.sendStop c true else s) else s.resumeSteps c

/-- A configured bay's area becomes OCCUPIED or CLEAR: LU's area state, RU's extent, CU's bed-hold flag (R138). -/
def State.changeArea (s : State) (b : Nat) (low : Bool) : State :=
  let s := s.modBay b fun k => { k with occupied := low }
  let s := if low then (if s.inService then s.closeExtent b else s) else s.openExtent b
  s.setBedHold b low

/-- A bay area input takes a level. Only a change of the level of a configured bay's input acts (R138). -/
def State.areaInput (b : Nat) (low : Bool) (s : State) : State :=
  let s := { s with areaLow := [0, 1, 2].filter fun k => if k = b then low else s.areaLow.contains k }
  if (s.bay b).state = .unconfigured ∨ (s.bay b).occupied = low then s else s.changeArea b low

/-- AREA_CHANGE (R138). -/
def execAreaChange (b : Fin 3) (low : Bool) (s : State) : Host.Outcome State Fault Refusal :=
  handle (State.areaInput b.val low) s

/-- SESSION_EXPIRY: the sample that brings a session to its limit is handled as the report that carries it (R124 step 5,
R125 step 5, log entry 4). -/
def execSessionExpiry (last : LimitSample) (s : State) : Host.Outcome State Fault Refusal :=
  match last with
  | .hook c r => handle (onLink c fun s k => s.takeStatus k r) s
  | .platform b r => handle (fun s => s.platformSample b.val r.front.toInt r.rear.toInt) s

/-- MOVE_BEGIN (R89). Where no move may begin there is no such event and nothing happens. -/
def execMoveBegin (c : Fin 4) (s : State) : Host.Outcome State Fault Refusal :=
  handle (fun s => s.afterCU (s.beginMove c.val)) s

end Sys2Proof.Machine
end

