-- ==== Sys2Proof/Machine/HostPort.lean ====
section
/-! DEFINITION. XP's host interface: register writes, exchange memory writes, resets, clearing and intake
(R170 to R184, R199). -/

namespace Sys2Proof.Machine

/-! ## POST (R181) -/

/-- The cause for which a POST write is refused, tested in order: RESETTING, COUNT, RANGE, QUEUE_FULL. -/
def State.postCause (s : State) (first count : Nat) : Option Nat :=
  if s.mode = .resetting then some 1
  else if count = 0 then some 2
  else if 128 < first + count then some 3
  else if Config.postPlaces ≤ s.posts.length then some 4
  else none

/-- A refused post: recorded, shown in the intake group except in RESETTING, with the POSTREF notice (R172, R181). -/
def State.refusePost (s : State) (first count cause : Nat) : State :=
  let s := { s with lastRefused := { first := first, count := count, cause := cause } }
  let s := if s.mode = .resetting then s else s.writeGroup Group.intake
  s.raise .postref

/-- A write of POST (R181, R201). -/
def State.takePost (v : Word32) (s : State) : State :=
  match s.postCause (postFirst v) (postCount v) with
  | some cause => s.refusePost (postFirst v) (postCount v) cause
  | none => { s with posts := s.posts ++ [{ first := postFirst v, count := postCount v }] }

/-- POST (R181). -/
def execPost (v : Word32) (s : State) : Host.Outcome State Fault Refusal := handle (State.takePost v) s

/-! ## NOTICE, NOTICE_ON, NOTICE_OFF (R180, R194) -/

/-- The flush attempt of a NOTICE write with the JFULL bit: JFULL is raised again if entries remain held. During
RESETTING no entry is written (R194). -/
def State.flushForNotice (s : State) : State :=
  let s := if s.mode = .resetting then s else s.flush
  if s.holding.isEmpty then s else s.raise .jfull

/-- A write of NOTICE (R180, R199). -/
def State.takeNotice (v : Word32) (s : State) : State :=
  let s := { s with flags := clearFlags s.flags (noticeBits v) }
  if jfullWritten v then s.flushForNotice else s

/-- NOTICE (R180). -/
def execNotice (v : Word32) (s : State) : Host.Outcome State Fault Refusal := handle (State.takeNotice v) s

/-- A write of NOTICE_ON (R180). -/
def State.takeNoticeOn (v : Word32) (s : State) : State := { s with enables := setEnables s.enables (noticeBits v) }

/-- NOTICE_ON (R180). -/
def execNoticeOn (v : Word32) (s : State) : Host.Outcome State Fault Refusal := handle (State.takeNoticeOn v) s

/-- A write of NOTICE_OFF (R180). -/
def State.takeNoticeOff (v : Word32) (s : State) : State := { s with enables := clearEnables s.enables (noticeBits v) }

/-- NOTICE_OFF (R180). -/
def execNoticeOff (v : Word32) (s : State) : Host.Outcome State Fault Refusal := handle (State.takeNoticeOff v) s

/-! ## Writes into exchange memory, and register writes without effect (R174, R179) -/

/-- A software write lies inside the window (R174). -/
def HostWrite.inWindow (w : HostWrite) : Bool := decide (w.offset + w.bytes.length ≤ Config.windowSize)

/-- The writes of a burst, in order (R174, R178). -/
def State.takeBurst (burst : List HostWrite) (s : State) : State :=
  burst.foldl (fun s w => s.writeBytes w.offset w.bytes) s

/-- REGISTER_WRITE_IGNORED: the burst's writes stand, the register write has no effect (R179, log entry 2). -/
def execRegisterWriteIgnored (burst : List HostWrite) (_write : IgnoredWrite) (s : State) :
    Host.Outcome State Fault Refusal :=
  if burst.all HostWrite.inWindow then .next ((s.begin).takeBurst burst) else .fault .outsideWindow

/-! ## Resets (R170, R171) -/

/-- What a reset leaves alone: the commands that wait, the area inputs' levels, the count of free values read. -/
def State.afterReset (s fresh : State) : State :=
  { fresh with pending := s.pending, areaLow := s.areaLow, freeCount := s.freeCount }

/-- POWER_ON_RESET: every record at its reset value, exchange memory without meaning until it is cleared (R170, R171). -/
def execPowerOnReset (straps : Fin 4) (s : State) : Host.Outcome State Fault Refusal :=
  .next (s.afterReset (State.atReset straps.val .powerOn))

/-- PART_RESET: as a power-on reset, with cause PART; exchange memory keeps its contents until the clearing, which starts
at its first byte, reaches them (R170 to R172). -/
def execPartReset (_low : BitVec 31) (straps : Fin 4) (s : State) : Host.Outcome State Fault Refusal :=
  .next { s.afterReset (State.atReset straps.val .part) with mem := s.mem }

/-- One byte of the clearing, upward (R171, step 2). -/
def State.clearByte (s : State) : State :=
  { s with mem := s.mem.erase s.clearedTo, clearedTo := s.clearedTo + 1 }

/-- The clearing reaches the end of the window: every byte it has not yet passed is 0 (R171, R172). -/
def State.clearRest (s : State) : State :=
  { s with mem := s.mem.filter (fun p => decide (p.1 < s.clearedTo)), clearedTo := Config.windowSize }

/-- The whole directory is written once (R171, step 5). -/
def State.writeDirectory (s : State) : State := (List.range Group.count).foldl State.writeGroup s

/-- The MODE entry of the change into SETUP joins the head of the holding queue with JFULL; where 32 are held, the newest
is dropped with JLOST (R194). -/
def State.headEntry (s : State) (e : JournalEntry) : State :=
  let full := Config.holdingPlaces ≤ s.holding.length
  let s := { s with holding := e :: s.holding.take (Config.holdingPlaces - 1) }
  let s := s.writeGroup Group.journal
  let s := if full then s.raise .jlost else s
  s.raise .jfull

/-- The change into SETUP: the mode, the directory, the MODE entry with the reset cause ahead of the held entries, a
flush attempt, the MODE notice (R161, R171 step 6, R194). -/
def State.enterSetup (s : State) : State :=
  let s := { s with mode := .setup }.writeGroup Group.general
  ((s.headEntry (modeEntry .setup .resetting s.resetCause.code)).flush).raise .mode

/-- CLEARING_COMPLETE: steps 5 and 6 of R171. Outside RESETTING no clearing runs and nothing happens. -/
def State.completeClearing (s : State) : State :=
  if s.mode = .resetting then s.clearRest.writeDirectory.enterSetup else s

/-- CLEARING_COMPLETE (R171). The directory is written whole here, so nothing is left to publish. -/
def execClearingComplete (s : State) : Host.Outcome State Fault Refusal := .next s.begin.completeClearing

/-! ## INTAKE (R183, R184) -/

/-- XP's copy of the order in a cell, under a take number (R183). -/
def State.copyOrder (s : State) (n take : Nat) : Order :=
  { cell := n, take := take, kind := s.readNat (cellOffset n + 1) 1, tag := s.readNat (cellOffset n + 4) 2
    body := s.readBytes (cellOffset n + 16) 112 }

/-- The take counter's next value (R176). -/
def nextTake (n : Nat) : Nat := if n = 4294967295 then 1 else n + 1

/-- An order is handed to its owner, XP holding a mode order (R184, R185). -/
def State.handOver (s : State) (w : Owner) (o : Order) : State :=
  match w with
  | .xp => { s with modeOrder := some o }
  | _ => s.setInbound w (s.inbound w ++ [o])

/-- XP's two checks on a taken order, then the hand-over (R184). -/
def State.dispatchOrder (s : State) (o : Order) : State :=
  match kindRow o.kind with
  | none => s.reply o { code := .badKind }
  | some r => if r.allowed s.mode then s.handOver r.owner o else s.reply o (.wrongMode s.mode)

/-- XP takes a FILLED cell: TAKEN and the take number are written, then the order is copied (R183). -/
def State.takeCell (s : State) (n : Nat) : State :=
  let take := s.takeCounter
  let s := (s.writeByte (cellOffset n) 2).writeBytes (cellOffset n + 8) (leBytes 4 take)
  { s with takeCounter := nextTake take }.dispatchOrder (s.copyOrder n take)

/-- Intake deals with the next cell of the head descriptor: taken if FILLED, else skipped; a descriptor dealt with whole
leaves the queue, but keeps its place while a mode order waits (R163, R183). -/
def State.intakeCell (s : State) : State :=
  match s.posts with
  | [] => s
  | d :: rest =>
    if s.mode = .resetting ∨ s.modeOrder.isSome then s
    else
      let n := d.first + d.dealt
      let s := { s with posts := { d with dealt := d.dealt + 1 } :: rest }
      let s := if s.cellState n = 1 then s.takeCell n else s.skipCell n 1 (s.cellState n)
      if s.modeOrder.isSome then s else s.dropDealt

/-- INTAKE (R183, R184). -/
def execIntake (s : State) : Host.Outcome State Fault Refusal := handle State.intakeCell s

end Sys2Proof.Machine
end

