-- ==== Sys2Proof/Machine/ModeOrders.lean ====
section
/-! DEFINITION. XP's mode orders START, HALT_ALL and RESUME (R163 to R169). -/

namespace Sys2Proof.Machine

/-! ## The seven checks of START (R164, R165). Each names its subject and second subject where it fails. -/

/-- The fitted pairs of adjacent cranes, by western crane. -/
def adjacentPairs (s : State) : List Nat := (fittedCranes s).filter fun i => s.fitted (i + 1)

/-- Check 1: the runway is configured. -/
def State.check1 (s : State) : Option (Nat × Nat) := if s.runway.configured then none else some (0, 0)

/-- Check 2: every fitted crane and its hook channel are configured. Where both are unconfigured the crane is named (log entry
63). -/
def State.check2 (s : State) : Option (Nat × Nat) :=
  (fittedCranes s).findSome? fun c =>
    if !(s.crane c).configured then some (c, 1)
    else if !(s.channel c).configured then some (c, 2)
    else none

/-- Check 3: the service ranges lie in the runway, then neither end steps back from west to east. -/
def State.check3 (s : State) : Option (Nat × Nat) :=
  let bad := fun c =>
    let k := s.crane c
    !(decide (s.runway.lo ≤ k.svcLo) && decide (k.svcLo < k.svcHi) && decide (k.svcHi ≤ s.runway.hi))
  let stepsBack := fun i =>
    !(decide ((s.crane i).svcLo ≤ (s.crane (i + 1)).svcLo) && decide ((s.crane i).svcHi ≤ (s.crane (i + 1)).svcHi))
  match (fittedCranes s).find? bad with
  | some c => some (c, 0)
  | none => ((adjacentPairs s).find? stepsBack).map fun i => (i + 1, 0)

/-- The configured columns, by number, with their x. -/
def State.columnXs (s : State) : List (Nat × Nat) :=
  (s.columns.filter fun p => p.2.configured).map fun p => (p.1, p.2.x)

/-- The first column whose x is not greater than that of the configured column before it. -/
def firstNotRising : List (Nat × Nat) → Option Nat
  | a :: b :: rest => if a.2 < b.2 then firstNotRising (b :: rest) else some b.1
  | _ => none

/-- Check 4: column positions rise strictly with column number. -/
def State.check4 (s : State) : Option (Nat × Nat) := (firstNotRising s.columnXs).map fun c => (c, 0)

/-- Check 5: no column lies within a configured bay's closed extent. Of two such bays the lower number is named (log
entry 53). -/
def State.check5 (s : State) : Option (Nat × Nat) :=
  s.columnXs.findSome? fun p =>
    [0, 1, 2].findSome? fun b =>
      let e := s.extent b
      if (s.bay b).state ≠ .unconfigured ∧ e.lo ≤ (p.2 : Int) ∧ (p.2 : Int) ≤ e.hi then some (p.1, b) else none

/-- Check 6: every fitted crane is reporting, its link UP, its lock LOCKED. -/
def State.check6 (s : State) : Option (Nat × Nat) :=
  ((fittedCranes s).find? fun c =>
    let k := s.crane c
    !(k.reported && k.link == .up && k.lock == .locked)).map fun c => (c, 0)

/-- The starting span of a crane, before clipping (R63). -/
def State.startSpan (s : State) (c : Nat) : Span := Span.around (s.crane c).xLaser s.runway.margin

/-- Check 7: every fitted crane stands on the runway, and adjacent starting spans are separated. -/
def State.check7 (s : State) : Option (Nat × Nat) :=
  match (fittedCranes s).find? fun c =>
      !(decide (s.runway.lo ≤ (s.crane c).xLaser) && decide ((s.crane c).xLaser ≤ s.runway.hi)) with
  | some c => some (c, 0)
  | none =>
    ((adjacentPairs s).find? fun i => !s.separated i (s.startSpan i) (i + 1) (s.startSpan (i + 1))).map fun i => (i, 0)

/-- The checks in order, with their numbers. -/
def State.startChecks (s : State) : List (Nat × Option (Nat × Nat)) :=
  [(1, s.check1), (2, s.check2), (3, s.check3), (4, s.check4), (5, s.check5), (6, s.check6), (7, s.check7)]

/-- The LAYOUT answer of the first check that fails (R164). -/
def State.startRefusal (s : State) : Option Answer :=
  s.startChecks.findSome? fun p => p.2.map fun q => .layout p.1 q.1 q.2

/-! ## START (R166) -/

/-- RU makes the starting grants (R63, R166). -/
def State.makeGrants (s : State) : State :=
  (fittedCranes s).foldl (init := { s with requests := [] }) fun s c =>
    s.modCrane c fun k => { k with grant := (s.startSpan c).meet s.runSpan }

/-- RU's closure test at START, for every crane whose tong is CLOSED_LOADED (R79, R166): crane by crane in rising number, and
for each crane bay by bay (log entry 54). -/
def State.closureAtStart (s : State) : State :=
  (fittedCranes s).foldl (fun s c => s.closureTests c) s

/-- START: the first failing check is answered LAYOUT; else grants, mode RUN, closure test, DONE (R164, R166). -/
def State.startOrder (s : State) (o : Order) : State :=
  match s.startRefusal with
  | some a => s.reply o a
  | none => ((s.makeGrants.changeMode .run).closureAtStart).reply o .ok

/-- START (R164 to R167). -/
def execStart (s : State) : Host.Outcome State Fault Refusal :=
  handle (takeModeOrder Kind.start State.startOrder) s

/-! ## HALT_ALL, RESUME (R168, R169) -/

/-- The stop cause HALT_ALL and STOP NOW for a crane that is not in FAULT. -/
def State.haltCrane (s : State) (c : Nat) : State :=
  if (s.crane c).state = .fault then s else (s.sendStop c true).addCause c .haltAll

/-- HALT_ALL (R168), crane by crane in rising number (log entry 55). -/
def State.haltOrder (s : State) (o : Order) : State :=
  ((fittedCranes s).foldl State.haltCrane (s.changeMode .halted)).reply o .ok

/-- HALT_ALL (R168). -/
def execHaltAll (s : State) : Host.Outcome State Fault Refusal :=
  handle (takeModeOrder Kind.haltAll State.haltOrder) s

/-- RESUME: HALT_ALL leaves every set that holds it, in any crane state (R169), in rising crane number (log entry 55). -/
def State.resumeOrder (s : State) (o : Order) : State :=
  let r := (fittedCranes s).foldl (fun s c => s.removeCause c .haltAll) (s.changeMode .run)
  (s.afterCU r).reply o .ok

/-- RESUME (R169). -/
def execResume (s : State) : Host.Outcome State Fault Refusal :=
  handle (takeModeOrder Kind.resume State.resumeOrder) s

end Sys2Proof.Machine
end

