-- ==== Sys2Proof/Machine/StoreOrders.lean ====
section
/-! DEFINITION. SU's orders (R1 to R19, R24, R86). -/

namespace Sys2Proof.Machine

/-! ## SET_COLUMN, COLUMN_OUT, COLUMN_IN -/

/-- The slot indices of a column, in index order. -/
def columnSlots (c : Nat) : List Nat := (List.range 24).map fun p => 24 * c + p

/-- A slot after a SET_COLUMN: a new one is FREE, one that no longer exists is OFF, the rest keep their state (R1). -/
def remasked (mask : BitVec 12) (i : Nat) (v : Slot) : Slot :=
  if slotExists mask (slotPos i) then (if v.state = .off then { state := .free } else v) else {}

/-- The lowest HELD slot of a column that a mask would make OFF (R2). -/
def State.heldUnderMask (s : State) (c : Nat) (mask : BitVec 12) : Option Nat :=
  (columnSlots c).find? fun i => (s.slot i).state == .held && !slotExists mask (slotPos i)

/-- The coil id in a slot, 0 for none. -/
def State.slotCoilId (s : State) (i : Nat) : Nat := ((((s.slot i).coil).bind s.coil?).map Coil.id).getD 0

/-- SET_COLUMN with its fields in range: refused with COIL_STATE where a HELD slot would cease to exist, else the
column, the row table and the slots take their new values, and the column's counts are written in the directory in any case
(R1, R2). -/
def State.setColumnOrder (s : State) (o : Order) : State :=
  let b : Body := o.body
  let c := b.column
  let v := b.columnRecord
  match s.heldUnderMask c v.mask with
  | some i => s.reply o (.coilState (s.slotCoilId i))
  | none =>
    let s := s.setColumn c { v with out := (s.column c).out }
    let s := { s with rowY := b.rows }
    let s := (columnSlots c).foldl (init := s) fun s i => s.setSlot i (remasked v.mask i (s.slot i))
    (s.touch (Group.column c)).reply o .ok

/-- SET_COLUMN (R1, R2). -/
def execSetColumn (s : State) : Host.Outcome State Fault Refusal :=
  handle (takeOrder .su Kind.setColumn fun s o => s.checked o (Body.setColumnBad o.body) State.setColumnOrder) s

/-- COLUMN_OUT and COLUMN_IN: the flag of a configured column takes its new value (R4). -/
def State.columnFlagOrder (out : Bool) (s : State) (o : Order) : State :=
  let c := Body.column o.body
  if inRange 0 63 c && (s.column c).configured then
    (s.setColumn c { s.column c with out := out }).reply o .ok
  else s.reply o (.badField 1)

/-- COLUMN_OUT (R4). -/
def execColumnOut (s : State) : Host.Outcome State Fault Refusal :=
  handle (takeOrder .su Kind.columnOut (State.columnFlagOrder true)) s

/-- COLUMN_IN (R4). -/
def execColumnIn (s : State) : Host.Outcome State Fault Refusal :=
  handle (takeOrder .su Kind.columnIn (State.columnFlagOrder false)) s

/-! ## SET_STATION, SET_POLICY -/

/-- SET_STATION with its fields in range (R8). -/
def State.setStationOrder (s : State) (o : Order) : State :=
  let b : Body := o.body
  let n := b.station
  (s.setStation n { s.station n with configured := true, x := fieldNat b 2 2, y := fieldNat b 4 2 }).reply o .ok

/-- SET_STATION (R8). -/
def execSetStation (s : State) : Host.Outcome State Fault Refusal :=
  handle (takeOrder .su Kind.setStation fun s o => s.checked o (Body.setStationBad o.body) State.setStationOrder) s

/-- SET_POLICY with its fields in range: all seven values together (R24). -/
def State.setPolicyOrder (s : State) (o : Order) : State :=
  { s with policy := Body.policy o.body }.reply o .ok

/-- SET_POLICY (R24). -/
def execSetPolicy (s : State) : Host.Outcome State Fault Refusal :=
  handle (takeOrder .su Kind.setPolicy fun s o => s.checked o (Body.setPolicyBad o.body) State.setPolicyOrder) s

/-! ## PLACE_COIL, ANNOUNCE_COIL -/

/-- The DONE answer that carries a record number. -/
def recordAnswer (r : Nat) : Answer := { code := .done, area := leBytes 2 r }

/-- A new record under the lowest free number, its place taken up by it; or DUPLICATE_COIL or REGISTER_FULL (R13). -/
def State.registerCoil (s : State) (o : Order) (c : Coil) : State :=
  match s.recordOf c.id with
  | some r => s.reply o (.duplicateCoil c.id r)
  | none =>
    match s.coils.lowestFree Config.coilRecords 0 with
    | none => s.reply o { code := .registerFull }
    | some r =>
      let s := s.setCoil r c
      let s :=
        match c.place with
        | .slot i => s.setSlot i { state := .held, coil := some r }
        | .station n => s.setStation n { s.station n with state := .held, coil := some r }
        | _ => s
      s.reply o (recordAnswer r)

/-- What refuses a place to PLACE_COIL, by the columns of the table of R17. -/
def State.placeRefusal (s : State) (p : Place) : Option Answer :=
  match p with
  | .slot i =>
    if 1535 < i then some (.badField 7)
    else if (s.slot i).state = .off
        || (isUpper i && !((s.slot (leftSupport i)).state == .held && (s.slot (rightSupport i)).state == .held)) then
      some (.slotUnfit i)
    else if (s.slot i).state = .held then some (.placeTaken p)
    else none
  | .station n =>
    if 1 < n || !(s.station n).configured then some (.badField 7)
    else if (s.station n).state = .held then some (.placeTaken p)
    else none
  | .hook c =>
    if !s.fitted c then some (.badField 7) else if (s.recordAt p).isSome then some (.placeTaken p) else none
  | .bed _ _ => some (.badField 6)

/-- PLACE_COIL with its fields in range (R17). -/
def State.placeCoilOrder (s : State) (o : Order) : State :=
  let b : Body := o.body
  match b.placeNamed with
  | none => s.reply o (.badField 6)
  | some p =>
    match s.placeRefusal p with
    | some a => s.reply o a
    | none => s.registerCoil o (b.coilRecord 0 p)

/-- PLACE_COIL (R17). -/
def execPlaceCoil (s : State) : Host.Outcome State Fault Refusal :=
  handle (takeOrder .su Kind.placeCoil fun s o => s.checked o (Body.placeCoilBad o.body) State.placeCoilOrder) s

/-- ANNOUNCE_COIL with its fields in range: the four checks of R16. -/
def State.announceOrder (s : State) (o : Order) : State :=
  let b : Body := o.body
  let n := b.station
  if !(s.station n).configured then s.reply o (.badField 1)
  else if (s.station n).state ≠ .empty then s.reply o (.numbered .stationBusy n)
  else s.registerCoil o (b.coilRecord 4 (.station n))

/-- ANNOUNCE_COIL (R16). -/
def execAnnounceCoil (s : State) : Host.Outcome State Fault Refusal :=
  handle (takeOrder .su Kind.announceCoil fun s o => s.checked o (Body.announceBad o.body) State.announceOrder) s

/-! ## REMOVE_COIL, HOLD_COIL, QUERY_COIL -/

/-- The coil an order names, or UNKNOWN_COIL. -/
def State.withCoil (s : State) (o : Order) (f : Nat → Coil → State) : State :=
  let id := Body.coilId o.body
  match s.recordOf id with
  | none => s.reply o (.unknownCoil id)
  | some r =>
    match s.coil? r with
    | none => s.reply o (.unknownCoil id)
    | some c => f r c

/-- The coil lies at a station. -/
def Place.isStation : Place → Bool
  | .station _ => true
  | _ => false

/-- The coil lies on a bed. -/
def Place.isBed : Place → Bool
  | .bed _ _ => true
  | _ => false

/-- The cases in which REMOVE_COIL is refused (R18). -/
def State.removeForbidden (s : State) (c : Coil) : Bool :=
  c.move.isSome || c.outbound || c.place.isBed || s.coilBuried c
    || (s.inService && !c.place.isStation && !c.placeDoubt)

/-- The place of a removed record is given up (R18). -/
def State.giveUpPlace (s : State) (p : Place) : State :=
  match p with
  | .slot i => s.setSlot i { state := .free }
  | .station n => s.setStation n { s.station n with state := .empty, coil := none }
  | _ => s

/-- REMOVE_COIL (R18). -/
def State.removeOrder (s : State) (o : Order) : State :=
  s.withCoil o fun r c =>
    if s.removeForbidden c then s.reply o (.coilState c.id)
    else ((s.removeCoil r).giveUpPlace c.place).reply o .ok

/-- REMOVE_COIL (R18). -/
def execRemoveCoil (s : State) : Host.Outcome State Fault Refusal :=
  handle (takeOrder .su Kind.removeCoil State.removeOrder) s

/-- HOLD_COIL: a set is refused to a coil that carries OUTBOUND (R19). A value out of range is answered before the id is looked up
(log entry 69). -/
def State.holdOrder (s : State) (o : Order) : State :=
  let v := Body.holdValue o.body
  if 1 < v then s.reply o (.badField 2)
  else
    s.withCoil o fun r c =>
      if v = 1 ∧ c.outbound then s.reply o (.coilState c.id)
      else (s.setCoil r { c with qualityHold := v == 1 }).reply o .ok

/-- HOLD_COIL (R19). -/
def execHoldCoil (s : State) : Host.Outcome State Fault Refusal :=
  handle (takeOrder .su Kind.holdCoil State.holdOrder) s

/-- QUERY_COIL: the record number and the fields of the record as its image entry holds them (R19, 11.2). -/
def State.queryOrder (s : State) (o : Order) : State :=
  s.withCoil o fun r _ => s.reply o { code := .done, area := leBytes 2 r ++ coilImageBody s r }

/-- QUERY_COIL (R19). -/
def execQueryCoil (s : State) : Host.Outcome State Fault Refusal :=
  handle (takeOrder .su Kind.queryCoil State.queryOrder) s

/-! ## STORE_COIL, RELOCATE_COIL -/

/-- The place suits STORE_COIL (R86, step 4). -/
def State.storable (_s : State) (p : Place) : Bool := p.isStation

/-- The place suits RELOCATE_COIL (R86, step 4). -/
def State.relocatable (s : State) (p : Place) : Bool :=
  match p with
  | .station _ => false
  | .slot i => s.pickable i
  | .hook _ => true
  | .bed b _ => (s.bay b).state == .planHold || (s.bay b).state == .discrepant

/-- The answer of a choice that fails (R41). -/
def ChoiceFail.answer (target named : Option Nat) : ChoiceFail → Answer
  | .noCrane => .numbered .noCrane (named.getD absent8)
  | .noSlot => { code := .noSlot }
  | .slotUnfit => .slotUnfit (target.getD 0)

/-- The target and crane of a move order are settled (R86, step 6). -/
def State.choose (s : State) (r : Nat) (c : Coil) (target named : Option Nat) : Except ChoiceFail (Nat × Nat) :=
  let ch := s.choiceFor r c []
  match target with
  | some i => s.chooseNamed ch named i
  | none => s.chooseAuto ch named

/-- A move order whose coil may be moved: choice, creation, WORKING with phase QUEUED (R86 steps 6 and 7, R87). -/
def State.orderMove (s : State) (o : Order) (r : Nat) (c : Coil) : State :=
  let b : Body := o.body
  match s.choose r c b.target b.craneNamed with
  | .error e => s.reply o (e.answer b.target b.craneNamed)
  | .ok (i, k) =>
    match s.createMove (.cell o.cell o.take) o.tag r c (.slot i) b.target.isNone k with
    | none => s.reply o (.numbered .queueFull k)
    | some s' => s'.working o.cell o.take Phase.queued.code

/-- Steps 2 to 7 of R86; `suits` is the test of step 4. -/
def State.moveOrder (suits : State → Place → Bool) (s : State) (o : Order) : State :=
  s.withCoil o fun r c =>
    if c.move.isSome || !suits s c.place || (c.outbound && !c.place.isBed) then s.reply o (.coilState c.id)
    else s.orderMove o r c

/-- STORE_COIL (R86). -/
def execStoreCoil (s : State) : Host.Outcome State Fault Refusal :=
  handle
    (takeOrder .su Kind.storeCoil fun s o =>
      s.checked o (Body.moveOrderBad o.body) (State.moveOrder State.storable)) s

/-- RELOCATE_COIL (R86). -/
def execRelocateCoil (s : State) : Host.Outcome State Fault Refusal :=
  handle
    (takeOrder .su Kind.relocateCoil fun s o =>
      s.checked o (Body.moveOrderBad o.body) (State.moveOrder State.relocatable)) s

end Sys2Proof.Machine
end

