-- ==== Sys2Proof/Machine/Dispatch.lean ====
section
/-! DEFINITION. The meaning of every command: one arm per row of spec/opcode_table.json, in the table's order. -/

namespace Sys2Proof.Machine

/-- The effect of a command on everything but the queue of waiting commands. -/
def exec (i : Instr) (s : State) : Host.Outcome State Fault Refusal :=
  match i with
  | .setColumn => Sys2Proof.Machine.execSetColumn s
  | .setStation => Sys2Proof.Machine.execSetStation s
  | .placeCoil => Sys2Proof.Machine.execPlaceCoil s
  | .setPolicy => Sys2Proof.Machine.execSetPolicy s
  | .announceCoil => Sys2Proof.Machine.execAnnounceCoil s
  | .removeCoil => Sys2Proof.Machine.execRemoveCoil s
  | .holdCoil => Sys2Proof.Machine.execHoldCoil s
  | .queryCoil => Sys2Proof.Machine.execQueryCoil s
  | .columnOut => Sys2Proof.Machine.execColumnOut s
  | .columnIn => Sys2Proof.Machine.execColumnIn s
  | .storeCoil => Sys2Proof.Machine.execStoreCoil s
  | .relocateCoil => Sys2Proof.Machine.execRelocateCoil s
  | .setRunway => Sys2Proof.Machine.execSetRunway s
  | .setCrane => Sys2Proof.Machine.execSetCrane s
  | .abortMove => Sys2Proof.Machine.execAbortMove s
  | .craneOut => Sys2Proof.Machine.execCraneOut s
  | .craneIn => Sys2Proof.Machine.execCraneIn s
  | .setChannel => Sys2Proof.Machine.execSetChannel s
  | .zeroSet => Sys2Proof.Machine.execZeroSet s
  | .zeroRearm => Sys2Proof.Machine.execZeroRearm s
  | .setBay => Sys2Proof.Machine.execSetBay s
  | .truckArrive => Sys2Proof.Machine.execTruckArrive s
  | .loadPlan => Sys2Proof.Machine.execLoadPlan s
  | .truckRelease => Sys2Proof.Machine.execTruckRelease s
  | .truckCancel => Sys2Proof.Machine.execTruckCancel s
  | .start => Sys2Proof.Machine.execStart s
  | .haltAll => Sys2Proof.Machine.execHaltAll s
  | .resume => Sys2Proof.Machine.execResume s
  | .post value => Sys2Proof.Machine.execPost value s
  | .notice value => Sys2Proof.Machine.execNotice value s
  | .noticeOn value => Sys2Proof.Machine.execNoticeOn value s
  | .noticeOff value => Sys2Proof.Machine.execNoticeOff value s
  | .registerWriteIgnored burst write => Sys2Proof.Machine.execRegisterWriteIgnored burst write s
  | .powerOnReset straps => Sys2Proof.Machine.execPowerOnReset straps s
  | .partReset low straps => Sys2Proof.Machine.execPartReset low straps s
  | .clearingComplete => Sys2Proof.Machine.execClearingComplete s
  | .intake => Sys2Proof.Machine.execIntake s
  | .status crane report => Sys2Proof.Machine.execStatus crane report s
  | .tag crane report => Sys2Proof.Machine.execTag crane report s
  | .badTelegram crane => Sys2Proof.Machine.execBadTelegram crane s
  | .reportExpiry crane => Sys2Proof.Machine.execReportExpiry crane s
  | .sample bay report => Sys2Proof.Machine.execSample bay report s
  | .badSampleTelegram bay => Sys2Proof.Machine.execBadSampleTelegram bay s
  | .sampleExpiry channel => Sys2Proof.Machine.execSampleExpiry channel s
  | .areaChange bay low => Sys2Proof.Machine.execAreaChange bay low s
  | .sessionExpiry last => Sys2Proof.Machine.execSessionExpiry last s
  | .moveBegin crane => Sys2Proof.Machine.execMoveBegin crane s

end Sys2Proof.Machine
end

