-- ==== Sys2Proof/Machine/Wire.lean ====
section
/-! DEFINITION. The lines below the commands: how characters on a crane link or a scale line become commands, how step
telegrams go out character by character, and what a word on the register bus is (R42, R112, R171, R179, R201, R202, 11.6,
11.7). -/

namespace Sys2Proof.Machine

/-! ## Receiving (R42, R112, R202) -/

/-- A character as it arrives: its data bits, and whether its parity is right. -/
structure LineChar where
  data : Byte
  parityOk : Bool := true
  deriving DecidableEq, Repr

/-- The two sorts of line. -/
inductive LineSort where
  | craneLink | scaleLine
  deriving DecidableEq, Repr

/-- What a receiver finds. -/
inductive LineEvent where
  | bad
  | status (r : StatusReport)
  | tag (r : TagReport)
  | sample (r : SampleReport)
  deriving DecidableEq, Repr

/-- The body length laid down for a kind on a line; none where the kind is unknown there (R202). -/
def LineSort.bodyLength : LineSort → Byte → Option Nat
  | .craneLink, k => if k = 0x41 then some 16 else if k = 0x42 then some 6 else none
  | .scaleLine, k => if k = 0x51 then some 6 else none

/-- Two, three and four bytes as one little-endian field. -/
def word16 (a b : Byte) : BitVec 16 := b ++ a
def word24 (a b c : Byte) : BitVec 24 := c ++ (b ++ a)
def word32 (a b c d : Byte) : BitVec 32 := d ++ (c ++ (b ++ a))

/-- The report a body of the right length spells (11.7). -/
def eventOf (kind : Byte) (body : List Byte) : LineEvent :=
  match body with
  | [a0, a1, a2, a3, a4, a5, a6, a7, a8, a9, a10, a11, a12, a13, a14, a15] =>
    .status
      { doneSeq := a0, xEncoder := word16 a1 a2, xLaser := word16 a3 a4, y := word16 a5 a6, hook := word16 a7 a8
        tong := a9, speed := word16 a10 a11, load := word24 a12 a13 a14, faultCode := a15 }
  | [a0, a1, a2, a3, a4, a5] =>
    if kind = 0x51 then .sample { front := word24 a0 a1 a2, rear := word24 a3 a4 a5 }
    else .tag { seq := a0, present := a1, id := word32 a2 a3 a4 a5 }
  | _ => .bad

/-- What the characters of a telegram so far, start character aside, say: not whole yet (none), or an event (R42). -/
def judge (sort : LineSort) (address : Nat) (got : List Byte) : Option LineEvent :=
  match got with
  | [] => none
  | a :: rest =>
    if a ≠ byte address then some .bad
    else
      match rest with
      | [] => none
      | k :: rest =>
        match sort.bodyLength k with
        | none => some .bad
        | some n =>
          match rest with
          | [] => none
          | l :: body =>
            if l ≠ byte n then some .bad
            else if body.length ≤ n then none
            else if sum8 got = 0 then some (eventOf k (body.take n))
            else some .bad

/-- A receiver: outside a telegram (none), or the characters since the start character. -/
abbrev Receiver := Option (List Byte)

/-- One character at a receiver (R42). A bad telegram, like a whole one, ends the telegram. A start character outside a telegram
begins one if its parity is right (log entry 11). -/
def receive (sort : LineSort) (address : Nat) (rx : Receiver) (c : LineChar) : Receiver × Option LineEvent :=
  match rx with
  | none => (if c.data = startChar ∧ c.parityOk then some [] else none, none)
  | some got =>
    if !c.parityOk then (none, some .bad)
    else
      match judge sort address (got ++ [c.data]) with
      | some e => (none, some e)
      | none => (some (got ++ [c.data]), none)

/-- A run of characters: what it leaves in the receiver, and the events in order. -/
def receiveAll (sort : LineSort) (address : Nat) : Receiver → List LineChar → Receiver × List LineEvent
  | rx, [] => (rx, [])
  | rx, c :: rest =>
    let p := receive sort address rx c
    let q := receiveAll sort address p.1 rest
    (q.1, p.2.toList ++ q.2)

/-- The bytes of a STATUS body as a drive sends it (11.7). -/
def statusBody (r : StatusReport) : List Byte :=
  let low := fun {w : Nat} (v : BitVec w) (i : Nat) => v.extractLsb' (8 * i) 8
  [r.doneSeq, low r.xEncoder 0, low r.xEncoder 1, low r.xLaser 0, low r.xLaser 1, low r.y 0, low r.y 1,
    low r.hook 0, low r.hook 1, r.tong, low r.speed 0, low r.speed 1, low r.load 0, low r.load 1, low r.load 2,
    r.faultCode]

/-- The bytes of a TAG body. -/
def tagBody (r : TagReport) : List Byte :=
  r.seq :: r.present :: (List.range 4).map fun i => r.id.extractLsb' (8 * i) 8

/-- The bytes of a SAMPLE body. -/
def sampleBody (r : SampleReport) : List Byte :=
  (List.range 3).map (fun i => r.front.extractLsb' (8 * i) 8)
    ++ (List.range 3).map (fun i => r.rear.extractLsb' (8 * i) 8)

/-- The command an event on a crane's link is. -/
def LineEvent.onCraneLink (c : Fin 4) : LineEvent → Instr
  | .status r => .status c r
  | .tag r => .tag c r
  | _ => .badTelegram c

/-- The command an event on a bay's scale line is. -/
def LineEvent.onScaleLine (b : Fin 3) : LineEvent → Instr
  | .sample r => .sample b r
  | _ => .badSampleTelegram b

/-! ## The receivers and the senders (R42, R44, R112, R171) -/

/-- The line number of a bay's scale line; a crane link has its crane's number. -/
def scaleLine (b : Nat) : Nat := 4 + b

/-- A receiver takes a character; a telegram found waits as the command it is, behind those that wait already. -/
def State.lineTakes (s : State) (line : Nat) (sort : LineSort) (address : Nat) (command : LineEvent → Instr)
    (c : LineChar) : State :=
  let p := receive sort address (s.receiving.find line) c
  { s with
    receiving :=
      match p.1 with
      | some got => s.receiving.put line got
      | none => s.receiving.erase line
    pending := s.pending ++ (p.2.map command).toList }

/-- A character arrives on a crane's link; on that of a crane not fitted it is discarded without being judged (R42). -/
def State.craneCharacter (c : Fin 4) (ch : LineChar) (s : State) : State :=
  if s.fitted c.val then s.lineTakes c.val .craneLink c.val (LineEvent.onCraneLink c) ch else s

/-- A character arrives on a bay's scale line (R112). -/
def State.scaleCharacter (b : Fin 3) (ch : LineChar) (s : State) : State :=
  s.lineTakes (scaleLine b.val) .scaleLine b.val (LineEvent.onScaleLine b) ch

/-- The characters still to send once crane `c`'s link has sent the first of its own, if there is one. -/
def sendFirst (waiting : Tab (List Byte)) (c : Nat) : Tab (List Byte) :=
  match Tab.get [] waiting c with
  | [] => waiting
  | [_] => waiting.erase c
  | _ :: rest => waiting.put c rest

/-- Every crane link sends its next character (R44). -/
def State.transmit (s : State) : State := { s with outgoing := [0, 1, 2, 3].foldl sendFirst s.outgoing }

/-! ## The register bus (9.3, 11.6, R201) -/

/-- The command a 32-bit write into the register window is, `straps` being the pins' level: by offset IDENT, CONTROL, POST,
NOTICE, NOTICE_ON, NOTICE_OFF. -/
def busWrite (straps : Fin 4) (offset : Nat) (value : Word32) : Instr :=
  if offset = 0x00 then .registerWriteIgnored [] (.ident value)
  else if offset = 0x04 then
    if value.getLsbD 31 then .partReset (value.extractLsb' 0 31) straps
    else .registerWriteIgnored [] (.controlResetClear (value.extractLsb' 0 31))
  else if offset = 0x08 then .post value
  else if offset = 0x0C then .notice value
  else if offset = 0x10 then .noticeOn value
  else if offset = 0x14 then .noticeOff value
  else .registerWriteIgnored [] (.otherWidth offset 4 value.toNat)

/-- The command a write of another width is: it is not taken (9.3). -/
def busWriteNarrow (offset width value : Nat) : Instr := .registerWriteIgnored [] (.otherWidth offset width value)

end Sys2Proof.Machine
end

