-- ==== Sys2Proof/Machine/Step.lean ====
section
/-! DEFINITION. One step of the block: the command at the front of its queue, or its idle tick. -/

namespace Sys2Proof.Machine

/-- The idle tick: every crane link sends its next character, and while a reset's clearing runs one byte of exchange
memory is cleared (log entry 3). -/
def State.tick (s : State) : State :=
  let s := s.transmit
  if s.mode = .resetting ∧ s.clearedTo < Config.windowSize then s.clearByte else s

/-- Takes the command at the front of the queue and runs it with the queue's rest; an empty queue ticks. -/
def step (s : State) : Host.Outcome State Fault Refusal :=
  match s.pending with
  | [] => .next s.tick
  | c :: rest => exec c { s with pending := rest }

/-- The state with the command a table word spells put at the front of its queue; no word spells one. -/
def State.withFetchWord (s : State) (nbits w : Nat) : State :=
  match decodeTableWord nbits w with
  | some c => { s with pending := c :: s.pending }
  | none => s

end Sys2Proof.Machine
end

