-- ==== Sys2Proof/Safety.lean ====
section
/-! DEFINITION. The laws of the device that claims are stated with, and what it is for an order to be answered. -/

namespace Sys2Proof.Machine

/-! ## Laws every step is to keep -/

/-- Exchange memory is in its canonical form (R174). -/
def State.memoryLaw (s : State) : Bool := Memory.wf s.mem

/-- The post queue holds at most 8 descriptors, each naming cells of exchange memory (R181, R182). -/
def State.postLaw (s : State) : Bool :=
  decide (s.posts.length ≤ Config.postPlaces)
    && s.posts.all fun d => decide (1 ≤ d.count) && decide (d.first + d.count ≤ Config.cellCount)

/-- The holding queue keeps at most 32 entries (R193). -/
def State.holdingLaw (s : State) : Bool := decide (s.holding.length ≤ Config.holdingPlaces)

/-- The column, slot and coil tables list every number once, in rising order (R1, R13). -/
def State.tablesLaw (s : State) : Bool :=
  [s.columns.keys, s.slots.keys, s.coils.keys].all fun l => decide (l.Pairwise (· < ·))

/-- An order in an owner's inbound list is of a kind that owner handles and the mode allows (R162 to R164, R185). -/
def State.orderAllowed (s : State) (w : Owner) (o : Order) : Bool :=
  (kindRow o.kind).any fun r => r.owner == w && r.allowed s.mode

/-- Every order that waits to be taken up may be taken up in the mode as it stands (R163). -/
def State.waitingLaw (s : State) : Bool :=
  [Owner.su, .ru, .cu, .wu, .lu, .xp].all fun w => (s.inbound w).all (s.orderAllowed w)

/-- The grant of a fitted crane is a span of the usable runway (R63). -/
def State.grantInRunway (s : State) (c : Nat) : Bool :=
  let g := (s.crane c).grant
  decide ((s.runway.lo : Int) ≤ g.lo ∧ g.lo ≤ g.hi ∧ g.hi ≤ s.runway.hi)

/-- In RUN and HALTED the grants of adjacent fitted cranes i < j keep g_hi(i) + hw(i) + gap + hw(j) ≤ g_lo(j), each a
span of the usable runway (R63). -/
def State.grantLaw (s : State) : Bool :=
  !s.inService
    || ((fittedCranes s).all s.grantInRunway
      && (adjacentPairs s).all fun i =>
        decide ((s.crane i).grant.hi + (s.crane i).halfWidth + s.runway.gap + (s.crane (i + 1)).halfWidth
          ≤ (s.crane (i + 1)).grant.lo))

/-- The changes of mode of R161, by the command that makes them. -/
def modeChangeAllowed (c : Instr) (old new : Mode) : Bool :=
  new == old
    || match c with
      | .powerOnReset _ | .partReset _ _ => new == .resetting
      | .clearingComplete => old == .resetting && new == .setup
      | .start => old == .setup && new == .run
      | .haltAll => old == .run && new == .halted
      | .resume => old == .halted && new == .run
      | _ => false

/-! ## What claims about orders and memory are stated with -/

/-- The order `o` stands at the head of the inbound list of its owner `w`, `rest` behind it; it is of kind `k`; and its
cell is TAKEN or WORKING for its take (R177, R185). -/
structure TakenUp (s : State) (w : Owner) (k : Nat) (o : Order) (rest : List Order) : Prop where
  head : s.inbound w = o :: rest
  kind : o.kind = k
  cell : o.cell < Config.cellCount
  current : s.cellIsOf o.cell o.take = true

/-- The mode order `o` of kind `k` may be handled: every owner has taken up every order handed to it (R163). -/
structure ModeOrderDue (s : State) (k : Nat) (o : Order) : Prop where
  held : s.modeOrder = some o
  kind : o.kind = k
  owners : s.allTakenUp = true
  cell : o.cell < Config.cellCount
  current : s.cellIsOf o.cell o.take = true

/-- The records: the state without exchange memory, the kept editions, the notice flags and what is to be published. -/
def State.records (s : State) : State :=
  { s with mem := [], groupEditions := [], slotEditions := [], coilEditions := [], flags := 0, touched := {} }

/-- An offset in the published view of the records: the directory less the read count, and both images (R174, R197). -/
def publishedOffset (a : Nat) : Bool := (decide (a < 0x1000) && !decide (8 ≤ a ∧ a < 12)) || decide (0xD000 ≤ a)

/-- An offset of the journal ring (R174). -/
def journalByte (a : Nat) : Bool := decide (0x9000 ≤ a ∧ a < 0xD000)

/-- The bytes of cell `n` that an answer writes: state, answer code, answer area (R187). -/
def answerByte (n a : Nat) : Bool :=
  a == cellOffset n || a == cellOffset n + 2 || decide (cellOffset n + 128 ≤ a ∧ a < cellOffset n + 256)

/-- The bytes of cell `n` that WORKING and progress writes write (R186). -/
def workingByte (n a : Nat) : Bool := a == cellOffset n || a == cellOffset n + 3

/-- Every byte of exchange memory outside the published view and the bytes `w` names reads as before. -/
def OnlyWrites (s t : State) (w : Nat → Bool) : Prop :=
  ∀ a, publishedOffset a = false → w a = false → t.readByte a = s.readByte a

/-- Cell `n` shows an answer (R187). -/
structure ShowsAnswer (t : State) (n : Nat) (a : Answer) : Prop where
  area : t.readBytes (cellOffset n + 128) 128 = padTo 128 a.area
  code : t.readByte (cellOffset n + 2) = byte a.code.code
  state : t.readByte (cellOffset n) = 4

/-- The order's cell is answered, the ANSWER flag raised and no other flag touched, and no other byte written. -/
structure Answered (s t : State) (o : Order) (a : Answer) : Prop where
  shown : ShowsAnswer t o.cell a
  notice : t.flags = s.flags ||| Notice.answer.mask
  others : OnlyWrites s t (answerByte o.cell)

/-- The order's cell is WORKING with a progress value, no flag touched, and no other byte written. -/
structure Working (s t : State) (o : Order) (progress : Nat) : Prop where
  state : t.readByte (cellOffset o.cell) = 3
  progress : t.readByte (cellOffset o.cell + 3) = byte progress
  notice : t.flags = s.flags
  others : OnlyWrites s t (workingByte o.cell)

/-- The state an order leaves that its owner `w` takes from its list and answers with `a`, changing nothing but its own
cell (R184, R188). -/
def answeredAlone (s : State) (w : Owner) (rest : List Order) (o : Order) (a : Answer) : State :=
  ({ s.setInbound w rest with sent := [], touched := {} }.writeAnswer o.cell a).raise .answer

/-- One entry is written in the journal under the next sequence number, where the queue is empty and there is room (R192). -/
structure Journaled (s t : State) (e : JournalEntry) : Prop where
  count : t.writeCount = (s.writeCount + 1) % two32
  held : t.holding = []
  entry : t.readBytes (journalOffset s.writeCount) 32 = e.bytes ((s.writeCount + 1) % two32)

/-- The entries are written in the journal in order, the first under the next sequence number, and none is held (R192). -/
structure JournaledInOrder (s t : State) (es : List JournalEntry) : Prop where
  count : t.writeCount = (s.writeCount + es.length) % two32
  held : t.holding = []
  entries : ∀ i e, es[i]? = some e →
    t.readBytes (journalOffset (s.writeCount + i)) 32 = e.bytes ((s.writeCount + i + 1) % two32)

/-- The journal takes the next `n` entries at once: nothing is held, there is room for them, and the write count is a
32-bit count (R191, R193). -/
def State.journalTakes (s : State) (n : Nat) : Bool :=
  s.holding.isEmpty && decide (s.backlog + n ≤ Config.journalPlaces) && s.mode != .resetting
    && decide (s.writeCount < two32)

/-- A byte of the ring places the next `n` entries take (R191). -/
def State.journalPlace (s : State) (n a : Nat) : Bool :=
  (List.range n).any fun i =>
    decide (journalOffset (s.writeCount + i) ≤ a ∧ a < journalOffset (s.writeCount + i) + 32)

/-- A CRANE_STATE entry of a crane: the event, and detail bytes 13 and 14 (11.3). -/
def craneStateEntry (c event b13 b14 : Nat) : JournalEntry :=
  { kind := 4, subject := c, detail := [byte event, byte b13, byte b14] }

/-- No request waits in RU's list, no pair is stalled, and no crane yields or carries a DEFERRED move (R66, R71, R73). -/
def State.runwayQuiet (s : State) : Prop :=
  s.requests = [] ∧ s.stalled = [] ∧ ∀ c, (s.crane c).yield = none ∧ (s.crane c).deferral = none

/-- The post queue once intake goes on: a head descriptor whose last cell is dealt with has left it (R163, R182). -/
def postsGoingOn : List Descriptor → List Descriptor
  | d :: rest => if d.count ≤ d.dealt then rest else d :: rest
  | [] => []

/-- `w` is `n` ÷ `d` rounded half away from zero (spec 00, Arithmetic and rounding). -/
def RoundedHalfAway (n : Int) (d : Nat) (w : Int) : Prop :=
  (0 ≤ n → 2 * d * w ≤ 2 * n + d ∧ 2 * n + d < 2 * d * (w + 1)) ∧
  (n < 0 → 2 * d * -w ≤ 2 * -n + d ∧ 2 * -n + d < 2 * d * (-w + 1))

/-- The values every reset leaves, `straps` being the level of the strap pins (R23, R24, R56, R60, R61, R83, R85, R112,
R137, R171, R176, R182, R191, R193, R198). -/
structure ResetValues (straps : Nat) (t : State) : Prop where
  mode : t.mode = .resetting
  sampled : t.straps = straps
  notices : t.flags = 0 ∧ t.enables = 0 ∧ t.noticeLine = false
  posting : t.posts = [] ∧ t.takeCounter = 1 ∧ t.lastSkip = {} ∧ t.lastRefused = {}
  orders : ∀ w, t.inbound w = []
  journal : t.writeCount = 0 ∧ t.holding = []
  clearing : t.clearedTo = 0
  editions : t.groupEditions = [] ∧ t.slotEditions = [] ∧ t.coilEditions = []
  columns : ∀ c, t.column c = {}
  rows : t.rowY = List.replicate 12 0
  slots : ∀ i, (t.slot i).state = .off ∧ (t.slot i).coil = none ∧ (t.slot i).move = none
  stations : ∀ n, t.station n = { configured := false, x := 0, y := 0, state := .empty, coil := none, move := none }
  coils : t.coils = []
  policy : t.policy =
    { cradleTolerance := 100, pUp := 20, gMix := 15, gEmpty := 5, cZone := 40, weighMin := 20, weighPm := 15 }
  runway : t.runway =
    { configured := false, lo := 0, hi := 0, margin := 50, gap := 200, decel := 40, lockWindow := 30
      clearHeight := 900, bayMargin := 300 }
  requests : t.requests = [] ∧ t.stalled = []
  cranes : ∀ c, t.crane c = if c ≤ straps ∧ c < 4 then { state := .idle } else {}
  moves : t.moves = [] ∧ t.nextSeq = 1
  channels : ∀ k, t.channel k = {}
  bays : ∀ b, t.bay b = {}
  stops : t.sent = ((List.range 4).filter (· ≤ straps)).map fun c => (c, .stop 0 false)
  lines : t.receiving = [] ∧ ∀ c, t.outgoingTo c =
    if c ≤ straps ∧ c < 4 then (StepTelegram.stop 0 false).characters c else []

/-- Every telegram the command sent follows what its link had still to send (R44). -/
def Transmitted (s t : State) : Prop :=
  ∀ c, t.outgoingTo c = s.outgoingTo c ++ (t.sent.filter fun p => p.1 == c).flatMap fun p => p.2.characters c

/-- A crane's record with the values of a report handled whole, those out of range limited, the link UP (R45, R48, R202). -/
def Crane.took (k : Crane) (r : StatusReport) : Crane :=
  let e := min r.xEncoder.toNat 60000
  let x := min r.xLaser.toNat 60000
  let tong : Tong := if r.tong = 0 then .open_ else if r.tong = 1 then .closedEmpty else .closedLoaded
  { k with
    link := .up, badCount := 0, reported := true, doneSeq := r.doneSeq.toNat, xEncoder := e, xLaser := x
    y := min r.y.toNat 4000, hook := min r.hook.toNat 2000, tong := tong, speed := r.speed.toInt, load := r.load.toInt
    faultCode := r.faultCode.toNat, wholeEncoder := e, wholeLaser := x, wholeTong := tong }

/-- A channel after a sample that is not eligible: it has data, and in service its batch set is discarded (R113, R128). -/
def Channel.sampled (h : Channel) (serving : Bool) : Channel :=
  { h with
    data := true, expiryRunning := true, lastEligible := false
    batchSet := if serving = true ∧ h.configured = true ∧ h.fault = false then none else h.batchSet }

/-- A span of positions widened by the braking distance at a speed and the margin, with a grant, cut to the runway
(R64, R75). -/
def State.widened (s : State) (grant used : Span) (speed : Int) : Span :=
  let v := min speed.natAbs 400
  let b : Int := ((v * v + 2 * s.runway.decel - 1) / (2 * s.runway.decel) : Nat)
  { lo := max (min grant.lo (used.lo - b - s.runway.margin)) s.runway.lo
    hi := min (max grant.hi (used.hi + b + s.runway.margin)) s.runway.hi }

/-- The room left to crane `c` between its neighbours' grants contains a span (R62, R63). -/
def State.hasRoom (s : State) (c : Nat) (g : Span) : Prop :=
  let apart := fun i j : Nat => ((s.crane i).halfWidth : Int) + s.runway.gap + (s.crane j).halfWidth
  (0 < c → (s.crane (c - 1)).grant.hi + apart (c - 1) c ≤ g.lo) ∧
    (c + 1 ≤ s.straps → c + 1 < 4 → g.hi + apart c (c + 1) ≤ (s.crane (c + 1)).grant.lo)

/-- The number of a crane's next step telegram, the reported done sequence passed over (R43). -/
def Crane.numberAfter (k : Crane) (done : Nat) : Nat :=
  let n := (k.lastSeq + 1) % 256
  if n = done then (n + 1) % 256 else n

/-- A notice flag is set. -/
def State.raised (s : State) (n : Notice) : Bool := s.flags &&& n.mask != 0

end Sys2Proof.Machine
end

