-- ==== Sys2Proof/Certificates/Slice0/Obligations.lean ====
section
/-! DEFINITION. The statements about the WZ-4160 that the provers prove or refute. -/

open Sys2Proof Sys2Proof.Machine

/-! ## The machine and its host port -/

/-- A step runs the command at the front of the queue with the queue's rest. On an empty queue each crane link sends the
next character it has to send, a running reset clears its next byte, and nothing else happens: the model's choice, log
entry 3. -/
def Obligations.StepRunsTheFrontCommand : Prop :=
  (∀ (s : State) (c : Instr) (rest : List Instr), s.pending = c :: rest →
    step s = exec c { s with pending := rest }) ∧
  ∀ s : State, s.pending = [] →
    let clears := s.mode = .resetting ∧ s.clearedTo < 0x20000
    ∃ t, step s = .next t ∧ (∀ c < 4, t.outgoingTo c = (s.outgoingTo c).drop 1) ∧
      t = { s with
        outgoing := t.outgoing
        mem := if clears then s.mem.erase s.clearedTo else s.mem
        clearedTo := if clears then s.clearedTo + 1 else s.clearedTo }

/-- Both resets leave the values the chapters give, in any mode and whatever the state was; a telegram half received is
dropped and one half sent abandoned, the STOP RAMP of each fitted crane being all its link has to send. What waits outside
the block stays: the commands, the area inputs' levels, the count of free values. A part reset keeps exchange memory until the
clearing reaches it; after power-on it reads 0 (log entry 5). The state called State.reset is power-on with straps 0 (log entry 5).
The fields the chapters give no value for hold those of log entry 12: the model's choice. -/
def Obligations.ResetsLeaveTheResetValues : Prop :=
  ResetValues 0 State.reset ∧ State.reset.resetCause = .powerOn ∧
  (∀ (v : Fin 4) (s : State), ∃ t, exec (.powerOnReset v) s = .next t ∧ ResetValues v.val t ∧
    t.resetCause = .powerOn ∧ t.mem = [] ∧
    t.pending = s.pending ∧ t.areaLow = s.areaLow ∧ t.freeCount = s.freeCount) ∧
  ∀ (low : BitVec 31) (v : Fin 4) (s : State), ∃ t, exec (.partReset low v) s = .next t ∧ ResetValues v.val t ∧
    t.resetCause = .part ∧ t.mem = s.mem ∧
    t.pending = s.pending ∧ t.areaLow = s.areaLow ∧ t.freeCount = s.freeCount

/-- CLEARING_COMPLETE ends the reset: the window is clear from where the clearing stood, the directory shows mode,
cause and cranes, the mode is SETUP, the MODE notice is raised and the MODE entry is the first of the journal. What
software wrote behind the clearing stands; the read count is 0, as the clearing left it. -/
def Obligations.ClearingCompleteEntersSetup : Prop :=
  ∀ s : State, s.mode = .resetting → s.holding = [] → s.writeCount = 0 →
    (∀ a, 8 ≤ a → a < 12 → a < s.clearedTo → s.readByte a = 0) →
    ∃ t, exec .clearingComplete s = .next t ∧
      (∀ a, s.clearedTo ≤ a → 0x310 ≤ a → journalByte a = false → t.readByte a = 0) ∧
      (∀ a, a < s.clearedTo → 0x310 ≤ a → journalByte a = false → t.readByte a = s.readByte a) ∧
      t.readByte 1 = 1 ∧ t.readByte 2 = byte s.resetCause.code ∧ t.readByte 3 = byte (s.straps + 1) ∧
      t.readBytes 0x9000 32 = (modeEntry .setup .resetting s.resetCause.code).bytes 1 ∧
      t.raised .mode = true ∧ t.raised .entry = true ∧
      t.records = State.records
        { s with sent := [], mode := .setup, clearedTo := 0x20000, holding := [], writeCount := 1 }

/-- POST: refused for the first of RESETTING, COUNT, RANGE and QUEUE_FULL that applies, with POSTREF and a record of
the descriptor that the directory shows except in RESETTING; otherwise the descriptor joins the end of the queue. -/
def Obligations.PostIsTestedInOrder : Prop :=
  State.reset.lastRefused = { first := 0, count := 0, cause := 0 } ∧
  ∀ (s : State) (v : Word32),
    let first := v.toNat % 256
    let count := v.toNat / 256 % 256
    let cause :=
      if s.mode = .resetting then 1 else if count = 0 then 2 else if 128 < first + count then 3
      else if 8 ≤ s.posts.length then 4 else 0
    if cause = 0 then
      exec (.post v) s =
        .next { s with sent := [], touched := {}, posts := s.posts ++ [{ first := first, count := count }] }
    else
      ∃ t, exec (.post v) s = .next t ∧
        t.records = State.records
          { s with sent := [], lastRefused := { first := first, count := count, cause := cause } } ∧
        t.flags = s.flags ||| Notice.postref.mask ∧ OnlyWrites s t (fun _ => false) ∧
        (s.mode = .resetting → ∀ a, t.readByte a = s.readByte a) ∧
        (s.mode ≠ .resetting →
          t.readByte 0x24 = byte first ∧ t.readByte 0x25 = byte count ∧ t.readByte 0x26 = byte cause)

/-- The three notice registers: what a read returns and what a write clears or sets. A NOTICE write with the JFULL bit
also starts a flush attempt, which may raise ENTRY and JFULL again (JfullWriteFlushes). -/
def Obligations.NoticeRegistersClearAndSet : Prop :=
  (∀ (s : State) (v : Word32), ∃ t, exec (.notice v) s = .next t ∧
    (∀ i < 10, i ≠ 1 → i ≠ 2 → t.flags.getLsbD i = (s.flags.getLsbD i && !v.getLsbD i)) ∧
    (v.getLsbD 2 = false ∨ s.holding = [] →
      t = { s with sent := [], touched := {}, flags := s.flags &&& ~~~(v.extractLsb' 0 10) })) ∧
  (∀ (s : State) (v : Word32), exec (.noticeOn v) s =
    .next { s with sent := [], touched := {}, enables := s.enables ||| v.extractLsb' 0 10 }) ∧
  (∀ (s : State) (v : Word32), exec (.noticeOff v) s =
    .next { s with sent := [], touched := {}, enables := s.enables &&& ~~~(v.extractLsb' 0 10) }) ∧
  (∀ s : State, s.readRegister .notice = s.flags.zeroExtend 32 ∧ s.readRegister .noticeOn = s.enables.zeroExtend 32 ∧
    s.readRegister .noticeOff = 0) ∧
  (∀ s : State, s.noticeLine = true ↔ ∃ i < 10, s.flags.getLsbD i = true ∧ s.enables.getLsbD i = true) ∧
  State.reset.flags = 0 ∧ State.reset.enables = 0

/-- A NOTICE write with the JFULL bit while entries are held: without room they stay held and JFULL is raised again;
with room a lone held entry is written, and JFULL stays clear. -/
def Obligations.JfullWriteFlushes : Prop :=
  ∀ (s : State) (v : Word32) (e : JournalEntry) (rest : List JournalEntry),
    s.mode ≠ .resetting → v.getLsbD 2 = true → s.holding = e :: rest →
    (s.journalRoom = false → exec (.notice v) s = .next
      { s with
        sent := [], touched := {}
        flags := (s.flags &&& ~~~(v.extractLsb' 0 10)) ||| Notice.jfull.mask }) ∧
    (s.journalRoom = true → rest = [] →
      ∃ t, exec (.notice v) s = .next t ∧ Journaled s t e ∧ OnlyWrites s t (s.journalPlace 1) ∧
        t.flags = (s.flags &&& ~~~(v.extractLsb' 0 10)) ||| Notice.entry.mask ∧
        t.records = State.records { s with sent := [], holding := [], writeCount := (s.writeCount + 1) % 4294967296 })

/-- What a 32-bit read of IDENT, CONTROL and POST returns (the notice registers: NoticeRegistersClearAndSet). A write of IDENT
and one of CONTROL with RESET clear have no effect; one with RESET set is a part reset in any mode, whatever its other bits. -/
def Obligations.RegistersReadAndReset : Prop :=
  (∀ s : State, s.straps < 4 →
    let v := s.readRegister .ident
    v.extractLsb' 0 16 = 0x4160 ∧ v.extractLsb' 16 8 = 1 ∧ v.extractLsb' 24 8 = BitVec.ofNat 8 (s.straps + 1)) ∧
  (∀ s : State, s.readRegister .control = BitVec.ofNat 32
    (match s.mode with | .resetting => 0 | .setup => 1 | .run => 2 | .halted => 3)) ∧
  (∀ s : State, s.postLaw = true → (s.readRegister .post).toNat = s.posts.length ∧ s.posts.length ≤ 8) ∧
  (∀ (pins : Fin 4) (v : Word32) (s : State), exec (busWrite pins 0 v) s = .next { s with sent := [], touched := {} }) ∧
  ∀ (pins : Fin 4) (v : Word32) (s : State),
    (v.getLsbD 31 = false → exec (busWrite pins 4 v) s = .next { s with sent := [], touched := {} }) ∧
    (v.getLsbD 31 = true →
      exec (busWrite pins 4 v) s = exec (.partReset 0 pins) s ∧
        ∃ t, exec (busWrite pins 4 v) s = .next t ∧ t.mode = .resetting ∧ t.resetCause = .part ∧ t.straps = pins)

/-- A register write without effect changes nothing; the software writes made with it (log entry 2) change exactly the
bytes they name, one after the other, and one that leaves the window stops the block: it names bytes that do not exist. -/
def Obligations.BurstWritesExactlyItsBytes : Prop :=
  (∀ (s : State) (w : IgnoredWrite), exec (.registerWriteIgnored [] w) s = .next { s with sent := [], touched := {} }) ∧
  (∀ (s : State) (b : HostWrite) (w : IgnoredWrite), b.offset + b.bytes.length ≤ 0x20000 →
    ∃ t, exec (.registerWriteIgnored [b] w) s = .next t ∧
      t = { s with sent := [], touched := {}, mem := t.mem } ∧
      ∀ a, t.readByte a =
        if b.offset ≤ a ∧ a < b.offset + b.bytes.length then b.bytes.getD (a - b.offset) 0 else s.readByte a) ∧
  (∀ (s t : State) (b : HostWrite) (rest : List HostWrite) (w : IgnoredWrite),
    (∀ x ∈ b :: rest, x.offset + x.bytes.length ≤ 0x20000) → exec (.registerWriteIgnored [b] w) s = .next t →
    exec (.registerWriteIgnored (b :: rest) w) s = exec (.registerWriteIgnored rest w) t) ∧
  ∀ (s : State) (burst : List HostWrite) (w : IgnoredWrite), (∃ b ∈ burst, 0x20000 < b.offset + b.bytes.length) →
    exec (.registerWriteIgnored burst w) s = .fault .outsideWindow

/-! ## Intake -/

/-- Intake takes a FILLED cell whose kind the mode allows: TAKEN and the take number are written, nothing else; the copy
of the order joins the end of its owner's list, or is the mode order XP waits to handle, and then the head descriptor
keeps its place. -/
def Obligations.IntakeTakesAFilledCell : Prop :=
  ∀ (s : State) (d : Descriptor) (rest : List Descriptor) (r : KindRow),
    let n := d.first + d.dealt
    let o : Order :=
      { cell := n, take := s.takeCounter, kind := s.readNat (cellOffset n + 1) 1, tag := s.readNat (cellOffset n + 4) 2
        body := s.readBytes (cellOffset n + 16) 112 }
    s.mode ≠ .resetting → s.modeOrder = none → s.posts = d :: rest → n < 128 → s.readByte (cellOffset n) = 1 →
    kindRow o.kind = some r → r.allowed s.mode = true →
    ∃ t, exec .intake s = .next t ∧
      t.records = State.records
        { s.setInbound r.owner (s.inbound r.owner ++ [o]) with
          sent := []
          takeCounter := if s.takeCounter = 4294967295 then 1 else s.takeCounter + 1
          posts := if r.owner ≠ .xp ∧ d.count ≤ d.dealt + 1 then rest else { d with dealt := d.dealt + 1 } :: rest } ∧
      t.flags = s.flags ∧ t.readByte (cellOffset n) = 2 ∧ t.readBytes (cellOffset n + 8) 4 = leBytes 4 s.takeCounter ∧
      ∀ a, a ≠ cellOffset n → ¬ (cellOffset n + 8 ≤ a ∧ a < cellOffset n + 12) → t.readByte a = s.readByte a

/-- Intake skips a cell that is not FILLED: no write to it, the skip recorded and shown, POSTSKIP. A taken order of no kind
XP answers BAD_KIND, and one the mode does not allow WRONG_MODE with the mode; neither is handed on. -/
def Obligations.IntakeSkipsOrRefuses : Prop :=
  (∀ (s : State) (d : Descriptor) (rest : List Descriptor),
    let n := d.first + d.dealt
    s.mode ≠ .resetting → s.modeOrder = none → s.posts = d :: rest → n < 128 → s.readByte (cellOffset n) ≠ 1 →
    ∃ t, exec .intake s = .next t ∧
      t.records = State.records
        { s with
          sent := []
          posts := if d.count ≤ d.dealt + 1 then rest else { d with dealt := d.dealt + 1 } :: rest
          lastSkip := { cell := n, cause := 1, stateByte := (s.readByte (cellOffset n)).toNat } } ∧
      t.flags = s.flags ||| Notice.postskip.mask ∧ OnlyWrites s t (fun _ => false) ∧
      t.readByte 0x21 = byte n ∧ t.readByte 0x22 = 1 ∧ t.readByte 0x23 = s.readByte (cellOffset n)) ∧
  ∀ (s : State) (d : Descriptor) (rest : List Descriptor) (a : Answer),
    let n := d.first + d.dealt
    let kind := s.readNat (cellOffset n + 1) 1
    s.mode ≠ .resetting → s.modeOrder = none → s.posts = d :: rest → n < 128 → s.readByte (cellOffset n) = 1 →
    s.takeCounter < 4294967296 →
    (kindRow kind = none ∧ a = { code := .badKind } ∨
      ∃ r, kindRow kind = some r ∧ r.allowed s.mode = false ∧ a = { code := .wrongMode, area := [byte s.mode.code] }) →
    ∃ t, exec .intake s = .next t ∧
      t.records = State.records
        { s with
          sent := []
          takeCounter := if s.takeCounter = 4294967295 then 1 else s.takeCounter + 1
          posts := if d.count ≤ d.dealt + 1 then rest else { d with dealt := d.dealt + 1 } :: rest } ∧
      t.flags = s.flags ||| Notice.answer.mask ∧ ShowsAnswer t n a ∧
      t.readBytes (cellOffset n + 8) 4 = leBytes 4 s.takeCounter ∧
      ∀ b, answerByte n b = false → ¬ (cellOffset n + 8 ≤ b ∧ b < cellOffset n + 12) → t.readByte b = s.readByte b

/-- HOLD_COIL with value 0 whose cell is no longer TAKEN or WORKING for its take: the coil's flag is cleared all the same, the
answer is dropped, no byte of the cell is written, the skip is recorded as ANSWER_LOST with the state byte read, and POSTSKIP
is raised in place of ANSWER. -/
def Obligations.HoldCoilWorkStandsWithoutItsAnswer : Prop :=
  ∀ (s : State) (o : Order) (rest : List Order) (r : Nat) (c : Coil),
    s.inbound .su = o :: rest → o.kind = 0x16 → o.cell < 128 → s.cellIsOf o.cell o.take = false → s.mode ≠ .resetting →
    fieldNat o.body 4 1 = 0 → s.recordOf (fieldNat o.body 0 4) = some r → s.coil? r = some c →
    ∃ t, exec .holdCoil s = .next t ∧ t.coil? r = some { c with qualityHold := false } ∧
      (∀ q, q ≠ r → t.coil? q = s.coil? q) ∧
      t.records = State.records
        { s with
          sent := [], inboundSU := rest, coils := t.coils
          lastSkip := { cell := o.cell, cause := 2, stateByte := (s.readByte (cellOffset o.cell)).toNat } } ∧
      t.flags = s.flags ||| Notice.postskip.mask ∧ OnlyWrites s t (fun _ => false) ∧
      t.readByte 0x21 = byte o.cell ∧ t.readByte 0x22 = 2 ∧ t.readByte 0x23 = s.readByte (cellOffset o.cell)

/-! ## Orders refused with nothing but their own cell changed -/

/-- The first body field out of its range is answered BAD_FIELD with its number, counted from 1 in the order of the bodies,
and nothing else changes. A LOAD_PLAN entry's fields 3 and 4 are answered with the entry too. That PLACE_COIL tests its place
kind before the place is log entry 18, and that HOLD_COIL tests its value before the id is looked up log entry 69. -/
def Obligations.BadFieldChangesOnlyItsCell : Prop :=
  (∀ p ∈ ([
      (.setColumn, .su, 0x10, fun f _ =>
        [f 0 1 ≤ 63, f 2 2 ≤ 60000, True, 600 ≤ f 6 2 ∧ f 6 2 ≤ 2200, 800 ≤ f 8 2 ∧ f 8 2 ≤ 2500,
          1 ≤ f 10 2 ∧ f 10 2 ≤ 4500, 1 ≤ f 12 2 ∧ f 12 2 ≤ 4500]
        ++ (List.range 12).map fun r => f (14 + 2 * r) 2 ≤ 4000 ∧ (r = 0 ∨ f (12 + 2 * r) 2 < f (14 + 2 * r) 2)),
      (.setStation, .su, 0x11, fun f _ => [f 0 1 ≤ 1, f 2 2 ≤ 60000, f 4 2 ≤ 4000]),
      (.placeCoil, .su, 0x12, fun f _ =>
        [1 ≤ f 0 4, 1 ≤ f 4 2 ∧ f 4 2 ≤ 4500, 600 ≤ f 6 2 ∧ f 6 2 ≤ 2200, 800 ≤ f 8 2 ∧ f 8 2 ≤ 2500, True,
          1 ≤ f 11 1 ∧ f 11 1 ≤ 3]),
      (.setPolicy, .su, 0x13, fun f _ => [f 0 2 ≤ 500, True, True, True, True, f 6 2 ≤ 500, f 8 1 ≤ 100]),
      (.announceCoil, .su, 0x14, fun f _ =>
        [f 0 1 ≤ 1, 1 ≤ f 4 4, 1 ≤ f 8 2 ∧ f 8 2 ≤ 4500, 600 ≤ f 10 2 ∧ f 10 2 ≤ 2200,
          800 ≤ f 12 2 ∧ f 12 2 ≤ 2500, True]),
      (.holdCoil, .su, 0x16, fun f _ => [True, f 4 1 ≤ 1]),
      (.storeCoil, .su, 0x1A, fun f _ =>
        [1 ≤ f 0 4, f 4 2 ≤ 1535 ∨ f 4 2 = 0xFFFF, f 6 1 ≤ 3 ∨ f 6 1 = 0xFF]),
      (.relocateCoil, .su, 0x1B, fun f _ =>
        [1 ≤ f 0 4, f 4 2 ≤ 1535 ∨ f 4 2 = 0xFFFF, f 6 1 ≤ 3 ∨ f 6 1 = 0xFF]),
      (.setRunway, .ru, 0x20, fun f _ =>
        [f 0 2 ≤ 60000, f 2 2 ≤ 60000 ∧ f 0 2 < f 2 2, 10 ≤ f 4 2 ∧ f 4 2 ≤ 500, 100 ≤ f 6 2 ∧ f 6 2 ≤ 1000,
          10 ≤ f 8 2 ∧ f 8 2 ≤ 200, 5 ≤ f 10 2 ∧ f 10 2 ≤ 200, 100 ≤ f 12 2 ∧ f 12 2 ≤ 2000, f 14 2 ≤ 1000]),
      (.abortMove, .cu, 0x30, fun f _ => [True, f 2 1 ≤ 31, 1 ≤ f 3 1 ∧ f 3 1 ≤ 3]),
      (.craneOut, .cu, 0x31, fun f _ => [f 0 1 ≤ 3]), (.craneIn, .cu, 0x32, fun f _ => [f 0 1 ≤ 3]),
      (.zeroSet, .wu, 0x41, fun f _ => [f 0 1 ≤ 9]), (.zeroRearm, .wu, 0x42, fun f _ => [f 0 1 ≤ 9]),
      (.setBay, .lu, 0x50, fun f _ =>
        [f 0 1 ≤ 2, f 2 2 ≤ 60000, f 4 2 ≤ 60000 ∧ f 2 2 < f 4 2, f 2 2 ≤ f 6 2 ∧ f 6 2 ≤ f 4 2, f 8 2 ≤ 4000,
          f 10 2 ≤ 500, f 12 2 ≤ 100]),
      (.truckArrive, .lu, 0x51, fun f _ =>
        [f 0 1 ≤ 2, True, 300 ≤ f 8 2 ∧ f 8 2 ≤ 1400, 1 ≤ f 10 2 ∧ f 10 2 ≤ 6000, 1 ≤ f 12 2 ∧ f 12 2 ≤ 6000,
          1 ≤ f 14 2 ∧ f 14 2 ≤ 12000]),
      (.loadPlan, .lu, 0x52, fun f _ => [f 0 1 ≤ 2]), (.truckRelease, .lu, 0x53, fun f _ => [f 0 1 ≤ 2]),
      (.truckCancel, .lu, 0x54, fun f _ => [f 0 1 ≤ 2]),
      (.setCrane, .ru, 0x21, fun f c =>
        [f 0 1 ≤ 3, 3 < f 0 1 ∨ c < f 0 1 ∨ f 2 2 ≤ 60000, 3 < f 0 1 ∨ c < f 0 1 ∨ f 4 2 ≤ 60000,
          3 < f 0 1 ∨ c < f 0 1 ∨ 300 ≤ f 6 2 ∧ f 6 2 ≤ 1500])]
      : List (Instr × Owner × Nat × ((Nat → Nat → Nat) → Nat → List Prop))),
    ∀ (s : State) (o : Order) (rest : List Order) (n : Nat), TakenUp s p.2.1 p.2.2.1 o rest →
      let checks := p.2.2.2 (fieldNat o.body) s.straps
      (∀ i < n, ∀ q, checks[i]? = some q → q) → (∃ q, checks[n]? = some q ∧ ¬q) →
      exec p.1 s = .next (answeredAlone s p.2.1 rest o { code := .badField, area := [byte (n + 1), 0] })) ∧
  (∀ (s : State) (o : Order) (rest : List Order) (n : Nat), TakenUp s .wu 0x40 o rest →
    let f := fieldNat o.body
    let p := fun i => fieldInt o.body (14 + 2 * i) 2
    let checks : List Prop :=
      [f 0 1 ≤ 9 ∧ (f 0 1 ≤ s.straps ∨ 4 ≤ f 0 1), 8000 ≤ f 2 2 ∧ f 2 2 ≤ 60000 ∧ f 2 2 % 8 = 0,
        -8000000 ≤ fieldInt o.body 4 4 ∧ fieldInt o.body 4 4 ≤ 8000000, 1 ≤ f 8 4 ∧ f 8 4 ≤ 8000000,
        1 ≤ f 12 2 ∧ f 12 2 ≤ 60000]
      ++ (List.range 9).map (fun i => -500 ≤ p i ∧ p i ≤ 500)
      ++ [f 32 2 = 0 ∨ 5 ≤ f 32 2 ∧ f 32 2 ≤ 500, f 34 1 = 0 ∨ 3 ≤ f 34 1 ∧ f 34 1 ≤ 20, f 35 1 ≤ 31,
        f 36 2 = 0 ∨ 5 ≤ f 36 2 ∧ f 36 2 ≤ 200, f 38 1 ≤ 4, f 39 1 ≤ 1]
    (∀ i < n, ∀ q, checks[i]? = some q → q) → (∃ q, checks[n]? = some q ∧ ¬q) →
    exec .setChannel s = .next (answeredAlone s .wu rest o { code := .badField, area := [byte (n + 1), 0] })) ∧
  ∀ (s : State) (o : Order) (rest : List Order) (b : Nat), TakenUp s .lu 0x52 o rest → fieldNat o.body 0 1 = b → b ≤ 2 →
    (s.bay b).state = .arrived → (s.bay b).plan = [] →
    let count := fieldNat o.body 1 1
    let id := fun k => fieldNat o.body (8 + 8 * k) 4
    let position := fun k => fieldNat o.body (12 + 8 * k) 2
    let bad := fun k =>
      if id k = 0 ∨ ∃ j ∈ List.range k, id j = id k then 3
      else if (s.bay b).spacing < position k ∨
          ∃ j ∈ List.range k, position j < position k + 120 ∧ position k < position j + 120 then 4
      else 0
    (count = 0 ∨ 6 < count →
      exec .loadPlan s = .next (answeredAlone s .lu rest o { code := .badField, area := [2, 0] })) ∧
    ∀ k, k < count → count ≤ 6 → (∀ j < k, bad j = 0) → bad k ≠ 0 →
      exec .loadPlan s = .next (answeredAlone s .lu rest o { code := .badField, area := [byte (bad k), byte k] })

/-- An order for a coil whose id is not in the id map is answered UNKNOWN_COIL with the id, and nothing else changes. That an
id of 0 in REMOVE_COIL, HOLD_COIL and QUERY_COIL is such an id, and no field out of range, is the model's reading, log entry
18. -/
def Obligations.UnknownCoilChangesOnlyItsCell : Prop :=
  ∀ p ∈ ([(.removeCoil, 0x15), (.holdCoil, 0x16), (.queryCoil, 0x17), (.storeCoil, 0x1A), (.relocateCoil, 0x1B)]
      : List (Instr × Nat)),
    ∀ (s : State) (o : Order) (rest : List Order), TakenUp s .su p.2 o rest →
      (p.1 = .holdCoil → fieldNat o.body 4 1 ≤ 1) →
      (p.1 = .storeCoil ∨ p.1 = .relocateCoil → 1 ≤ fieldNat o.body 0 4 ∧
        (fieldNat o.body 4 2 ≤ 1535 ∨ fieldNat o.body 4 2 = 0xFFFF) ∧
        (fieldNat o.body 6 1 ≤ 3 ∨ fieldNat o.body 6 1 = 0xFF)) →
      s.recordOf (fieldNat o.body 0 4) = none →
      exec p.1 s = .next (answeredAlone s .su rest o
        { code := .unknownCoil, area := leBytes 4 (fieldNat o.body 0 4) ++ [0xFF] })

/-! ## The store -/

/-- SET_COLUMN with every field in range. Where no HELD slot is lost, the column (its OUT flag kept), the row table of the
whole store and the slots of the column follow the order, and the column's counts are written in the directory, whether or not they changed; where the mask would make a HELD slot OFF, the answer is COIL_STATE
with the id of the coil in the lowest such slot, and nothing but the cell changes. -/
def Obligations.SetColumnFollowsTheOrder : Prop :=
  ∀ (s : State) (o : Order) (rest : List Order) (c : Nat) (mask : BitVec 12),
    TakenUp s .su 0x10 o rest → fieldNat o.body 0 1 = c → c ≤ 63 → fieldNat o.body 2 2 ≤ 60000 →
    mask = BitVec.ofNat 12 (fieldNat o.body 4 2) →
    600 ≤ fieldNat o.body 6 2 → fieldNat o.body 6 2 ≤ 2200 → 800 ≤ fieldNat o.body 8 2 → fieldNat o.body 8 2 ≤ 2500 →
    1 ≤ fieldNat o.body 10 2 → fieldNat o.body 10 2 ≤ 4500 → 1 ≤ fieldNat o.body 12 2 → fieldNat o.body 12 2 ≤ 4500 →
    (∀ r < 12, fieldNat o.body (14 + 2 * r) 2 ≤ 4000) →
    (∀ r < 11, fieldNat o.body (14 + 2 * r) 2 < fieldNat o.body (14 + 2 * (r + 1)) 2) →
    ((∀ p < 24, (s.slot (24 * c + p)).state = .held → slotExists mask p = true) →
      ∃ t, exec .setColumn s = .next t ∧
        t.column c =
          { configured := true, x := fieldNat o.body 2 2, mask := mask, maxWidth := fieldNat o.body 6 2
            maxDiameter := fieldNat o.body 8 2, lowerLimit := fieldNat o.body 10 2, upperLimit := fieldNat o.body 12 2
            out := (s.column c).out } ∧
        (∀ d, d ≠ c → t.column d = s.column d) ∧
        t.rowY = (List.range 12).map (fun r => fieldNat o.body (14 + 2 * r) 2) ∧
        (∀ i, t.slot i =
          if i / 24 = c then
            if slotExists mask (i % 24) = true then
              if (s.slot i).state = .off then { state := .free } else s.slot i
            else { state := .off }
          else s.slot i) ∧
        t.records = State.records
          { s with sent := [], inboundSU := rest, columns := t.columns, rowY := t.rowY, slots := t.slots } ∧
        Answered s t o { code := .done } ∧
        (s.mode ≠ .resetting → s.tablesLaw = true →
          let e := Tab.get 0 s.groupEditions (20 + c) + 1
          Tab.get 0 t.groupEditions (20 + c) = e ∧
            t.readBytes (0x200 + 4 * c) 4 = e :: groupBody t (20 + c) ++ [e])) ∧
    ∀ (p r : Nat) (k : Coil), p < 24 → (s.slot (24 * c + p)).state = .held → slotExists mask p = false →
      (∀ q < p, (s.slot (24 * c + q)).state = .held → slotExists mask q = true) →
      (s.slot (24 * c + p)).coil = some r → s.coil? r = some k →
      exec .setColumn s = .next (answeredAlone s .su rest o { code := .coilState, area := leBytes 4 k.id ++ [0xFF] })

/-- SET_STATION in range: x and y take the values, the station is configured, its state and coil stay. SET_POLICY and
SET_RUNWAY in range: all their values are taken together. Nothing else changes. -/
def Obligations.StationPolicyAndRunwayTakeTheirValues : Prop :=
  (∀ (s : State) (o : Order) (rest : List Order) (n : Nat),
    TakenUp s .su 0x11 o rest → fieldNat o.body 0 1 = n → n ≤ 1 → fieldNat o.body 2 2 ≤ 60000 →
    fieldNat o.body 4 2 ≤ 4000 →
    ∃ t, exec .setStation s = .next t ∧
      t.station n =
        { s.station n with configured := true, x := fieldNat o.body 2 2, y := fieldNat o.body 4 2 } ∧
      (∀ m, m ≠ n → t.station m = s.station m) ∧
      t.records = State.records { s with sent := [], inboundSU := rest, stations := t.stations } ∧
      Answered s t o { code := .done }) ∧
  (∀ (s : State) (o : Order) (rest : List Order), TakenUp s .su 0x13 o rest →
    fieldNat o.body 0 2 ≤ 500 → fieldNat o.body 6 2 ≤ 500 → fieldNat o.body 8 1 ≤ 100 →
    ∃ t, exec .setPolicy s = .next t ∧
      t.records = State.records
        { s with
          sent := [], inboundSU := rest
          policy :=
            { cradleTolerance := fieldNat o.body 0 2, pUp := fieldNat o.body 2 1, gMix := fieldNat o.body 3 1
              gEmpty := fieldNat o.body 4 1, cZone := fieldNat o.body 5 1, weighMin := fieldNat o.body 6 2
              weighPm := fieldNat o.body 8 1 } } ∧
      Answered s t o { code := .done }) ∧
  ∀ (s : State) (o : Order) (rest : List Order), TakenUp s .ru 0x20 o rest →
    fieldNat o.body 0 2 < fieldNat o.body 2 2 → fieldNat o.body 2 2 ≤ 60000 →
    10 ≤ fieldNat o.body 4 2 → fieldNat o.body 4 2 ≤ 500 → 100 ≤ fieldNat o.body 6 2 → fieldNat o.body 6 2 ≤ 1000 →
    10 ≤ fieldNat o.body 8 2 → fieldNat o.body 8 2 ≤ 200 → 5 ≤ fieldNat o.body 10 2 → fieldNat o.body 10 2 ≤ 200 →
    100 ≤ fieldNat o.body 12 2 → fieldNat o.body 12 2 ≤ 2000 → fieldNat o.body 14 2 ≤ 1000 →
    ∃ t, exec .setRunway s = .next t ∧
      t.records = State.records
        { s with
          sent := [], inboundRU := rest
          runway :=
            { configured := true, lo := fieldNat o.body 0 2, hi := fieldNat o.body 2 2, margin := fieldNat o.body 4 2
              gap := fieldNat o.body 6 2, decel := fieldNat o.body 8 2, lockWindow := fieldNat o.body 10 2
              clearHeight := fieldNat o.body 12 2, bayMargin := fieldNat o.body 14 2 } } ∧
      Answered s t o { code := .done }

/-- PLACE_COIL of a new coil on a free place: the lowest free record, unweighed and unflagged; the slot or station HELD
by it; a hook named by it alone. -/
def Obligations.PlaceCoilRecordsACoil : Prop :=
  ∀ (s : State) (o : Order) (rest : List Order) (p : Place) (r : Nat),
    TakenUp s .su 0x12 o rest → 1 ≤ fieldNat o.body 0 4 →
    1 ≤ fieldNat o.body 4 2 → fieldNat o.body 4 2 ≤ 4500 → 600 ≤ fieldNat o.body 6 2 → fieldNat o.body 6 2 ≤ 2200 →
    800 ≤ fieldNat o.body 8 2 → fieldNat o.body 8 2 ≤ 2500 →
    p.kindCode = fieldNat o.body 11 1 → p.valueCode = fieldNat o.body 12 2 →
    (match p with
      | .slot i =>
        i ≤ 1535 ∧ (s.slot i).state ≠ .off ∧ (s.slot i).state ≠ .held ∧
          (12 ≤ i % 24 → i % 24 < 23 → (s.slot (i - 12)).state = .held ∧ (s.slot (i - 11)).state = .held)
      | .station n => n ≤ 1 ∧ (s.station n).configured = true ∧ (s.station n).state ≠ .held
      | .hook c => s.fitted c = true ∧ s.recordAt (.hook c) = none
      | .bed _ _ => False) →
    s.recordOf (fieldNat o.body 0 4) = none → r < 2048 → s.coil? r = none → (∀ q < r, (s.coil? q).isSome = true) →
    ∃ t, exec .placeCoil s = .next t ∧
      t.coil? r = some
        { id := fieldNat o.body 0 4, declared := fieldNat o.body 4 2, measured := none, status := .unweighed
          width := fieldNat o.body 6 2, diameter := fieldNat o.body 8 2, group := fieldNat o.body 10 1, place := p
          qualityHold := false, outbound := false, placeDoubt := false, move := none } ∧
      (∀ q, q ≠ r → t.coil? q = s.coil? q) ∧
      (∀ i, t.slot i = if p = .slot i then { state := .held, coil := some r } else s.slot i) ∧
      (∀ n, t.station n = if p = .station n then { s.station n with state := .held, coil := some r } else s.station n) ∧
      t.records = State.records
        { s with sent := [], inboundSU := rest, coils := t.coils, slots := t.slots, stations := t.stations } ∧
      Answered s t o { code := .done, area := leBytes 2 r }

/-- ANNOUNCE_COIL of a new coil on a configured EMPTY station: the lowest free record, and the station HELD by it. -/
def Obligations.AnnounceCoilRecordsACoil : Prop :=
  ∀ (s : State) (o : Order) (rest : List Order) (n r : Nat),
    TakenUp s .su 0x14 o rest → fieldNat o.body 0 1 = n → n ≤ 1 → 1 ≤ fieldNat o.body 4 4 →
    1 ≤ fieldNat o.body 8 2 → fieldNat o.body 8 2 ≤ 4500 → 600 ≤ fieldNat o.body 10 2 → fieldNat o.body 10 2 ≤ 2200 →
    800 ≤ fieldNat o.body 12 2 → fieldNat o.body 12 2 ≤ 2500 →
    (s.station n).configured = true → (s.station n).state = .empty →
    s.recordOf (fieldNat o.body 4 4) = none → r < 2048 → s.coil? r = none → (∀ q < r, (s.coil? q).isSome = true) →
    ∃ t, exec .announceCoil s = .next t ∧
      t.coil? r = some
        { id := fieldNat o.body 4 4, declared := fieldNat o.body 8 2, measured := none, status := .unweighed
          width := fieldNat o.body 10 2, diameter := fieldNat o.body 12 2, group := fieldNat o.body 14 1
          place := .station n, qualityHold := false, outbound := false, placeDoubt := false, move := none } ∧
      (∀ q, q ≠ r → t.coil? q = s.coil? q) ∧
      t.station n = { s.station n with state := .held, coil := some r } ∧
      (∀ m, m ≠ n → t.station m = s.station m) ∧
      t.records = State.records { s with sent := [], inboundSU := rest, coils := t.coils, stations := t.stations } ∧
      Answered s t o { code := .done, area := leBytes 2 r }

/-- REMOVE_COIL of a coil that nothing protects: its record is gone and its place given up. -/
def Obligations.RemoveCoilGivesUpItsPlace : Prop :=
  ∀ (s : State) (o : Order) (rest : List Order) (r : Nat) (c : Coil),
    TakenUp s .su 0x15 o rest → s.recordOf (fieldNat o.body 0 4) = some r → s.coil? r = some c →
    c.move = none → c.outbound = false → (∀ b e, c.place ≠ .bed b e) →
    (∀ i, c.place = .slot i → i % 24 < 12 → ∀ u ∈ uppersOver i, (s.slot u).state = .off ∨ (s.slot u).state = .free) →
    (s.mode = .run ∨ s.mode = .halted → (∃ n, c.place = .station n) ∨ c.placeDoubt = true) →
    ∃ t, exec .removeCoil s = .next t ∧ t.coil? r = none ∧ (∀ q, q ≠ r → t.coil? q = s.coil? q) ∧
      (∀ i, t.slot i = if c.place = .slot i then { state := .free } else s.slot i) ∧
      (∀ n, t.station n = if c.place = .station n then { s.station n with state := .empty, coil := none } else s.station n) ∧
      t.records = State.records
        { s with sent := [], inboundSU := rest, coils := t.coils, slots := t.slots, stations := t.stations } ∧
      Answered s t o { code := .done }

/-- HOLD_COIL: the flag takes the value, but a set is answered COIL_STATE for a coil that carries OUTBOUND. -/
def Obligations.HoldCoilSetsAndClears : Prop :=
  ∀ (s : State) (o : Order) (rest : List Order) (r : Nat) (c : Coil),
    TakenUp s .su 0x16 o rest → s.recordOf (fieldNat o.body 0 4) = some r → s.coil? r = some c →
    fieldNat o.body 4 1 ≤ 1 →
    if fieldNat o.body 4 1 = 1 ∧ c.outbound = true then
      exec .holdCoil s = .next (answeredAlone s .su rest o { code := .coilState, area := leBytes 4 c.id ++ [0xFF] })
    else
      ∃ t, exec .holdCoil s = .next t ∧ t.coil? r = some { c with qualityHold := fieldNat o.body 4 1 == 1 } ∧
        (∀ q, q ≠ r → t.coil? q = s.coil? q) ∧
        t.records = State.records { s with sent := [], inboundSU := rest, coils := t.coils } ∧
        Answered s t o { code := .done }

/-- QUERY_COIL answers the record number and every field of the record, and changes nothing but its cell. -/
def Obligations.QueryCoilShowsTheRecord : Prop :=
  ∀ (s : State) (o : Order) (rest : List Order) (r : Nat) (c : Coil),
    TakenUp s .su 0x17 o rest → s.recordOf (fieldNat o.body 0 4) = some r → s.coil? r = some c →
    exec .queryCoil s = .next (answeredAlone s .su rest o
      { code := .done
        area := leBytes 2 r
          ++ [byte c.status.code,
            byte (c.qualityHold.toNat + 2 * c.outbound.toNat + 4 * c.placeDoubt.toNat), byte c.place.kindCode]
          ++ leBytes 2 c.place.valueCode ++ leBytes 2 c.declared ++ leBytes 2 (c.measured.getD 0xFFFF)
          ++ leBytes 2 c.width ++ leBytes 2 c.diameter ++ [byte c.group, byte (c.move.getD 0xFF)] ++ leBytes 4 c.id
          ++ zeros 11 })

/-- COLUMN_OUT sets and COLUMN_IN clears the OUT flag of a configured column; any other column is BAD_FIELD on field 1. -/
def Obligations.ColumnFlagFollowsTheOrder : Prop :=
  ∀ (out : Bool) (s : State) (o : Order) (rest : List Order),
    let cmd : Instr := if out then .columnOut else .columnIn
    let c := fieldNat o.body 0 1
    TakenUp s .su (if out then 0x18 else 0x19) o rest →
    if c ≤ 63 ∧ (s.column c).configured = true then
      ∃ t, exec cmd s = .next t ∧ t.column c = { s.column c with out := out } ∧
        (∀ d, d ≠ c → t.column d = s.column d) ∧
        t.records = State.records { s with sent := [], inboundSU := rest, columns := t.columns } ∧
        Answered s t o { code := .done }
    else exec cmd s = .next (answeredAlone s .su rest o { code := .badField, area := [1, 0] })

/-- STORE_COIL and RELOCATE_COIL whose coil may be moved and for which Slotting finds a slot and a crane with room
(ChoicesTakeTheBestSlot says which): the move is created QUEUED, its source LEAVING, its target TARGETED, and the cell is WORKING. -/
def Obligations.MoveOrderCreatesAMove : Prop :=
  ∀ (store : Bool) (s : State) (o : Order) (rest : List Order) (r i k m : Nat) (c : Coil),
    TakenUp s .su (if store then 0x1A else 0x1B) o rest → 1 ≤ fieldNat o.body 0 4 →
    (fieldNat o.body 4 2 ≤ 1535 ∨ fieldNat o.body 4 2 = 0xFFFF) → (fieldNat o.body 6 1 ≤ 3 ∨ fieldNat o.body 6 1 = 0xFF) →
    s.recordOf (fieldNat o.body 0 4) = some r → s.coil? r = some c → c.move = none →
    (if store = true then ∃ n, c.place = .station n
      else match c.place with
        | .station _ => False
        | .slot j => s.pickable j = true
        | .hook _ => True
        | .bed b _ => (s.bay b).state = .planHold ∨ (s.bay b).state = .discrepant) →
    (c.outbound = false ∨ ∃ b e, c.place = .bed b e) →
    s.choose r c (if fieldNat o.body 4 2 = 0xFFFF then none else some (fieldNat o.body 4 2))
      (if fieldNat o.body 6 1 = 0xFF then none else some (fieldNat o.body 6 1)) = .ok (i, k) →
    (s.crane k).queue.length < 8 → m < 32 → s.move? m = none → (∀ q < m, (s.move? q).isSome = true) →
    ∃ t, exec (if store then .storeCoil else .relocateCoil) s = .next t ∧
      t.move? m = some
        { seq := s.nextSeq, origin := .cell o.cell o.take, tag := o.tag, coil := r, source := c.place, dest := .slot i
          auto := fieldNat o.body 4 2 == 0xFFFF, crane := k, phase := .queued, sourceX := s.placeX c.place
          sourceY := s.placeY c.place, destX := s.slotX i, destY := s.slotY i } ∧
      (∀ q, q ≠ m → t.move? q = s.move? q) ∧
      t.nextSeq = (if s.nextSeq = 4294967295 then 1 else s.nextSeq + 1) ∧
      t.crane k = { s.crane k with
        queue := match c.place with
          | .hook _ =>
            if (s.currentMove k).isSome then (s.crane k).queue.take 1 ++ m :: (s.crane k).queue.drop 1
            else m :: (s.crane k).queue
          | _ => (s.crane k).queue ++ [m] } ∧
      (∀ j, j ≠ k → t.crane j = s.crane j) ∧
      (∀ q, t.slot q =
        if q = i then { state := .targeted, coil := some r, move := some m }
        else if c.place = .slot q then { s.slot q with state := .leaving, move := some m } else s.slot q) ∧
      (∀ n, t.station n =
        if c.place = .station n then { s.station n with state := .leaving, move := some m } else s.station n) ∧
      (∀ b e v, c.place = .bed b e → s.entry? b e = some v →
        t.entry? b e = some { v with bed := .leaving } ∧ (∀ f, f ≠ e → t.entry? b f = s.entry? b f) ∧
          t.bay b = { s.bay b with plan := (t.bay b).plan } ∧ ∀ d, d ≠ b → t.bay d = s.bay d) ∧
      ((∀ b e, c.place ≠ .bed b e) → t.bays = s.bays) ∧
      t.coil? r = some { c with move := some m } ∧ (∀ q, q ≠ r → t.coil? q = s.coil? q) ∧
      t.records = State.records
        { s with
          sent := [], inboundSU := rest, moves := t.moves, nextSeq := t.nextSeq, cranes := t.cranes, slots := t.slots
          stations := t.stations, bays := t.bays, coils := t.coils } ∧
      Working s t o 1

/-- The cradle rules: when a lower slot and when an upper slot may be targeted; a slot that fails them is no candidate of
an AUTO choice, and one that software names is no choice. A STORE_COIL or RELOCATE_COIL whose coil may be moved and whose
choice fails (here and in ChoicesTakeTheBestSlot) is answered SLOT_UNFIT with the slot it names, NO_CRANE with the crane it
names (0xFF for AUTO) or NO_SLOT, and nothing but its cell changes. -/
def Obligations.CradleRulesDecideTargets : Prop :=
  (∀ (s : State) (c : Coil) (i : Nat), i % 24 < 12 →
    let col := s.column (i / 24)
    (s.slotFits c (c.measured.getD c.declared) i = true ↔
      (s.slot i).state = .free ∧ col.out = false ∧ c.width ≤ col.maxWidth ∧ c.diameter ≤ col.maxDiameter ∧
        c.measured.getD c.declared ≤ col.lowerLimit)) ∧
  (∀ (s : State) (c : Coil) (i : Nat), 12 ≤ i % 24 → i % 24 < 23 →
    let col := s.column (i / 24)
    (s.slotFits c (c.measured.getD c.declared) i = true ↔
      (s.slot i).state = .free ∧ col.out = false ∧ c.measured.getD c.declared ≤ col.upperLimit ∧
        ∃ l r cl cr, s.slot (i - 12) = l ∧ s.slot (i - 11) = r ∧ l.state = .held ∧ r.state = .held ∧
          l.coil.bind s.coil? = some cl ∧ r.coil.bind s.coil? = some cr ∧
          cl.diameter ≤ cr.diameter + s.policy.cradleTolerance ∧ cr.diameter ≤ cl.diameter + s.policy.cradleTolerance ∧
          c.width ≤ cl.width ∧ c.width ≤ cr.width ∧ cl.outbound = false ∧ cr.outbound = false)) ∧
  (∀ (s : State) (r : Nat) (c : Coil) (ex : List Nat) (k i : Nat),
    s.slotFits c (c.measured.getD c.declared) i = false → s.candidate (s.choiceFor r c ex) k i = false) ∧
  (∀ (s : State) (r : Nat) (c : Coil) (i : Nat) (named : Option Nat),
    s.slotFits c (c.measured.getD c.declared) i = false →
    s.choose r c (some i) named = .error .slotUnfit ∧
      ChoiceFail.answer (some i) named .slotUnfit = { code := .slotUnfit, area := leBytes 2 i }) ∧
  ∀ (store : Bool) (s : State) (o : Order) (rest : List Order) (r : Nat) (c : Coil) (e : ChoiceFail),
    let slot := fieldNat o.body 4 2
    let crane := fieldNat o.body 6 1
    TakenUp s .su (if store then 0x1A else 0x1B) o rest → 1 ≤ fieldNat o.body 0 4 → slot ≤ 1535 ∨ slot = 0xFFFF →
    crane ≤ 3 ∨ crane = 0xFF → s.recordOf (fieldNat o.body 0 4) = some r → s.coil? r = some c → c.move = none →
    (if store = true then ∃ n, c.place = .station n
      else match c.place with
        | .station _ => False
        | .slot j => s.pickable j = true
        | .hook _ => True
        | .bed b _ => (s.bay b).state = .planHold ∨ (s.bay b).state = .discrepant) →
    (c.outbound = false ∨ ∃ b e, c.place = .bed b e) →
    s.choose r c (if slot = 0xFFFF then none else some slot) (if crane = 0xFF then none else some crane) = .error e →
    exec (if store then .storeCoil else .relocateCoil) s = .next (answeredAlone s .su rest o
      (match e with
        | .slotUnfit => { code := .slotUnfit, area := leBytes 2 slot }
        | .noCrane => { code := .noCrane, area := [byte crane] }
        | .noSlot => { code := .noSlot }))

/-- What a choice answers. The cranes that may carry: fitted, neither OUT nor FAULT, serving the source, the one software names
and the one that holds the coil. With AUTO target the first of them by load, then by number, that has a candidate takes its
candidate of the lowest score, and of the lowest index between equal scores; NO_CRANE where none may carry, NO_SLOT where none
has a candidate. A named slot that may be the target goes to the first of them that serves it, or ends in NO_CRANE. -/
def Obligations.ChoicesTakeTheBestSlot : Prop :=
  ∀ (s : State) (r : Nat) (c : Coil) (named : Option Nat), s.tablesLaw = true →
    let source := s.placeX c.place
    let serves := fun x k : Nat => (s.crane k).svcLo ≤ x ∧ x ≤ (s.crane k).svcHi
    let may := fun k : Nat => k ≤ s.straps ∧ k < 4 ∧ (s.crane k).state ≠ .out ∧ (s.crane k).state ≠ .fault ∧
      serves source k ∧ (named = none ∨ named = some k) ∧ ∀ q, c.place = .hook q → q = k
    let before := fun j k : Nat => (s.crane j).queue.length < (s.crane k).queue.length ∨
      (s.crane j).queue.length = (s.crane k).queue.length ∧ j < k
    let target := fun i : Nat => s.slotFits c (c.measured.getD c.declared) i = true ∧
      ∀ q, c.place = .slot q → q % 24 < 12 → ¬(1 ≤ q % 24 ∧ i = q + 11 ∨ q % 24 ≤ 10 ∧ i = q + 12)
    let x := fun i : Nat => (s.column (i / 24)).x
    let candidate := fun k i : Nat => target i ∧ serves (x i) k
    let group := fun col : Nat =>
      if ∃ p ∈ List.range 24, c.place ≠ .slot (24 * col + p) ∧ (s.slot (24 * col + p)).state = .held ∧
          ((s.slot (24 * col + p)).coil.bind s.coil?).map Coil.group = some c.group then 0
      else if ∃ p ∈ List.range 24, c.place ≠ .slot (24 * col + p) ∧
          ((s.slot (24 * col + p)).state = .held ∨ (s.slot (24 * col + p)).state = .leaving) then s.policy.gMix
      else s.policy.gEmpty
    let crowd := fun k i : Nat =>
      if ∃ j ∈ List.range 4, j ≤ s.straps ∧ j ≠ k ∧ (s.crane j).grant.lo ≤ x i ∧ x i ≤ (s.crane j).grant.hi then s.policy.cZone
      else 0
    let score := fun k i : Nat => ((x i : Int) - source).natAbs / 100 + (if i % 24 < 12 then 0 else s.policy.pUp) +
      group (i / 24) + crowd k i
    ((∀ k, ¬may k) → s.choose r c none named = .error .noCrane) ∧
    ((∃ k, may k) → (∀ k i, may k → ¬candidate k i) → s.choose r c none named = .error .noSlot) ∧
    (∀ k i, may k → (∀ j, may j → before j k → ∀ q, ¬candidate j q) → candidate k i →
      (∀ q, candidate k q → score k i < score k q ∨ score k i = score k q ∧ i ≤ q) →
      s.choose r c none named = .ok (i, k)) ∧
    ∀ i, target i →
      ((∀ k, may k → ¬serves (x i) k) → s.choose r c (some i) named = .error .noCrane) ∧
      ∀ k, may k → serves (x i) k → (∀ j, may j → serves (x i) j → ¬before j k) →
        s.choose r c (some i) named = .ok (i, k)

/-! ## Runway and crane orders -/

/-- SET_CRANE: a crane not fitted is answered CRANE_STATE; a fitted one takes the three values and is configured. -/
def Obligations.SetCraneConfiguresTheCrane : Prop :=
  ∀ (s : State) (o : Order) (rest : List Order) (c : Nat),
    TakenUp s .ru 0x21 o rest → fieldNat o.body 0 1 = c → c ≤ 3 →
    (s.straps < c → exec .setCrane s = .next (answeredAlone s .ru rest o
      { code := .craneState, area := [byte c, byte (s.crane c).state.code] })) ∧
    (c ≤ s.straps → fieldNat o.body 2 2 ≤ 60000 → fieldNat o.body 4 2 ≤ 60000 →
      300 ≤ fieldNat o.body 6 2 → fieldNat o.body 6 2 ≤ 1500 →
      ∃ t, exec .setCrane s = .next t ∧
        t.crane c =
          { s.crane c with
            configured := true, svcLo := fieldNat o.body 2 2, svcHi := fieldNat o.body 4 2
            halfWidth := fieldNat o.body 6 2 } ∧
        (∀ j, j ≠ c → t.crane j = s.crane j) ∧
        t.records = State.records { s with sent := [], inboundRU := rest, cranes := t.cranes } ∧
        Answered s t o { code := .done })

/-- ABORT_MOVE by move number. AT_SAFE during the pick is recorded, the move going on, and the cell is WORKING with the
move's phase. QUIET on a QUEUED move between two slots ends it: the move is gone from the list and the queue, the coil
HELD again at its source, the target FREE, the move's cell ABORTED with the phase, the abort's cell DONE, no MOVE_END. That its crane's state stays as it
is, whatever it is, is the model's reading, log entry 43; that an order is handled when its command comes is log entry 13. -/
def Obligations.AbortRecordsOrEnds : Prop :=
  ∀ (s : State) (o : Order) (rest : List Order) (m : Nat) (v : Move),
    TakenUp s .cu 0x30 o rest → fieldNat o.body 0 2 = 0 → fieldNat o.body 2 1 = m → m ≤ 31 →
    s.move? m = some v → v.abort = none → v.withdrawal = none → s.runwayQuiet →
    (fieldNat o.body 3 1 = 2 → v.phase = .pickLower ∨ v.phase = .pickGrip ∨ v.phase = .pickVerify →
      ∃ t, exec .abortMove s = .next t ∧
        t.move? m = some { v with abort := some { kind := .atSafe, cell := o.cell, take := o.take } } ∧
        (∀ q, q ≠ m → t.move? q = s.move? q) ∧
        t.records = State.records { s with sent := [], inboundCU := rest, moves := t.moves } ∧
        Working s t o v.phase.code) ∧
    ∀ (i j n take : Nat) (c : Coil), fieldNat o.body 3 1 = 3 → v.phase = .queued → v.wasDeferred = false →
      v.origin = .cell n take → n < 128 → n ≠ o.cell → s.cellIsOf n take = true →
      v.source = .slot i → v.dest = .slot j → s.coil? v.coil = some c →
      s.slot i = { state := .leaving, coil := some v.coil, move := some m } →
      s.slot j = { state := .targeted, coil := some v.coil, move := some m } →
      (∀ b < 3, (s.bay b).plan = []) →
      ∃ t, exec .abortMove s = .next t ∧ t.move? m = none ∧ (∀ q, q ≠ m → t.move? q = s.move? q) ∧
        t.crane v.crane = { s.crane v.crane with queue := (s.crane v.crane).queue.filter (· != m) } ∧
        (∀ k, k ≠ v.crane → t.crane k = s.crane k) ∧
        (∀ q, t.slot q =
          if q = i then { state := .held, coil := some v.coil } else if q = j then { state := .free } else s.slot q) ∧
        t.coil? v.coil = some { c with place := .slot i, move := none } ∧
        (∀ r, r ≠ v.coil → t.coil? r = s.coil? r) ∧
        t.records = State.records
          { s with
            sent := [], inboundCU := rest, moves := t.moves, cranes := t.cranes, slots := t.slots, coils := t.coils } ∧
        ShowsAnswer t n { code := .aborted, area := [1] } ∧ ShowsAnswer t o.cell { code := .done } ∧
        t.flags = s.flags ||| Notice.answer.mask ∧
        OnlyWrites s t (fun a => answerByte n a || answerByte o.cell a || workingByte o.cell a)

/-- CRANE_OUT: an IDLE crane, or one STOPPED with resume state IDLE, with an empty queue becomes OUT, keeping its causes
and its grant. CRANE_IN: an OUT crane whose link is UP and lock LOCKED returns, in HALTED with the cause HALT_ALL: IDLE when
it holds no cause, else STOPPED with resume state IDLE. Any other crane is answered CRANE_STATE with its state. -/
def Obligations.CranesLeaveAndReturn : Prop :=
  (∀ (s : State) (o : Order) (rest : List Order) (c : Nat),
    TakenUp s .cu 0x31 o rest → fieldNat o.body 0 1 = c → c ≤ 3 →
    let k := s.crane c
    let may := c ≤ s.straps ∧ (k.state = .idle ∨ k.state = .stopped ∧ k.resume = .idle) ∧ k.queue = []
    (¬may → exec .craneOut s = .next (answeredAlone s .cu rest o
      { code := .craneState, area := [byte c, byte k.state.code] })) ∧
    (may → (s.channel c).zeroSet = none → s.journalTakes 1 = true →
      ∃ t, exec .craneOut s = .next t ∧ t.crane c = { k with state := .out } ∧
        (∀ j, j ≠ c → t.crane j = s.crane j) ∧
        t.records = State.records
          { s with sent := [], inboundCU := rest, cranes := t.cranes, writeCount := t.writeCount } ∧
        JournaledInOrder s t [craneStateEntry c 9 0 0] ∧ ShowsAnswer t o.cell { code := .done } ∧
        t.flags = s.flags ||| Notice.crane.mask ||| Notice.entry.mask ||| Notice.answer.mask ∧
        OnlyWrites s t (fun a => answerByte o.cell a || s.journalPlace 1 a))) ∧
  ∀ (s : State) (o : Order) (rest : List Order) (c : Nat),
    TakenUp s .cu 0x32 o rest → fieldNat o.body 0 1 = c → c ≤ 3 →
    let k := s.crane c
    let may := c ≤ s.straps ∧ k.state = .out ∧ k.link = .up ∧ k.lock = .locked
    let causes : Causes := if s.mode = .halted then { k.causes with haltAll := true } else k.causes
    let entries :=
      (if s.mode = .halted ∧ k.causes.haltAll = false then [craneStateEntry c 7 1 0] else []) ++ [craneStateEntry c 10 0 0]
    (¬may → exec .craneIn s = .next (answeredAlone s .cu rest o
      { code := .craneState, area := [byte c, byte k.state.code] })) ∧
    (may → s.mode = .run ∨ s.mode = .halted → s.runwayQuiet → s.journalTakes 2 = true →
      ∃ t, exec .craneIn s = .next t ∧
        t.crane c =
          (if causes = {} then { k with state := .idle }
          else { k with causes := causes, resume := .idle, state := .stopped }) ∧
        (∀ j, j ≠ c → t.crane j = s.crane j) ∧
        t.records = State.records
          { s with sent := [], inboundCU := rest, cranes := t.cranes, writeCount := t.writeCount } ∧
        JournaledInOrder s t entries ∧ ShowsAnswer t o.cell { code := .done } ∧
        t.flags = s.flags ||| Notice.crane.mask ||| Notice.entry.mask ||| Notice.answer.mask ∧
        OnlyWrites s t (fun a => answerByte o.cell a || s.journalPlace 2 a))

/-! ## Crane links -/

/-- A STATUS of a fitted crane with its lock LOCKED and the two positions within the lock window, no step in progress and
nothing it could fault, overrun, narrow or weigh: CU takes its values, out-of-range ones limited, and shows them; the hook
channel has data. -/
def Obligations.StatusStoresItsValues : Prop :=
  ∀ (c : Fin 4) (r : StatusReport) (s : State),
    let k := s.crane c
    let h := s.channel c
    let x := min r.xLaser.toNat 60000
    let e := min r.xEncoder.toNat 60000
    let hook := min r.hook.toNat 2000
    let tong : Tong := if r.tong = 0 then .open_ else if r.tong = 1 then .closedEmpty else .closedLoaded
    let serving := s.mode = .run ∨ s.mode = .halted
    c.val ≤ s.straps → k.link ≠ .lost → k.lock = .locked → x ≤ e + s.runway.lockWindow →
    e ≤ x + s.runway.lockWindow → k.step = none → h.session = none → h.zeroSet = none →
    (s.mode = .setup ∨
      serving ∧ k.state ≠ .fault ∧ r.faultCode = 0 ∧ k.grant.lo ≤ x + s.runway.lockWindow ∧
        (x : Int) ≤ k.grant.hi + s.runway.lockWindow ∧ k.leg = none ∧ k.narrowDue = false ∧
        (∀ b < 3, c.val ∉ (s.bay b).breach) ∧ (tong = .closedLoaded → k.wholeTong = .closedLoaded) ∧
        ¬(k.state = .idle ∧ tong = .open_ ∧ s.runway.clearHeight ≤ hook)) →
    ∃ t, exec (.status c r) s = .next t ∧
      t.crane c =
        { k with
          link := .up, badCount := 0, missCount := 0, reported := true, doneSeq := r.doneSeq.toNat
          xEncoder := e, xLaser := x, y := min r.y.toNat 4000, hook := hook, tong := tong, speed := r.speed.toInt
          load := r.load.toInt, faultCode := r.faultCode.toNat, wholeEncoder := e, wholeLaser := x, wholeTong := tong } ∧
      (∀ j, j ≠ c.val → t.crane j = s.crane j) ∧
      t.channel c =
        { h with
          data := true, expiryRunning := true, lastEligible := false
          batchSet := if serving ∧ h.configured = true ∧ h.fault = false then none else h.batchSet } ∧
      (∀ q, q ≠ c.val → t.channel q = s.channel q) ∧
      t.records = State.records { s with sent := [], cranes := t.cranes, channels := t.channels } ∧
      t.flags = s.flags ∧ OnlyWrites s t (fun _ => false) ∧
      t.readBytes (0x41 + 32 * c.val) 30 = groupBody t (3 + c.val)

/-- A STATUS whose done sequence is the number of the step in progress completes it, and the move goes on: from PICK_LOWER
with GRIP, from PICK_GRIP with TAGREAD where the tong is loaded, from PICK_VERIFY with HOIST where the coil's own tag was read,
from SET_LOWER with RELEASE, and from LEG1 and LEG2 with LOWER to the seat height, the leg being over and the grant of the
standing crane narrowed to its margin. The next step goes out under the next number and the move's cell shows the phase. Here a
BUSY crane that works over no bed, its move without an abort. -/
def Obligations.StatusCompletesAStep : Prop :=
  ∀ (c : Fin 4) (r : StatusReport) (s : State) (m n take : Nat) (rest : List Nat) (v : Move) (coil : Coil) (st : Step)
      (phase : Phase) (kind : StepKind),
    let k := s.crane c
    let h := s.channel c
    let u := k.took r
    let x : Int := u.xLaser
    let near : Span := { lo := x - s.runway.margin, hi := x + s.runway.margin }
    let onLeg := v.phase = .leg1 ∨ v.phase = .leg2
    let number := k.numberAfter u.doneSeq
    s.mode = .run ∨ s.mode = .halted → c.val ≤ s.straps → k.link ≠ .lost → k.lock = .locked →
    u.xLaser ≤ u.xEncoder + s.runway.lockWindow → u.xEncoder ≤ u.xLaser + s.runway.lockWindow → k.state = .busy →
    u.faultCode = 0 → k.grant.lo ≤ x + s.runway.lockWindow → x ≤ k.grant.hi + s.runway.lockWindow →
    k.heldWide = false → s.runwayQuiet → (∀ b < 3, c.val ∉ (s.bay b).breach) → s.closedBays = [] → h.session = none →
    h.zeroSet = none → k.queue = m :: rest → s.move? m = some v → v.crane = c.val → v.withdrawal = none →
    v.abort = none → v.origin = .cell n take → n < 128 → s.cellIsOf n take = true →
    (∀ b e, v.source ≠ .bed b e ∧ v.dest ≠ .bed b e) → s.coil? v.coil = some coil → k.step = some st →
    st.seq = u.doneSeq →
    (v.phase = .pickLower ∧ phase = .pickGrip ∧ kind = .grip ∨
      v.phase = .pickGrip ∧ u.tong = .closedLoaded ∧ phase = .pickVerify ∧ kind = .tagread ∨
      v.phase = .pickVerify ∧ k.tagRead = some (some coil.id) ∧ phase = .pickHoist ∧
        kind = .hoist s.runway.clearHeight ∨
      v.phase = .setLower ∧ phase = .setRelease ∧ kind = .release ∨
      v.phase = .leg1 ∧ phase = .pickLower ∧ kind = .lower (s.seatHeight coil v.source) ∨
      v.phase = .leg2 ∧ phase = .setLower ∧ kind = .lower (s.seatHeight coil v.dest)) →
    (onLeg → (∃ l, k.leg = some l ∧ l.kind = .move) ∧ u.speed = 0 ∧ s.runway.lo ≤ near.lo ∧ near.hi ≤ s.runway.hi ∧
      s.hasRoom c near) →
    (¬onLeg → k.leg = none ∧ k.narrowDue = false) →
    ∃ t, exec (.status c r) s = .next t ∧
      t.crane c =
        { u with
          missCount := 0, step := some { seq := number, kind := kind }, lastSeq := number, givenUp := .no
          waiting := none, tagRead := if kind = .tagread then none else k.tagRead, leg := none, narrowDue := false
          grant := if onLeg then near else k.grant } ∧
      (∀ j, j ≠ c.val → t.crane j = s.crane j) ∧
      t.move? m = some { v with phase := phase, attempts := if phase = .pickVerify then 0 else v.attempts } ∧
      (∀ q, q ≠ m → t.move? q = s.move? q) ∧
      t.coil? v.coil = some (if phase = .pickHoist then { coil with placeDoubt := false } else coil) ∧
      (∀ q, q ≠ v.coil → t.coil? q = s.coil? q) ∧
      t.channel c = h.sampled true ∧ (∀ q, q ≠ c.val → t.channel q = s.channel q) ∧
      t.sent = [(c.val, match kind with
        | .goto tx ty => .goto number tx ty 0 0
        | .lower height => .lower number height
        | .grip => .grip number
        | .tagread => .tagread number
        | .hoist height => .hoist number height
        | .release => .release number)] ∧
      Transmitted s t ∧
      t.records = State.records
        { s with
          sent := t.sent, outgoing := t.outgoing, cranes := t.cranes, moves := t.moves, coils := t.coils
          channels := t.channels } ∧
      t.flags = s.flags ∧ t.readByte (cellOffset n + 3) = byte phase.code ∧
      OnlyWrites s t (fun a => a == cellOffset n + 3) ∧ t.readBytes (0x41 + 32 * c.val) 30 = groupBody t (3 + c.val)

/-- Position lock judges every STATUS by the distance of the two positions. LOCKED: three misses in a row lose it; LOST: eight
hits in a row regain it; each is journaled, with the distance at the loss. In SETUP nothing else happens. In RUN and HALTED the
loss stops an IDLE crane with STOP NOW and the cause LOCK_LOST, its grant widened over both positions, here without clipping,
and held; the regain ends the hold with the grant at the margin around the laser position and removes the cause. -/
def Obligations.StatusLosesAndRegainsLock : Prop :=
  ∀ (c : Fin 4) (r : StatusReport) (s : State),
    let k := s.crane c
    let h := s.channel c
    let u := k.took r
    let d := (u.xLaser - u.xEncoder) + (u.xEncoder - u.xLaser)
    let x : Int := u.xLaser
    let near : Span := { lo := x - s.runway.margin, hi := x + s.runway.margin }
    let want := s.widened k.grant { lo := min u.xEncoder u.xLaser, hi := max u.xEncoder u.xLaser } u.speed
    let lostEntry : JournalEntry := { kind := 4, subject := c, detail := [3, 0, 0, 0] ++ leBytes 2 d }
    let notices := s.flags ||| Notice.crane.mask ||| Notice.entry.mask
    c.val ≤ s.straps → k.link ≠ .lost → k.step = none → u.faultCode = 0 → k.leg = none → k.narrowDue = false →
    k.queue = [] → (u.tong = .closedLoaded → s.closedBays = []) → (∀ b < 3, c.val ∉ (s.bay b).breach) → s.runwayQuiet →
    h.session = none →
    h.zeroSet = none → s.journalTakes 2 = true → k.missCount < 3 → k.hitCount < 8 →
    (s.mode = .setup →
      let lost := k.lock = .locked ∧ s.runway.lockWindow < d ∧ k.missCount = 2
      let regained := k.lock = .lost ∧ d ≤ s.runway.lockWindow ∧ k.hitCount = 7
      let entries := if lost then [lostEntry] else if regained then [craneStateEntry c 4 0 0] else []
      ∃ t, exec (.status c r) s = .next t ∧
        t.crane c =
          (if lost then { u with lock := .lost, hitCount := 0 }
          else if regained then { u with lock := .locked, missCount := 0 }
          else if k.lock = .locked then
            { u with missCount := if d ≤ s.runway.lockWindow then 0 else k.missCount + 1 }
          else { u with hitCount := if d ≤ s.runway.lockWindow then k.hitCount + 1 else 0 }) ∧
        (∀ j, j ≠ c.val → t.crane j = s.crane j) ∧
        t.channel c = h.sampled false ∧ (∀ q, q ≠ c.val → t.channel q = s.channel q) ∧
        t.records = State.records
          { s with sent := [], cranes := t.cranes, channels := t.channels, writeCount := t.writeCount } ∧
        JournaledInOrder s t entries ∧ t.flags = (if entries = [] then s.flags else notices) ∧
        OnlyWrites s t (s.journalPlace 1)) ∧
    (s.mode = .run ∨ s.mode = .halted → k.lock = .locked → s.runway.lockWindow < d → k.missCount = 2 →
      k.state = .idle → k.causes = {} → k.heldWide = false → s.hasRoom c want →
      ∃ t, exec (.status c r) s = .next t ∧
        t.crane c =
          { u with
            lock := .lost, hitCount := 0, state := .stopped, resume := .idle, causes := { lockLost := true }
            grant := want, heldWide := true, beforeWide := k.grant } ∧
        (∀ j, j ≠ c.val → t.crane j = s.crane j) ∧
        t.channel c = h.sampled true ∧ (∀ q, q ≠ c.val → t.channel q = s.channel q) ∧
        t.sent = [(c.val, .stop k.lastSeq true)] ∧ Transmitted s t ∧
        t.records = State.records
          { s with
            sent := t.sent, outgoing := t.outgoing, cranes := t.cranes, channels := t.channels
            writeCount := t.writeCount } ∧
        JournaledInOrder s t [lostEntry, craneStateEntry c 7 2 0] ∧ t.flags = notices ∧
        OnlyWrites s t (s.journalPlace 2)) ∧
    (s.mode = .run ∨ s.mode = .halted → k.lock = .lost → d ≤ s.runway.lockWindow → k.hitCount = 7 → k.state = .stopped →
      k.resume = .idle → k.causes = { lockLost := true } → k.waiting = none → k.heldWide = true →
      k.placedWest = false → k.placedEast = false → k.grant.lo ≤ near.lo → near.hi ≤ k.grant.hi →
      s.runway.lo ≤ near.lo → near.hi ≤ s.runway.hi → ¬(u.tong = .open_ ∧ s.runway.clearHeight ≤ u.hook) →
      ∃ t, exec (.status c r) s = .next t ∧
        t.crane c =
          { u with lock := .locked, missCount := 0, state := .idle, causes := {}, grant := near, heldWide := false } ∧
        (∀ j, j ≠ c.val → t.crane j = s.crane j) ∧
        t.channel c = h.sampled true ∧ (∀ q, q ≠ c.val → t.channel q = s.channel q) ∧
        t.records = State.records
          { s with sent := [], cranes := t.cranes, channels := t.channels, writeCount := t.writeCount } ∧
        JournaledInOrder s t [craneStateEntry c 4 0 0, craneStateEntry c 8 2 0] ∧ t.flags = notices ∧
        OnlyWrites s t (s.journalPlace 2))

/-- In RUN and HALTED a STATUS with a drive fault code puts the crane in FAULT with reason DRIVE, and one whose laser position
lies outside the grant by more than the lock window with reason OVERRUN: STOP NOW, the FAULT entry with the code, the grant
widened from the report and held; here an IDLE crane whose widened grant needs no clipping. A crane in such a FAULT whose STATUS
reports no fault code and speed 0 becomes OUT, its hold ended with the grant at the margin around it. -/
def Obligations.StatusEntersAndLeavesFault : Prop :=
  ∀ (c : Fin 4) (r : StatusReport) (s : State),
    let k := s.crane c
    let h := s.channel c
    let u := k.took r
    let x : Int := u.xLaser
    let w := s.runway.lockWindow
    let near : Span := { lo := x - s.runway.margin, hi := x + s.runway.margin }
    let want := s.widened k.grant { lo := x, hi := x } u.speed
    let notices := s.flags ||| Notice.crane.mask ||| Notice.entry.mask
    s.mode = .run ∨ s.mode = .halted → c.val ≤ s.straps → k.link ≠ .lost → k.lock = .locked →
    u.xLaser ≤ u.xEncoder + w → u.xEncoder ≤ u.xLaser + w → k.step = none → k.leg = none → k.narrowDue = false →
    k.queue = [] → (u.tong = .closedLoaded → s.closedBays = []) → (∀ b < 3, c.val ∉ (s.bay b).breach) → s.runwayQuiet →
    h.session = none →
    h.zeroSet = none → s.journalTakes 1 = true →
    (∀ reason, k.state = .idle → k.heldWide = false → s.hasRoom c want →
      (u.faultCode ≠ 0 ∧ reason = .drive ∨
        u.faultCode = 0 ∧ (x + w < k.grant.lo ∨ k.grant.hi + w < x) ∧ reason = .overrun) →
      ∃ t, exec (.status c r) s = .next t ∧
        t.crane c =
          { u with
            missCount := 0, state := .fault, reason := reason, givenUp := .no, waiting := none, grant := want
            heldWide := true, beforeWide := k.grant } ∧
        (∀ j, j ≠ c.val → t.crane j = s.crane j) ∧
        t.channel c = h.sampled true ∧ (∀ q, q ≠ c.val → t.channel q = s.channel q) ∧
        t.sent = [(c.val, .stop k.lastSeq true)] ∧ Transmitted s t ∧
        t.records = State.records
          { s with
            sent := t.sent, outgoing := t.outgoing, cranes := t.cranes, channels := t.channels
            writeCount := t.writeCount } ∧
        JournaledInOrder s t [craneStateEntry c 5 (if reason = .drive then 7 else 9) u.faultCode] ∧ t.flags = notices ∧
        OnlyWrites s t (s.journalPlace 1)) ∧
    (k.state = .fault → k.reason = .drive ∨ k.reason = .overrun → u.faultCode = 0 → u.speed = 0 → k.heldWide = true →
      k.placedWest = false → k.placedEast = false → k.grant.lo ≤ near.lo → near.hi ≤ k.grant.hi →
      s.runway.lo ≤ near.lo → near.hi ≤ s.runway.hi →
      ∃ t, exec (.status c r) s = .next t ∧
        t.crane c = { u with missCount := 0, state := .out, grant := near, heldWide := false } ∧
        (∀ j, j ≠ c.val → t.crane j = s.crane j) ∧
        t.channel c = h.sampled true ∧ (∀ q, q ≠ c.val → t.channel q = s.channel q) ∧
        t.records = State.records
          { s with sent := [], cranes := t.cranes, channels := t.channels, writeCount := t.writeCount } ∧
        JournaledInOrder s t [craneStateEntry c 6 0 0] ∧ t.flags = notices ∧ OnlyWrites s t (s.journalPlace 1))

/-- TAG and BAD_TELEGRAM at the link of a fitted crane: a TAG whose sequence is that of a TAGREAD in progress without a
read yet is kept as its read, any other is discarded, and either is a valid telegram; a bad one counts, short of the
fourth in a row, or sends a LOST link's recovery back to its start. On the link of a crane not fitted nothing happens. -/
def Obligations.TagsAndBadTelegramsAreTaken : Prop :=
  (∀ (c : Fin 4) (r : TagReport) (s : State),
    let k := s.crane c
    let good : Crane := if k.link = .lost then k else { k with badCount := 0, link := .up }
    c.val ≤ s.straps →
    ∃ t, exec (.tag c r) s = .next t ∧
      (k.step = some { seq := r.seq.toNat, kind := .tagread } → k.tagRead = none →
        t.crane c = { good with tagRead := some (if r.present = 0 then none else some r.id.toNat) }) ∧
      (k.step ≠ some { seq := r.seq.toNat, kind := .tagread } ∨ k.tagRead ≠ none → t.crane c = good) ∧
      (∀ j, j ≠ c.val → t.crane j = s.crane j) ∧
      t.records = State.records { s with sent := [], cranes := t.cranes } ∧
      t.flags = s.flags ∧ OnlyWrites s t (fun _ => false)) ∧
  (∀ (c : Fin 4) (s : State),
    let k := s.crane c
    c.val ≤ s.straps → k.link = .lost ∨ k.badCount ≠ 3 →
    ∃ t, exec (.badTelegram c) s = .next t ∧
      t.crane c =
        (if k.link = .lost then { k with recoveryCount := 0 } else { k with badCount := k.badCount + 1, link := .doubt }) ∧
      (∀ j, j ≠ c.val → t.crane j = s.crane j) ∧
      t.records = State.records { s with sent := [], cranes := t.cranes } ∧
      t.flags = s.flags ∧ OnlyWrites s t (fun _ => false)) ∧
  ∀ (c : Fin 4) (r : StatusReport) (g : TagReport) (s : State), s.straps < c.val →
    ∀ cmd ∈ ([.status c r, .tag c g, .badTelegram c, .reportExpiry c] : List Instr),
      exec cmd s = .next { s with sent := [], touched := {} }

/-- In SETUP the fourth bad telegram in a row and the running out of the report expiry make a link LOST: the channel's
data is gone, a LINK_LOST entry is written and CRANE raised. An expiry on a LOST link only restarts its recovery. In RUN and
HALTED a lost link puts the crane in FAULT with reason LINK and STOP NOW; here an IDLE crane whose widened grant needs no
clipping: the grant takes in the position used, the braking distance and the margin on both sides, and is held. -/
def Obligations.LinksAreLost : Prop :=
  ((∀ (bad : Bool) (c : Fin 4) (s : State),
    let k := s.crane c
    let h := s.channel c
    s.mode = .setup → c.val ≤ s.straps → k.link ≠ .lost → (bad = true → k.badCount = 3) → h.session = none →
    h.zeroSet = none → s.journalTakes 1 = true →
    ∃ t, exec (if bad then .badTelegram c else .reportExpiry c) s = .next t ∧
      t.crane c = { k with link := .lost, recoveryCount := 0, badCount := if bad then 4 else k.badCount } ∧
      (∀ j, j ≠ c.val → t.crane j = s.crane j) ∧
      t.channel c = { h with data := false, batchSet := none } ∧ (∀ q, q ≠ c.val → t.channel q = s.channel q) ∧
      t.records = State.records
        { s with sent := [], cranes := t.cranes, channels := t.channels, writeCount := t.writeCount } ∧
      JournaledInOrder s t [craneStateEntry c 1 0 0] ∧
      t.flags = s.flags ||| Notice.crane.mask ||| Notice.entry.mask ∧ OnlyWrites s t (s.journalPlace 1)) ∧
  ∀ (c : Fin 4) (s : State), c.val ≤ s.straps → (s.crane c).link = .lost →
    ∃ t, exec (.reportExpiry c) s = .next t ∧ t.crane c = { s.crane c with recoveryCount := 0 } ∧
      (∀ j, j ≠ c.val → t.crane j = s.crane j) ∧
      t.records = State.records { s with sent := [], cranes := t.cranes } ∧
      t.flags = s.flags ∧ OnlyWrites s t (fun _ => false)) ∧
  ∀ (c : Fin 4) (s : State),
    let k := s.crane c
    let h := s.channel c
    let u := k.positionUsed
    let b : Int := s.braking c
    let m : Int := s.runway.margin
    let want : Span :=
      { lo := max (min k.grant.lo (u.lo - b - m)) s.runway.lo, hi := min (max k.grant.hi (u.hi + b + m)) s.runway.hi }
    s.mode = .run ∨ s.mode = .halted → c.val ≤ s.straps → k.link ≠ .lost → k.state = .idle → k.queue = [] →
    k.step = none → (k.tong = .closedLoaded ∨ k.wholeTong = .closedLoaded → s.closedBays = []) → k.heldWide = false → (s.roomOf c).lo ≤ want.lo →
    want.hi ≤ (s.roomOf c).hi → s.runwayQuiet → h.session = none → h.zeroSet = none → s.journalTakes 2 = true →
    ∃ t, exec (.reportExpiry c) s = .next t ∧
      t.crane c =
        { k with
          link := .lost, recoveryCount := 0, state := .fault, reason := .link, givenUp := .no, waiting := none
          leg := none, narrowDue := false, grant := want, heldWide := true, beforeWide := k.grant } ∧
      (∀ j, j ≠ c.val → t.crane j = s.crane j) ∧
      t.channel c = { h with data := false, batchSet := none } ∧ (∀ q, q ≠ c.val → t.channel q = s.channel q) ∧
      t.sent = [(c.val, .stop k.lastSeq true)] ∧ Transmitted s t ∧
      t.records = State.records
        { s with sent := t.sent, outgoing := t.outgoing, cranes := t.cranes, channels := t.channels, writeCount := t.writeCount } ∧
      JournaledInOrder s t [craneStateEntry c 1 0 0, craneStateEntry c 5 8 0] ∧
      t.flags = s.flags ||| Notice.crane.mask ||| Notice.entry.mask ∧ OnlyWrites s t (s.journalPlace 2)

/-- A STATUS on a LOST link counts toward its recovery, its values kept but no position taken as used; the tenth in a row
returns the link to UP with its entry and is handled whole, and in RUN and HALTED the crane in FAULT with reason LINK becomes
OUT, its hold ended. A STATUS of a crane whose move is weighed feeds its session: the corrected weight, or an overrange mark,
joins the window of eight, the steady count follows, and the sample count rises; here one that does not end it. -/
def Obligations.StatusRecoversALinkAndFeedsASession : Prop :=
  ∀ (c : Fin 4) (r : StatusReport) (s : State),
    let k := s.crane c
    let h := s.channel c
    let u := k.took r
    let x : Int := u.xLaser
    let serving := s.mode = .run ∨ s.mode = .halted
    let near : Span := { lo := x - s.runway.margin, hi := x + s.runway.margin }
    c.val ≤ s.straps →
    (k.link = .lost → k.recoveryCount < 9 →
      ∃ t, exec (.status c r) s = .next t ∧
        t.crane c =
          { u with
            link := .lost, badCount := k.badCount, wholeEncoder := k.wholeEncoder, wholeLaser := k.wholeLaser
            wholeTong := k.wholeTong, recoveryCount := k.recoveryCount + 1 } ∧
        (∀ j, j ≠ c.val → t.crane j = s.crane j) ∧
        t.records = State.records { s with sent := [], cranes := t.cranes } ∧
        t.flags = s.flags ∧ OnlyWrites s t (fun _ => false)) ∧
    (k.lock = .locked → u.xLaser ≤ u.xEncoder + s.runway.lockWindow → u.xEncoder ≤ u.xLaser + s.runway.lockWindow →
      k.step = none → k.leg = none → k.narrowDue = false → u.faultCode = 0 → (∀ b < 3, c.val ∉ (s.bay b).breach) → h.zeroSet = none → s.runwayQuiet →
      (k.link = .lost → k.recoveryCount = 9 → h.session = none → s.journalTakes 2 = true →
        (u.tong = .closedLoaded → s.closedBays = []) →
        s.mode = .setup ∨ serving ∧ k.state = .fault ∧ k.reason = .link ∧ k.heldWide = true ∧ k.placedWest = false ∧
          k.placedEast = false ∧ k.grant.lo ≤ near.lo ∧ near.hi ≤ k.grant.hi ∧ s.runway.lo ≤ near.lo ∧
          near.hi ≤ s.runway.hi →
        let entries := craneStateEntry c 2 0 0 :: if serving then [craneStateEntry c 6 0 0] else []
        ∃ t, exec (.status c r) s = .next t ∧
          t.crane c =
            (if serving then
              { u with missCount := 0, recoveryCount := 10, state := .out, grant := near, heldWide := false }
            else { u with missCount := 0, recoveryCount := 10 }) ∧
          (∀ j, j ≠ c.val → t.crane j = s.crane j) ∧
          t.channel c = h.sampled (decide serving) ∧ (∀ q, q ≠ c.val → t.channel q = s.channel q) ∧
          t.records = State.records
            { s with sent := [], cranes := t.cranes, channels := t.channels, writeCount := t.writeCount } ∧
          JournaledInOrder s t entries ∧ t.flags = s.flags ||| Notice.crane.mask ||| Notice.entry.mask ∧
          OnlyWrites s t (s.journalPlace 2)) ∧
      ∀ w : HookSession, k.link ≠ .lost → h.session = some w → serving → k.state = .busy → k.heldWide = false →
        (u.tong = .closedLoaded → k.wholeTong = .closedLoaded) →
        k.grant.lo ≤ x + s.runway.lockWindow → x ≤ k.grant.hi + s.runway.lockWindow →
        let old := w.window.entries
        let entries := (if old.length < 8 then old else old.drop 1) ++
          [if -8000000 ≤ u.load ∧ u.load ≤ 8000000 then some (h.corrected u.load) else none]
        let steady :=
          if entries.length = 8 ∧ (∀ a ∈ entries, a ≠ none) ∧
              (∀ a ∈ entries, ∀ b ∈ entries, a.getD 0 ≤ b.getD 0 + h.settleBand) then
            min (w.window.steady + 1) h.settleCount
          else 0
        steady ≠ h.settleCount → w.count + 1 < 40 →
        ∃ t, exec (.status c r) s = .next t ∧ t.crane c = { u with missCount := 0 } ∧
          (∀ j, j ≠ c.val → t.crane j = s.crane j) ∧
          t.channel c =
            { h.sampled true with
              session := some { window := { entries := entries, steady := steady }, count := w.count + 1 } } ∧
          (∀ q, q ≠ c.val → t.channel q = s.channel q) ∧
          t.records = State.records { s with sent := [], cranes := t.cranes, channels := t.channels } ∧
          t.flags = s.flags ∧ OnlyWrites s t (fun _ => false))

/-! ## Moves and the runway -/

/-- MOVE_BEGIN on an IDLE crane whose first leg's request is compatible: the move is in LEG1, the grant covers the leg, a
GOTO under the next number carries it, and the move's cell shows the phase. With an empty queue nothing happens: where no
move may begin the command changes nothing, the model's choice, log entry 13. -/
def Obligations.MoveBeginStartsLegOne : Prop :=
  (∀ (c : Fin 4) (s : State) (m n take : Nat) (rest : List Nat) (v : Move),
    let k := s.crane c
    let next := (k.lastSeq + 1) % 256
    let number := if next = k.doneSeq then (next + 1) % 256 else next
    let grant := s.requestSpan c v.sourceX
    s.mode = .run ∨ s.mode = .halted → c.val ≤ s.straps → k.state = .idle → k.queue = m :: rest → s.move? m = some v →
    v.phase = .queued → v.crane = c.val → (∀ q, v.source ≠ .hook q) → s.recordAt (.hook c) = none → v.abort = none →
    v.origin = .cell n take → n < 128 → s.cellIsOf n take = true → s.runwayQuiet → k.heldWide = false →
    (s.channel c).zeroSet = none →
    s.compatible { crane := c, kind := .move, targetX := v.sourceX, targetY := v.sourceY, seq := v.seq } = true →
    ∃ t, exec (.moveBegin c) s = .next t ∧
      t.crane c =
        { k with
          state := .busy, grant := grant, narrowDue := false
          leg := some
            { kind := .move, targetX := v.sourceX, targetY := v.sourceY, seq := v.seq
              direction :=
                if k.xLaser < v.sourceX then .east else if v.sourceX < k.xLaser then .west else .none }
          lastSeq := number, step := some { seq := number, kind := .goto v.sourceX v.sourceY }, givenUp := .no
          waiting := none } ∧
      (∀ j, j ≠ c.val → t.crane j = s.crane j) ∧
      t.move? m = some { v with phase := .leg1 } ∧ (∀ q, q ≠ m → t.move? q = s.move? q) ∧
      t.sent = [(c.val, .goto number v.sourceX v.sourceY grant.lo grant.hi)] ∧
      Transmitted s t ∧
      t.records = State.records
        { s with sent := t.sent, outgoing := t.outgoing, cranes := t.cranes, moves := t.moves } ∧
      t.flags = s.flags ∧ t.readByte (cellOffset n + 3) = 3 ∧ OnlyWrites s t (fun a => a == cellOffset n + 3)) ∧
  ∀ (c : Fin 4) (s : State), (s.crane c).queue = [] → s.runwayQuiet →
    exec (.moveBegin c) s = .next { s with sent := [], touched := {} }

/-- The braking distance and the stopping extent; the span of a request, when it is compatible, and what blocks it, for a crane
whose last report was handled whole. -/
def Obligations.BrakingAndRequestSpans : Prop :=
  (∀ (s : State) (k : Nat), 0 < s.runway.decel →
    let c := s.crane k
    let v := min c.speed.natAbs 400
    let b := s.braking k
    let x : Int := c.xLaser
    let m : Int := s.runway.margin
    v * v ≤ 2 * s.runway.decel * b ∧ 2 * s.runway.decel * b < v * v + 2 * s.runway.decel ∧
    (0 < c.speed → s.stopping k = { lo := x - m, hi := x + b + m }) ∧
    (c.speed < 0 → s.stopping k = { lo := x - b - m, hi := x + m }) ∧
    (c.speed = 0 → s.stopping k = { lo := x - m, hi := x + m })) ∧
  (∀ (s : State) (r : Request),
    let k := r.crane
    let g := (s.crane k).grant
    let m : Int := s.runway.margin
    let span := s.requestSpan k r.targetX
    let clear := fun i j : Nat => ((s.crane i).halfWidth : Int) + s.runway.gap + (s.crane j).halfWidth
    let westFree := (s.crane (k - 1)).grant.hi + clear (k - 1) k ≤ span.lo
    let eastFree := span.hi + clear k (k + 1) ≤ (s.crane (k + 1)).grant.lo
    s.fitted k = true →
    span.lo = max (min g.lo (r.targetX - m)) s.runway.lo ∧ span.hi = min (max g.hi (r.targetX + m)) s.runway.hi ∧
    ((s.crane k).tong = (s.crane k).wholeTong → (s.compatible r = true ↔
      (0 < k → westFree) ∧ (s.fitted (k + 1) = true → eastFree) ∧
      ((s.crane k).wholeTong = .closedLoaded → ∀ b < 3, (s.bay b).state ≠ .unconfigured → (s.bay b).occupied = true →
        let e := s.extent b
        max span.lo e.lo < min span.hi e.hi →
          k ∈ (s.bay b).breach ∧ g.lo ≤ max span.lo e.lo ∧ min span.hi e.hi ≤ g.hi))) ∧
    (∀ j, j ∈ s.blockers k span ↔
      (0 < k ∧ j = k - 1 ∧ ¬westFree) ∨ (s.fitted (k + 1) = true ∧ j = k + 1 ∧ ¬eastFree)))

/-! ## Weighing -/

/-- The primary weight, the correction between and beyond the points, and the report of an average. -/
def Obligations.WeightsAreCorrectedAndReported : Prop :=
  (∀ (k : Channel) (count : Int), 0 < k.span →
    RoundedHalfAway ((count - k.zero) * k.wref) k.span (k.primary count)) ∧
  (∀ k : Channel, k.zero = 0 → k.wref = 20000 → k.span = 2500000 → k.primary (-310) = -2 ∧ k.primary (-313) = -3) ∧
  (∀ (k : Channel) (w : Int), 0 < k.cap → k.cap % 8 = 0 →
    let p := fun i : Nat => k.points.getD i 0
    let step := k.cap / 8
    (w ≤ 0 → k.correction w = p 0) ∧ ((k.cap : Int) ≤ w → k.correction w = p 8) ∧
    (0 < w → w < k.cap →
      let i := w.toNat / step
      i ≤ 7 ∧ ∃ q, RoundedHalfAway ((p (i + 1) - p i) * (w - i * step)) step q ∧ k.correction w = p i + q)) ∧
  (∀ (k : Channel) (count : Int), k.corrected count = k.primary count + k.correction (k.primary count)) ∧
  ∀ (cap : Nat) (wf : Int),
    ((cap : Int) < wf → reportOf cap wf = .over) ∧
    (wf ≤ cap → wf < -100 → reportOf cap wf = .noLoad) ∧
    (wf ≤ cap → -100 ≤ wf → wf < 0 → reportOf cap wf = .weight 0) ∧
    (wf ≤ cap → 0 ≤ wf → ∃ w, reportOf cap wf = .weight w ∧ w = min ((wf.toNat + 5) / 10) (cap / 10))

/-- SET_CHANNEL with every field in range: a channel busy picking, weighing, with a truck or with a zero set is answered
CHANNEL_BUSY; else it takes the calibration (0 selecting the four defaults), its flags clear and its tracking starts anew,
and its directory group is written. -/
def Obligations.SetChannelCalibrates : Prop :=
  ∀ (s : State) (o : Order) (rest : List Order) (k : Nat),
    TakenUp s .wu 0x40 o rest → fieldNat o.body 0 1 = k → k ≤ s.straps ∨ 4 ≤ k → k ≤ 9 →
    8000 ≤ fieldNat o.body 2 2 → fieldNat o.body 2 2 ≤ 60000 → fieldNat o.body 2 2 % 8 = 0 →
    -8000000 ≤ fieldInt o.body 4 4 → fieldInt o.body 4 4 ≤ 8000000 →
    1 ≤ fieldNat o.body 8 4 → fieldNat o.body 8 4 ≤ 8000000 → 1 ≤ fieldNat o.body 12 2 → fieldNat o.body 12 2 ≤ 60000 →
    (∀ i < 9, -500 ≤ fieldInt o.body (14 + 2 * i) 2 ∧ fieldInt o.body (14 + 2 * i) 2 ≤ 500) →
    (fieldNat o.body 32 2 = 0 ∨ 5 ≤ fieldNat o.body 32 2 ∧ fieldNat o.body 32 2 ≤ 500) →
    (fieldNat o.body 34 1 = 0 ∨ 3 ≤ fieldNat o.body 34 1 ∧ fieldNat o.body 34 1 ≤ 20) → fieldNat o.body 35 1 ≤ 31 →
    (fieldNat o.body 36 2 = 0 ∨ 5 ≤ fieldNat o.body 36 2 ∧ fieldNat o.body 36 2 ≤ 200) →
    fieldNat o.body 38 1 ≤ 4 → fieldNat o.body 39 1 ≤ 1 →
    let h := s.channel k
    let picking := ∃ m v, s.currentMove k = some m ∧ s.move? m = some v ∧
      (v.phase = .pickLower ∨ v.phase = .pickGrip ∨ v.phase = .pickVerify ∨ v.phase = .pickHoist ∨ v.phase = .weigh)
    let truck := (s.bay ((k - 4) / 2)).state
    let busy := h.zeroSet ≠ none ∨ (s.mode = .run ∨ s.mode = .halted) ∧
      (k < 4 ∧ picking ∨ 4 ≤ k ∧
        (truck = .arriving ∨ truck = .arrived ∨ truck = .loading ∨ truck = .planHold ∨ truck = .check))
    (busy → exec .setChannel s = .next (answeredAlone s .wu rest o { code := .channelBusy, area := [byte k] })) ∧
    (¬busy → ∃ t, exec .setChannel s = .next t ∧
      t.channel k =
        { configured := true, data := h.data, fault := false, expiryRunning := h.expiryRunning
          cap := fieldNat o.body 2 2, zero := fieldInt o.body 4 4, span := fieldNat o.body 8 4
          wref := fieldNat o.body 12 2, points := (List.range 9).map (fun i => fieldInt o.body (14 + 2 * i) 2)
          settleBand := if fieldNat o.body 32 2 = 0 then 40 else fieldNat o.body 32 2
          settleCount := if fieldNat o.body 34 1 = 0 then 5 else fieldNat o.body 34 1
          batches := if fieldNat o.body 35 1 = 0 then 4 else fieldNat o.body 35 1
          trackBand := if fieldNat o.body 36 2 = 0 then 20 else fieldNat o.body 36 2
          alarm := fieldNat o.body 38 1, latchMode := fieldNat o.body 39 1 == 1, lastWeight := 0, latched := false
          batchSet := none, zeroSet := none, lastEligible := h.lastEligible, session := h.session } ∧
      (∀ q, q ≠ k → t.channel q = s.channel q) ∧
      t.records = State.records { s with sent := [], inboundWU := rest, channels := t.channels } ∧
      Answered s t o { code := .done } ∧
      (s.mode ≠ .resetting → t.readBytes (0x121 + 16 * k) 14 = groupBody t (10 + k)))

/-- ZERO_SET starts a zero set, its cell WORKING with 0, on a configured channel with data, in no session, without a
zero set, whose last sample was eligible; else CHANNEL_BUSY. ZERO_REARM clears the latched flag and nothing else. That the
progress of a zero set just started is 0 is the model's reading, log entry 35. -/
def Obligations.ZeroSetStartsAndRearmClears : Prop :=
  (∀ (s : State) (o : Order) (rest : List Order) (k : Nat),
    TakenUp s .wu 0x41 o rest → fieldNat o.body 0 1 = k → k ≤ 9 →
    let h := s.channel k
    let free := h.configured = true ∧ h.data = true ∧
      (if k < 4 then h.session = none else (s.bay ((k - 4) / 2)).session = none) ∧ h.zeroSet = none ∧
      h.lastEligible = true
    (¬free → exec .zeroSet s = .next (answeredAlone s .wu rest o { code := .channelBusy, area := [byte k] })) ∧
    (free → ∃ t, exec .zeroSet s = .next t ∧
      t.channel k = { h with zeroSet := some { cell := o.cell, take := o.take, sum := 0, count := 0 } } ∧
      (∀ q, q ≠ k → t.channel q = s.channel q) ∧
      t.records = State.records { s with sent := [], inboundWU := rest, channels := t.channels } ∧ Working s t o 0)) ∧
  ∀ (s : State) (o : Order) (rest : List Order) (k : Nat),
    TakenUp s .wu 0x42 o rest → fieldNat o.body 0 1 = k → k ≤ 9 →
    ∃ t, exec .zeroRearm s = .next t ∧ t.channel k = { s.channel k with latched := false } ∧
      (∀ q, q ≠ k → t.channel q = s.channel q) ∧
      t.records = State.records { s with sent := [], inboundWU := rest, channels := t.channels } ∧
      Answered s t o { code := .done }

/-- A SAMPLE outside a session and not eligible gives both channels data and interrupts their tracking; a bad one does
nothing; a sample expiry that runs out takes a channel's data, and one that is not running does nothing: the model's choice,
log entry 39. -/
def Obligations.SamplesReachTheirChannels : Prop :=
  (∀ (b : Fin 3) (r : SampleReport) (s : State),
    let f := 4 + 2 * b.val
    let serving := s.mode = .run ∨ s.mode = .halted
    let after := fun h : Channel =>
      { h with
        data := true, expiryRunning := true, lastEligible := false
        batchSet := if serving ∧ h.configured = true ∧ h.fault = false then none else h.batchSet }
    (s.bay b).session = none → (s.channel f).zeroSet = none → (s.channel (f + 1)).zeroSet = none →
    ¬(serving ∧ (s.bay b).state = .empty) →
    ∃ t, exec (.sample b r) s = .next t ∧
      (∀ q, t.channel q = if q = f ∨ q = f + 1 then after (s.channel q) else s.channel q) ∧
      t.records = State.records { s with sent := [], channels := t.channels } ∧
      t.flags = s.flags ∧ OnlyWrites s t (fun _ => false)) ∧
  (∀ (b : Fin 3) (s : State), exec (.badSampleTelegram b) s = .next { s with sent := [], touched := {} }) ∧
  ∀ (k : Fin 10) (s : State),
    let h := s.channel k
    (h.expiryRunning = false → exec (.sampleExpiry k) s = .next { s with sent := [], touched := {} }) ∧
    (h.expiryRunning = true → h.zeroSet = none →
      (if k.val < 4 then h.session = none else (s.bay ((k.val - 4) / 2)).session = none) →
      ∃ t, exec (.sampleExpiry k) s = .next t ∧
        t.channel k =
          { h with
            expiryRunning := false, data := false, batchSet := if h.data = true then none else h.batchSet } ∧
        (∀ q, q ≠ k.val → t.channel q = s.channel q) ∧
        t.records = State.records { s with sent := [], channels := t.channels } ∧
        t.flags = s.flags ∧ OnlyWrites s t (fun _ => false))

/-- The sample that completes a batch set on a front platform channel, the rear one not configured: the drift of the
set's mean decides. Within the track band the zero follows; within the alarm limit it is journaled, and latched in LATCH
mode; beyond, the channel is faulty. -/
def Obligations.CompleteBatchSetIsEvaluated : Prop :=
  ∀ (b : Fin 3) (r : SampleReport) (s : State) (w : BatchSet) (mean : Int) (drift : Nat),
    let f := 4 + 2 * b.val
    let h := s.channel f
    let alarm := h.cap * [25, 50, 100, 200, 400].getD h.alarm 400 / 10000
    let after := fun q : Channel => { q with data := true, expiryRunning := true, lastEligible := true }
    let detail := leSigned 4 h.zero ++ leSigned 4 mean ++ leBytes 2 drift
    s.mode = .run ∨ s.mode = .halted → (s.bay b).state = .empty → (s.bay b).session = none → h.configured = true →
    h.fault = false → h.latched = false → h.zeroSet = none → h.batchSet = some w → w.inBatch = 15 →
    w.batches + 1 = h.batches → 0 < h.span → h.alarm ≤ 4 →
    -8000000 ≤ r.front.toInt → r.front.toInt ≤ 8000000 →
    (s.channel (f + 1)).configured = false → (s.channel (f + 1)).zeroSet = none → s.journalTakes 1 = true →
    RoundedHalfAway (w.sum + r.front.toInt) (16 * h.batches) mean →
    RoundedHalfAway ((mean - h.zero).natAbs * h.wref) h.span drift → drift < 65536 →
    ∃ t, exec (.sample b r) s = .next t ∧
      t.channel f =
        (if drift ≤ h.trackBand then { after h with zero := mean, batchSet := none }
        else if drift ≤ alarm then { after h with latched := h.latchMode, batchSet := none }
        else { after h with fault := true, batchSet := none }) ∧
      t.channel (f + 1) = after (s.channel (f + 1)) ∧
      (∀ q, q ≠ f → q ≠ f + 1 → t.channel q = s.channel q) ∧
      JournaledInOrder s t
        (if drift ≤ h.trackBand then []
        else if drift ≤ alarm then [{ kind := 8, subject := f, detail := detail }]
        else [{ kind := 9, subject := f, detail := detail ++ leBytes 2 alarm }]) ∧
      t.flags =
        (if drift ≤ h.trackBand then s.flags else s.flags ||| Notice.weight.mask ||| Notice.entry.mask) ∧
      t.records = State.records { s with sent := [], channels := t.channels, writeCount := t.writeCount } ∧
      OnlyWrites s t (s.journalPlace 1)

/-- SESSION_EXPIRY is the report that brings the session its last sample: the model's reading, log entry 4. The 100th
SAMPLE of an arrival that does not settle ends it UNSETTLED, and the bay is EMPTY without a truck; the report bytes of its
answer area, 4 and 4, are the model's reading, log entry 34. -/
def Obligations.SessionExpiryEndsTheArrival : Prop :=
  (∀ (c : Fin 4) (r : StatusReport) (s : State), exec (.sessionExpiry (.hook c r)) s = exec (.status c r) s) ∧
  (∀ (b : Fin 3) (r : SampleReport) (s : State), exec (.sessionExpiry (.platform b r)) s = exec (.sample b r) s) ∧
  ∀ (b : Fin 3) (r : SampleReport) (s : State) (p : PlatformSession) (n take : Nat),
    let f := 4 + 2 * b.val
    let after := fun h : Channel =>
      { h with
        data := true, expiryRunning := true, lastEligible := false
        batchSet :=
          if (s.mode = .run ∨ s.mode = .halted) ∧ h.configured = true ∧ h.fault = false then none else h.batchSet }
    (s.bay b).state = .arriving → (s.bay b).session = some p → p.purpose = .arrival → p.count = 99 →
    (s.bay b).waitingCell = some (n, take) → n < 128 → s.cellIsOf n take = true →
    (s.channel f).zeroSet = none → (s.channel (f + 1)).zeroSet = none →
    ((p.front.take (s.channel f) r.front.toInt).settled (s.channel f)
      && (p.rear.take (s.channel (f + 1)) r.rear.toInt).settled (s.channel (f + 1))) = false →
    ∃ t, exec (.sessionExpiry (.platform b r)) s = .next t ∧
      t.bay b = { (s.bay b).withoutTruck with state := .empty, session := none, waitingCell := none } ∧
      (∀ d, d ≠ b.val → t.bay d = s.bay d) ∧
      (∀ q, t.channel q = if q = f ∨ q = f + 1 then after (s.channel q) else s.channel q) ∧
      t.records = State.records { s with sent := [], channels := t.channels, bays := t.bays } ∧
      ShowsAnswer t n { code := .unsettled, area := [4, 4, 4, 0, 0, 0, 0, 0] } ∧
      t.flags = s.flags ||| Notice.answer.mask ∧ OnlyWrites s t (answerByte n)

/-! ## Bays -/

/-- SET_BAY with every field in range: the bay is configured EMPTY with the values (0 selecting the two defaults), its
area state taken from the input, and its directory group is written. That the bed-hold flag follows the input there too is
the model's reading, log entry 38. -/
def Obligations.SetBayConfiguresTheBay : Prop :=
  ∀ (s : State) (o : Order) (rest : List Order) (b : Nat),
    TakenUp s .lu 0x50 o rest → fieldNat o.body 0 1 = b → b ≤ 2 → fieldNat o.body 2 2 < fieldNat o.body 4 2 →
    fieldNat o.body 4 2 ≤ 60000 → fieldNat o.body 2 2 ≤ fieldNat o.body 6 2 →
    fieldNat o.body 6 2 ≤ fieldNat o.body 4 2 → fieldNat o.body 8 2 ≤ 4000 → fieldNat o.body 10 2 ≤ 500 →
    fieldNat o.body 12 2 ≤ 100 →
    ∃ t, exec .setBay s = .next t ∧
      t.bay b =
        { s.bay b with
          state := .empty, bxLo := fieldNat o.body 2 2, bxHi := fieldNat o.body 4 2, centre := fieldNat o.body 6 2
          frontLine := fieldNat o.body 8 2
          checkMin := if fieldNat o.body 10 2 = 0 then 30 else fieldNat o.body 10 2
          checkPm := if fieldNat o.body 12 2 = 0 then 10 else fieldNat o.body 12 2
          occupied := s.areaLow.contains b, bedHold := s.areaLow.contains b } ∧
      (∀ d, d ≠ b → t.bay d = s.bay d) ∧
      t.records = State.records { s with sent := [], inboundLU := rest, bays := t.bays } ∧
      Answered s t o { code := .done } ∧
      (s.mode ≠ .resetting → t.readBytes (0xC1 + 32 * b) 30 = groupBody t (7 + b))

/-- AREA_CHANGE: the input's level is kept; where it changes the level of a configured bay, over whose bed no crane works
and near which no crane is loaded, the area state and the bed-hold flag follow, and an opened extent's breach list is
empty. Where it closes the extent in RUN or HALTED and one loaded crane's grant overlaps it, that crane is put to the closure
test. With its position used in the extent, or its grant held widened, it is entered in the breach list, with the ZONE_BREACH
entry and the BAY notice. Else its grant is cut at the extent's near edge, a GOTO in progress being sent the LIMIT; or, where the
stopping extent reaches into it, the crane is stopped and listed and its grant cut at the far end of the stopping extent. The
rest of a cut leg waits as a request. Five of these are the model's readings: that a crane's last reported
tong state is that of the last report handed to RU (log entry 65), that a position exactly on the extent's edge lies inside it
(log entry 26), that the span of a leg before the cut is the grant before it (log entry 27), that the STOP gives up a step other
than a GOTO too (log entry 45), and that a leg whose GOTO is given up or waits is sent no LIMIT (log entry 66). -/
def Obligations.AreaChangeFollowsTheInput : Prop :=
  (∀ (b : Fin 3) (low : Bool) (s : State),
    let levels := [0, 1, 2].filter fun k => if k = b.val then low else s.areaLow.contains k
    ((s.bay b).state = .unconfigured ∨ (s.bay b).occupied = low →
      exec (.areaChange b low) s = .next { s with sent := [], touched := {}, areaLow := levels }) ∧
    ((s.bay b).state ≠ .unconfigured → (s.bay b).occupied ≠ low → s.runwayQuiet →
      (∀ c ≤ s.straps, c < 4 → (s.crane c).wholeTong ≠ .closedLoaded ∧ s.workBed c ≠ some b.val) →
      ∃ t, exec (.areaChange b low) s = .next t ∧
        t.bay b =
          { s.bay b with occupied := low, bedHold := low, breach := if low then (s.bay b).breach else [] } ∧
        (∀ d, d ≠ b.val → t.bay d = s.bay d) ∧
        t.records = State.records { s with sent := [], areaLow := levels, bays := t.bays } ∧
        t.flags = s.flags ∧ OnlyWrites s t (fun _ => false))) ∧
  ∀ (b : Fin 3) (k : Fin 4) (s : State),
    let levels := [0, 1, 2].filter fun d => if d = b.val then true else s.areaLow.contains d
    let c := s.crane k
    let e := s.extent b
    let u := c.positionUsed
    let m : Int := s.runway.margin
    let coil := match (s.recordAt (.hook k)).bind s.coil? with
      | some v => v.id
      | none => 0
    let entry : JournalEntry :=
      { kind := 6, subject := b, coil := coil, detail := [byte k.val, 0] ++ leBytes 2 u.lo.toNat ++ leBytes 2 u.hi.toNat }
    let notices := s.flags ||| Notice.bay.mask ||| Notice.entry.mask
    let closing : Bay := { s.bay b with occupied := true, bedHold := true }
    let listing : Bay := { closing with breach := (s.bay b).breach ++ [k.val] }
    s.mode = .run ∨ s.mode = .halted → (s.bay b).state ≠ .unconfigured → (s.bay b).occupied = false → s.runwayQuiet →
    k.val ≤ s.straps → c.wholeTong = .closedLoaded → k.val ∉ (s.bay b).breach →
    max c.grant.lo e.lo < min c.grant.hi e.hi → (∀ j ≤ s.straps, j < 4 → s.workBed j ≠ some b.val) →
    (∀ j ≤ s.straps, j < 4 → j ≠ k.val → (s.crane j).wholeTong ≠ .closedLoaded) → s.journalTakes 1 = true →
    (c.heldWide = true ∨ u.lo ≤ e.hi ∧ e.lo ≤ u.hi →
      ∃ t, exec (.areaChange b true) s = .next t ∧ t.bay b = listing ∧ (∀ d, d ≠ b.val → t.bay d = s.bay d) ∧
        t.records = State.records
          { s with sent := [], areaLow := levels, bays := t.bays, writeCount := t.writeCount } ∧
        JournaledInOrder s t [entry] ∧ t.flags = notices ∧ OnlyWrites s t (s.journalPlace 1)) ∧
    ∀ west : Bool,
      let stop := s.stopping k
      let reaches := max stop.lo e.lo < min stop.hi e.hi
      let g : Span :=
        if west then { c.grant with hi := if reaches then stop.hi else e.lo }
        else { c.grant with lo := if reaches then stop.lo else e.hi }
      c.heldWide = false → (if west = true then u.hi < e.lo else e.hi < u.lo) →
      g.lo ≤ g.hi → c.grant.lo ≤ g.lo → g.hi ≤ c.grant.hi →
      (c.leg = none ∨
        ∃ l, c.leg = some l ∧
          let span : Span :=
            { lo := max (min g.lo (l.targetX - m)) s.runway.lo, hi := min (max g.hi (l.targetX + m)) s.runway.hi }
          (if west = true then g.hi < e.hi ∧ g.hi < c.grant.hi ∧ g.hi < l.targetX + m
            else e.lo < g.lo ∧ c.grant.lo < g.lo ∧ l.targetX - m < g.lo) ∧
          s.blockers k span = []) →
      ∃ t, exec (.areaChange b true) s = .next t ∧ t.bay b = (if reaches then listing else closing) ∧
        (∀ d, d ≠ b.val → t.bay d = s.bay d) ∧
        t.crane k =
          { c with
            grant := g
            givenUp :=
              if reaches ∧ c.step ≠ none ∧ c.givenUp = .no then (if c.gotoInProgress then .zone else .stop)
              else c.givenUp } ∧
        (∀ j, j ≠ k.val → t.crane j = s.crane j) ∧
        t.requests = (match c.leg with
          | some l =>
            [{ crane := k, kind := l.kind, targetX := l.targetX, targetY := l.targetY, seq := l.seq, remainder := true }]
          | none => []) ∧
        t.sent =
          (if reaches then [(k.val, .stop c.currentNumber true)]
          else if c.gotoInProgress = true then [(k.val, .limit c.currentNumber g.lo g.hi)] else []) ∧
        Transmitted s t ∧
        t.records = State.records
          { s with
            sent := t.sent, outgoing := t.outgoing, areaLow := levels, bays := t.bays, cranes := t.cranes
            requests := t.requests, writeCount := t.writeCount } ∧
        JournaledInOrder s t (if reaches then [entry] else []) ∧ t.flags = (if reaches then notices else s.flags) ∧
        OnlyWrites s t (s.journalPlace 1)

/-- TRUCK_ARRIVE in range: a bay not EMPTY is answered BAY_STATE; an EMPTY bay with both platform channels ACTIVE becomes
ARRIVING with the truck's record and an arrival session, its cell WORKING with the stage. That zero tracking of the two
channels ends with the order, a partial batch set being discarded at once, is the model's reading, log entry 51. -/
def Obligations.TruckArriveOpensTheArrival : Prop :=
  ∀ (s : State) (o : Order) (rest : List Order) (b : Nat),
    TakenUp s .lu 0x51 o rest → fieldNat o.body 0 1 = b → b ≤ 2 →
    300 ≤ fieldNat o.body 8 2 → fieldNat o.body 8 2 ≤ 1400 → 1 ≤ fieldNat o.body 10 2 → fieldNat o.body 10 2 ≤ 6000 →
    1 ≤ fieldNat o.body 12 2 → fieldNat o.body 12 2 ≤ 6000 → 1 ≤ fieldNat o.body 14 2 → fieldNat o.body 14 2 ≤ 12000 →
    ((s.bay b).state ≠ .empty → exec .truckArrive s = .next (answeredAlone s .lu rest o
      { code := .bayState, area := [byte b, byte (s.bay b).state.code] })) ∧
    ((s.bay b).state = .empty →
      (∀ q ∈ [4 + 2 * b, 5 + 2 * b], (s.channel q).configured = true ∧ (s.channel q).data = true ∧
        (s.channel q).fault = false ∧ (s.channel q).zeroSet = none) →
      ∃ t, exec .truckArrive s = .next t ∧
        t.bay b =
          { s.bay b with
            state := .arriving, truckRef := fieldNat o.body 4 4, spacing := fieldNat o.body 8 2
            frontLimit := fieldNat o.body 10 2, rearLimit := fieldNat o.body 12 2, grossLimit := fieldNat o.body 14 2
            tareFront := 0, tareRear := 0, front := 0, rear := 0, plan := [], remaining := 0
            waitingCell := some (o.cell, o.take)
            session := some { purpose := .arrival, front := {}, rear := {}, count := 0 } } ∧
        (∀ d, d ≠ b → t.bay d = s.bay d) ∧
        (∀ q, t.channel q =
          if q = 4 + 2 * b ∨ q = 5 + 2 * b then { s.channel q with batchSet := none } else s.channel q) ∧
        t.records = State.records { s with sent := [], inboundLU := rest, bays := t.bays, channels := t.channels } ∧
        Working s t o 1)

/-- LOAD_PLAN in a bay state that takes none is answered BAY_STATE. In ARRIVED, a plan of one coil at a station that
passes every check is accepted: the coil is OUTBOUND, the bay LOADING with a BAY_STATE entry, the entry MOVING with its
bed place reserved, its move QUEUED, and the answer gives the entry number and the loads. -/
def Obligations.LoadPlanStartsTheFirstEntry : Prop :=
  (∀ (s : State) (o : Order) (rest : List Order) (b : Nat),
    TakenUp s .lu 0x52 o rest → fieldNat o.body 0 1 = b → b ≤ 2 → (s.bay b).state ≠ .arrived →
    (s.bay b).state ≠ .planHold →
    exec .loadPlan s = .next (answeredAlone s .lu rest o
      { code := .bayState, area := [byte b, byte (s.bay b).state.code] })) ∧
  ∀ (s : State) (o : Order) (rest : List Order) (b r n k m : Nat) (c : Coil),
    let y := s.bay b
    let position := fieldNat o.body 12 2
    let w := c.measured.getD c.declared
    let rear := (w * position + y.spacing / 2) / y.spacing
    let front := w - rear
    TakenUp s .lu 0x52 o rest → fieldNat o.body 0 1 = b → b ≤ 2 → y.state = .arrived → y.plan = [] →
    fieldNat o.body 1 1 = 1 → 1 ≤ fieldNat o.body 8 4 → position ≤ y.spacing →
    s.recordOf (fieldNat o.body 8 4) = some r → s.coil? r = some c → c.place = .station n → c.move = none →
    c.qualityHold = false → c.outbound = false → s.eligible (s.station n).x y.centre k = true →
    s.chooseCrane (s.choiceFor r c []) none y.centre = some k →
    y.tareFront + front ≤ y.frontLimit → y.tareRear + rear ≤ y.rearLimit →
    y.tareFront + front + (y.tareRear + rear) ≤ y.grossLimit →
    (s.crane k).queue.length < 8 → m < 32 → s.move? m = none → (∀ q < m, (s.move? q).isSome = true) →
    s.journalTakes 1 = true →
    ∃ t, exec .loadPlan s = .next t ∧
      t.bay b =
        { y with
          state := .loading, remaining := 1
          plan := [(0, { coil := r, position := position, state := .moving, started := true, bed := .reserved })] } ∧
      (∀ d, d ≠ b → t.bay d = s.bay d) ∧
      t.coil? r = some { c with outbound := true, move := some m } ∧ (∀ q, q ≠ r → t.coil? q = s.coil? q) ∧
      t.station n = { s.station n with state := .leaving, move := some m } ∧
      (∀ d, d ≠ n → t.station d = s.station d) ∧
      t.move? m = some
        { seq := s.nextSeq, origin := .plan b 0, tag := 0, coil := r, source := .station n, dest := .bed b 0
          auto := false, crane := k, phase := .queued, sourceX := (s.station n).x, sourceY := (s.station n).y
          destX := y.centre, destY := min 4000 (y.frontLine + position) } ∧
      (∀ q, q ≠ m → t.move? q = s.move? q) ∧
      t.nextSeq = (if s.nextSeq = 4294967295 then 1 else s.nextSeq + 1) ∧
      t.crane k = { s.crane k with queue := (s.crane k).queue ++ [m] } ∧ (∀ j, j ≠ k → t.crane j = s.crane j) ∧
      t.records = State.records
        { s with
          sent := [], inboundLU := rest, bays := t.bays, coils := t.coils, stations := t.stations, moves := t.moves
          nextSeq := t.nextSeq, cranes := t.cranes, writeCount := t.writeCount } ∧
      JournaledInOrder s t [{ kind := 7, subject := b, detail := [4, 0xFF] }] ∧
      ShowsAnswer t o.cell
        { code := .done
          area := [1, 0, 0, 0, 0, 0, 0, 0] ++ leBytes 2 (y.tareFront + front) ++ leBytes 2 (y.tareRear + rear)
            ++ leBytes 2 (y.tareFront + front + (y.tareRear + rear)) } ∧
      t.flags = s.flags ||| Notice.entry.mask ||| Notice.answer.mask ∧
      OnlyWrites s t (fun a => answerByte o.cell a || s.journalPlace 1 a)

/-- TRUCK_RELEASE in READY or DISCREPANT, no dig move and no move from the bed live: the records of the coils on the bed
are gone, the bay is EMPTY without a truck, with a BAY_STATE entry, and the answer counts the coils. TRUCK_CANCEL in ARRIVED,
or in PLAN_HOLD with every bed entry FREE and no live move of the plan, of a dig or from the bed: every coil of the plan loses
OUTBOUND, and the bay is EMPTY without a truck, with a BAY_STATE entry. Else BAY_STATE. That a live move from the bed refuses
TRUCK_CANCEL is section 7.7's rule as log entry 22 reads it. -/
def Obligations.TrucksLeave : Prop :=
  (∀ (s : State) (o : Order) (rest : List Order) (b : Nat),
    TakenUp s .lu 0x53 o rest → fieldNat o.body 0 1 = b → b ≤ 2 →
    let y := s.bay b
    let live := ∃ p ∈ s.moves, (∃ e, p.2.origin = .dig b e) ∨ ∃ e, p.2.source = .bed b e
    let may := (y.state = .ready ∨ y.state = .discrepant) ∧ ¬live
    let onBed := fun p : Nat × Coil => match p.2.place with
      | .bed d _ => d == b
      | _ => false
    let weights := (y.plan.filter fun p => p.2.bed == .filled || p.2.bed == .leaving).map fun p => p.2.bedWeight.getD 0
    (¬may → exec .truckRelease s = .next (answeredAlone s .lu rest o
      { code := .bayState, area := [byte b, byte y.state.code] })) ∧
    (may → s.journalTakes 1 = true →
      ∃ t, exec .truckRelease s = .next t ∧
        (∀ r, t.coil? r = if s.coils.any (fun p => p.1 == r && onBed p) then none else s.coil? r) ∧
        t.bay b = { y.withoutTruck with state := .empty } ∧ (∀ d, d ≠ b → t.bay d = s.bay d) ∧
        t.records = State.records
          { s with sent := [], inboundLU := rest, coils := t.coils, bays := t.bays, writeCount := t.writeCount } ∧
        JournaledInOrder s t [{ kind := 7, subject := b, detail := [1, 0xFF] }] ∧
        ShowsAnswer t o.cell
          { code := .done
            area := leBytes 4 y.truckRef ++ [byte (s.coils.filter onBed).length, 0] ++ leBytes 2 weights.sum } ∧
        t.flags = s.flags ||| Notice.entry.mask ||| Notice.answer.mask ∧
        OnlyWrites s t (fun a => answerByte o.cell a || s.journalPlace 1 a))) ∧
  ∀ (s : State) (o : Order) (rest : List Order) (b : Nat),
    TakenUp s .lu 0x54 o rest → fieldNat o.body 0 1 = b → b ≤ 2 →
    let y := s.bay b
    let live := ∃ p ∈ s.moves,
      (∃ e, p.2.origin = .plan b e) ∨ (∃ e, p.2.origin = .dig b e) ∨ ∃ e, p.2.source = .bed b e
    let may := y.state = .arrived ∨ y.state = .planHold ∧ (∀ p ∈ y.plan, p.2.bed = .free) ∧ ¬live
    (¬may → exec .truckCancel s = .next (answeredAlone s .lu rest o
      { code := .bayState, area := [byte b, byte y.state.code] })) ∧
    (may → s.journalTakes 1 = true →
      ∃ t, exec .truckCancel s = .next t ∧
        (∀ r, t.coil? r = (s.coil? r).map fun c =>
          if y.plan.any (fun p => p.2.coil == r) then { c with outbound := false } else c) ∧
        t.bay b = { y.withoutTruck with state := .empty } ∧ (∀ d, d ≠ b → t.bay d = s.bay d) ∧
        t.records = State.records
          { s with sent := [], inboundLU := rest, coils := t.coils, bays := t.bays, writeCount := t.writeCount } ∧
        JournaledInOrder s t [{ kind := 7, subject := b, detail := [1, 0xFF] }] ∧
        ShowsAnswer t o.cell { code := .done } ∧
        t.flags = s.flags ||| Notice.entry.mask ||| Notice.answer.mask ∧
        OnlyWrites s t (fun a => answerByte o.cell a || s.journalPlace 1 a))

/-! ## Operating modes -/

/-- When the seven checks of START pass; which check is answered where one fails, with the first crane or column that fails it,
cranes and columns in rising number: check 2 names the crane (1, also where its hook channel is unconfigured too: log entry 63) or
its channel (2), a pair of check 3 its eastern crane and one of check 7 its western, and check 5 the bay, the lowest of several
(log entry 53). A START that fails one is answered with that refusal, and the post queue goes on, a head descriptor whose last
cell is dealt with leaving it (log entry 17); nothing else changes. The three log entries are the model's readings. -/
def Obligations.StartIsCheckedFirst : Prop :=
  (∀ s : State, s.tablesLaw = true →
    let fit := fun c : Nat => c ≤ s.straps ∧ c < 4
    let described := fun c => (s.crane c).configured = true ∧ (s.channel c).configured = true
    let ranged := fun c =>
      s.runway.lo ≤ (s.crane c).svcLo ∧ (s.crane c).svcLo < (s.crane c).svcHi ∧ (s.crane c).svcHi ≤ s.runway.hi
    let inStep := fun c =>
      (s.crane c).svcLo ≤ (s.crane (c + 1)).svcLo ∧ (s.crane c).svcHi ≤ (s.crane (c + 1)).svcHi
    let column := fun a => (s.column a).configured = true
    let x := fun a => (s.column a).x
    let clears := fun a b : Nat =>
      (s.bay b).state = .unconfigured ∨ x a < (s.extent b).lo ∨ (s.extent b).hi < x a
    let sound := fun c => (s.crane c).reported = true ∧ (s.crane c).link = .up ∧ (s.crane c).lock = .locked
    let onRunway := fun c => s.runway.lo ≤ (s.crane c).xLaser ∧ (s.crane c).xLaser ≤ s.runway.hi
    let apart := fun c =>
      (s.crane c).xLaser + s.runway.margin + ((s.crane c).halfWidth + s.runway.gap + (s.crane (c + 1)).halfWidth)
        + s.runway.margin ≤ (s.crane (c + 1)).xLaser
    let pass2 := s.runway.configured = true ∧ ∀ c, fit c → described c
    let pass3 := pass2 ∧ (∀ c, fit c → ranged c) ∧ ∀ c, fit (c + 1) → inStep c
    let pass4 := pass3 ∧ ∀ a b, a < b → column a → column b → x a < x b
    let pass5 := pass4 ∧ ∀ a b, b < 3 → column a → clears a b
    let pass6 := pass5 ∧ ∀ c, fit c → sound c
    let pass7 := pass6 ∧ (∀ c, fit c → onRunway c) ∧ ∀ c, fit (c + 1) → apart c
    let layout := fun check subject second : Nat =>
      s.startRefusal = some { code := .layout, area := [byte check, byte subject, byte second] }
    (s.startRefusal = none ↔ pass7) ∧
    (s.runway.configured = false → layout 1 0 0) ∧
    (∀ c, s.runway.configured = true → fit c → ¬described c → (∀ j < c, described j) →
      layout 2 c (if (s.crane c).configured = true then 2 else 1)) ∧
    (∀ c, pass2 → fit c → ¬ranged c → (∀ j < c, ranged j) → layout 3 c 0) ∧
    (∀ c, pass2 → (∀ j, fit j → ranged j) → fit (c + 1) → ¬inStep c → (∀ j < c, inStep j) → layout 3 (c + 1) 0) ∧
    (∀ a c, pass3 → a < c → column a → column c → x c ≤ x a →
      (∀ p q, p < q → q < c → column p → column q → x p < x q) → layout 4 c 0) ∧
    (∀ a b, pass4 → b < 3 → column a → ¬clears a b → (∀ d < b, clears a d) →
      (∀ p < a, ∀ d < 3, column p → clears p d) → layout 5 a b) ∧
    (∀ c, pass5 → fit c → ¬sound c → (∀ j < c, sound j) → layout 6 c 0) ∧
    (∀ c, pass6 → fit c → ¬onRunway c → (∀ j < c, onRunway j) → layout 7 c 0) ∧
    ∀ c, pass6 → (∀ j, fit j → onRunway j) → fit (c + 1) → ¬apart c → (∀ j < c, apart j) → layout 7 c 0) ∧
  ∀ (s : State) (o : Order) (a : Answer), ModeOrderDue s 0x60 o → s.startRefusal = some a →
    a.code = .layout ∧ ∃ t, exec .start s = .next t ∧
      t.records = State.records { s with sent := [], modeOrder := none, posts := postsGoingOn s.posts } ∧
      Answered s t o a

/-- START with every check passed and no bay closed: RUN, each fitted crane granted the runway around its laser x, the
request list empty, the directory, the MODE entry and notice before the answer. How the post queue goes on is log entry 17, and
the reset-cause byte 0 of the MODE entry log entry 40: the model's readings. -/
def Obligations.StartEntersRun : Prop :=
  ∀ (s : State) (o : Order),
    ModeOrderDue s 0x60 o → s.mode = .setup → s.startRefusal = none → s.closedBays = [] → s.journalTakes 1 = true →
    ∃ t, exec .start s = .next t ∧ t.mode = .run ∧ t.readByte 1 = 2 ∧
      (∀ c, t.crane c =
        if c ≤ s.straps ∧ c < 4 then
          { s.crane c with
            grant :=
              { lo := max (((s.crane c).xLaser : Int) - s.runway.margin) s.runway.lo
                hi := min (((s.crane c).xLaser : Int) + s.runway.margin) s.runway.hi } }
        else s.crane c) ∧
      t.records = State.records
        { s with
          sent := [], mode := .run, modeOrder := none, posts := postsGoingOn s.posts, requests := []
          cranes := t.cranes, writeCount := t.writeCount } ∧
      JournaledInOrder s t [modeEntry .run .setup 0] ∧ ShowsAnswer t o.cell { code := .done } ∧
      t.flags = s.flags ||| Notice.entry.mask ||| Notice.mode.mask ||| Notice.answer.mask ∧
      OnlyWrites s t (fun a => answerByte o.cell a || s.journalPlace 1 a)

/-- HALT_ALL: HALTED; every fitted crane not in FAULT is sent STOP NOW and holds HALT_ALL, one that was IDLE, BUSY or
YIELDING without a cause STOPPED with that state to resume; each cause added is journaled after the MODE entry. How the post
queue goes on is log entry 17, the reset-cause byte 0 log entry 40, and the order of the cranes log entry 55: the model's
readings. -/
def Obligations.HaltAllStopsEveryCrane : Prop :=
  ∀ (s : State) (o : Order),
    let fit := fun c => c ≤ s.straps ∧ c < 4 ∧ (s.crane c).state ≠ .fault
    let added := (List.range 4).filter fun c =>
      decide (c ≤ s.straps) && (s.crane c).state != .fault && !(s.crane c).causes.haltAll
    ModeOrderDue s 0x61 o → s.mode = .run → (∀ c < 4, (s.channel c).zeroSet = none) → s.journalTakes 5 = true →
    ∃ t, exec .haltAll s = .next t ∧ t.mode = .halted ∧ t.readByte 1 = 3 ∧
      (∀ c, t.crane c =
        if fit c then
          let k := s.crane c
          let stops := k.causes = {} ∧ (k.state = .idle ∨ k.state = .busy ∨ k.state = .yielding)
          { k with
            causes := { k.causes with haltAll := true }
            resume := if stops then k.state else k.resume
            state := if stops then .stopped else k.state
            givenUp := if k.step ≠ none ∧ k.givenUp = .no then .stop else k.givenUp }
        else s.crane c) ∧
      t.sent = ((List.range 4).filter fun c => decide (c ≤ s.straps) && (s.crane c).state != .fault).map
        (fun c => (c, .stop (s.crane c).currentNumber true)) ∧
      Transmitted s t ∧
      t.records = State.records
        { s with
          sent := t.sent, outgoing := t.outgoing, mode := .halted, modeOrder := none, posts := postsGoingOn s.posts, cranes := t.cranes
          writeCount := t.writeCount } ∧
      JournaledInOrder s t (modeEntry .halted .run 0 :: added.map fun c => craneStateEntry c 7 1 0) ∧
      ShowsAnswer t o.cell { code := .done } ∧
      t.flags = s.flags ||| Notice.entry.mask ||| Notice.mode.mask ||| Notice.answer.mask
        ||| (if added = [] then 0 else Notice.crane.mask) ∧
      OnlyWrites s t (fun a => answerByte o.cell a || s.journalPlace 5 a)

/-- RESUME: RUN; HALT_ALL leaves every fitted crane's causes, a STOPPED crane left without a cause returning to its resume
state; each removal is journaled after the MODE entry. A crane that returns is sent the step that waited, or else the step a STOP
gave up, under a new number, unless its bay's bed is held (R103). How the post queue goes on is log entry 17, the reset-cause
byte 0 log entry 40, and the order of the cranes log entry 55: the model's readings. -/
def Obligations.ResumeRemovesHaltAll : Prop :=
  ∀ (s : State) (o : Order),
    let removed := (List.range 4).filter fun c => decide (c ≤ s.straps) && (s.crane c).causes.haltAll
    let returns := fun c =>
      decide ({ (s.crane c).causes with haltAll := false } = ({} : Causes)) && (s.crane c).state == .stopped
    let again := fun c : Nat =>
      let k := s.crane c
      if returns c = true ∧ k.resume ≠ .stopped ∧ s.bedHeld c = false then
        match k.waiting, k.step, k.givenUp with
        | some kind, _, _ => some kind
        | none, some st, .stop => some st.kind
        | none, _, _ => none
      else none
    let number := fun c => (s.crane c).numberAfter (s.crane c).doneSeq
    ModeOrderDue s 0x62 o → s.mode = .halted → s.runwayQuiet → s.journalTakes 5 = true →
    ∃ t, exec .resume s = .next t ∧ t.mode = .run ∧ t.readByte 1 = 2 ∧
      (∀ c, t.crane c =
        if c ∈ removed then
          let k := s.crane c
          let back : Crane :=
            { k with
              causes := { k.causes with haltAll := false }
              state := if returns c then k.resume else k.state }
          match again c with
          | some kind =>
            { back with
              lastSeq := number c, step := some { seq := number c, kind := kind }, givenUp := .no, waiting := none
              tagRead := if kind = .tagread then none else k.tagRead }
          | none => back
        else s.crane c) ∧
      t.sent = (removed.filterMap fun c => (again c).map fun kind => (c, match kind with
        | .goto x y => .goto (number c) x y (s.crane c).grant.lo (s.crane c).grant.hi
        | .lower height => .lower (number c) height
        | .grip => .grip (number c)
        | .tagread => .tagread (number c)
        | .hoist height => .hoist (number c) height
        | .release => .release (number c))) ∧
      Transmitted s t ∧
      t.records = State.records
        { s with
          sent := t.sent, outgoing := t.outgoing, mode := .run, modeOrder := none, posts := postsGoingOn s.posts
          cranes := t.cranes, writeCount := t.writeCount } ∧
      JournaledInOrder s t (modeEntry .run .halted 0 :: removed.map fun c => craneStateEntry c 8 1 0) ∧
      ShowsAnswer t o.cell { code := .done } ∧
      t.flags = s.flags ||| Notice.entry.mask ||| Notice.mode.mask ||| Notice.answer.mask
        ||| (if removed = [] then 0 else Notice.crane.mask) ∧
      OnlyWrites s t (fun a => answerByte o.cell a || s.journalPlace 5 a)

/-! ## Publication, laws and the lines -/

/-- The end of a handling writes each image entry and each crane, bay, channel, column and store totals group that it changed
once, whole, between two equal editions, one more than before; the rest keep their bytes and editions, and no record changes.
What counts as changed, a change undone in the same handling included, is the model's reading, log entry 14. The General,
Journal and Intake groups are written at the events that change them, and not here. Every command but the register write
without effect, the resets and the end of the clearing ends so: whatever image entry or group it changed stands written, with the
values it left, the image entry's edition one more than before the command. -/
def Obligations.PublicationWritesWhatChanged : Prop :=
  (∀ (old new : State), new.mode ≠ .resetting →
    (∀ l ∈ [old.slots.keys, new.slots.keys, new.touched.slots], l.Nodup ∧ ∀ i ∈ l, i < 1536) →
    (∀ l ∈ [old.coils.keys, new.coils.keys, new.touched.coils], l.Nodup ∧ ∀ r ∈ l, r < 2048) →
    (∀ l ∈ [old.columns.keys, new.columns.keys], l.Nodup ∧ ∀ c ∈ l, c < 64) →
    let t := publish old new
    t.records = new.records ∧ t.flags = new.flags ∧
    (∀ i < 1536,
      let e := Tab.get 0 new.slotEditions i
      if i ∈ new.touched.slots ∨ slotImageBody old i ≠ slotImageBody new i then
        Tab.get 0 t.slotEditions i = e + 1 ∧
          t.readBytes (0xD000 + 8 * i) 8 = (e + 1) :: slotImageBody new i ++ [e + 1]
      else Tab.get 0 t.slotEditions i = e ∧ t.readBytes (0xD000 + 8 * i) 8 = new.readBytes (0xD000 + 8 * i) 8) ∧
    (∀ r < 2048,
      let e := Tab.get 0 new.coilEditions r
      if r ∈ new.touched.coils ∨ coilImageBody old r ≠ coilImageBody new r then
        Tab.get 0 t.coilEditions r = e + 1 ∧
          t.readBytes (0x10000 + 32 * r) 32 = (e + 1) :: coilImageBody new r ++ [e + 1]
      else Tab.get 0 t.coilEditions r = e ∧ t.readBytes (0x10000 + 32 * r) 32 = new.readBytes (0x10000 + 32 * r) 32) ∧
    ∀ g < 85, (20 ≤ g → g < 84 → g - 20 ∈ old.columns.keys ∨ g - 20 ∈ new.columns.keys) →
      let e := Tab.get 0 new.groupEditions g
      let n := groupBodySize g + 2
      let k := old.crane (g - 3)
      let l := new.crane (g - 3)
      let differs :=
        if g < 7 then
          l.state ≠ k.state ∨ l.causes ≠ k.causes ∨ l.link ≠ k.link ∨ l.lock ≠ k.lock ∨ l.queue ≠ k.queue ∨
            l.grant ≠ k.grant ∨ new.currentMove (g - 3) ≠ old.currentMove (g - 3)
        else groupBody old g ≠ groupBody new g
      let changed := 3 ≤ g ∧ (g ∈ new.touched.groups ∨ differs)
      (changed → Tab.get 0 t.groupEditions g = e + 1 ∧
        t.readBytes (groupOffset g) n = (e + 1) :: groupBody new g ++ [e + 1]) ∧
      (¬changed → Tab.get 0 t.groupEditions g = e ∧ t.readBytes (groupOffset g) n = new.readBytes (groupOffset g) n)) ∧
  ∀ (c : Instr) (s t : State), exec c s = .next t →
    (match c with
      | .registerWriteIgnored .. | .powerOnReset _ | .partReset .. | .clearingComplete => False
      | _ => True) →
    t.mode ≠ .resetting → s.tablesLaw = true → (∀ k ∈ s.columns.keys, k < 64) →
    (∀ i < 1536, slotImageBody s i ≠ slotImageBody t i →
      let e := Tab.get 0 s.slotEditions i + 1
      Tab.get 0 t.slotEditions i = e ∧ t.readBytes (0xD000 + 8 * i) 8 = e :: slotImageBody t i ++ [e]) ∧
    (∀ r < 2048, coilImageBody s r ≠ coilImageBody t r →
      let e := Tab.get 0 s.coilEditions r + 1
      Tab.get 0 t.coilEditions r = e ∧ t.readBytes (0x10000 + 32 * r) 32 = e :: coilImageBody t r ++ [e]) ∧
    ∀ g, 3 ≤ g → g < 85 → (20 ≤ g → g < 84 → g - 20 ∈ t.columns.keys) →
      (if g < 7 then
        let k := s.crane (g - 3)
        let l := t.crane (g - 3)
        l.state ≠ k.state ∨ l.causes ≠ k.causes ∨ l.link ≠ k.link ∨ l.lock ≠ k.lock ∨ l.queue ≠ k.queue ∨
          l.grant ≠ k.grant ∨ t.currentMove (g - 3) ≠ s.currentMove (g - 3)
      else groupBody s g ≠ groupBody t g) →
      ∃ e, t.readBytes (groupOffset g) (groupBodySize g + 2) = e :: groupBody t g ++ [e]

/-- Where the fields of an image entry and of a directory group stand once it is written, and the codes they hold: the
slot and coil image entries, and the crane, bay, channel, column and store totals groups. -/
def Obligations.ImagesAndGroupsShowTheirFields : Prop :=
  (∀ (s : State) (i : Nat),
    let t := s.writeSlotImage i
    let v := s.slot i
    let code := match v.state with | .off => 0 | .free => 1 | .targeted => 2 | .held => 3 | .leaving => 4
    t.readNat (0xD000 + 8 * i + 1) 2 = (v.coil.getD 0 + 4096 * code) % 65536 ∧
    t.readNat (0xD000 + 8 * i + 3) 4 = (((v.coil.bind s.coil?).map Coil.id).getD 0) % 4294967296) ∧
  (∀ (s : State) (r : Nat) (c : Coil), s.coil? r = some c →
    let t := s.writeCoilImage r
    let shows := fun at_ n v : Nat => t.readNat (0x10000 + 32 * r + at_) n = v % 256 ^ n
    let place := match c.place with
      | .slot i => (1, i)
      | .station n => (2, n)
      | .hook k => (3, k)
      | .bed b e => (4, b + 256 * e)
    shows 1 1 (match c.status with
      | .unweighed => 0 | .weighed => 1 | .mismatch => 2 | .unsettled => 3 | .over => 4) ∧
    shows 2 1 (c.qualityHold.toNat + 2 * c.outbound.toNat + 4 * c.placeDoubt.toNat) ∧ shows 3 1 place.1 ∧
    shows 4 2 place.2 ∧ shows 6 2 c.declared ∧ shows 8 2 (c.measured.getD 0xFFFF) ∧ shows 10 2 c.width ∧
    shows 12 2 c.diameter ∧ shows 14 1 c.group ∧ shows 15 1 (c.move.getD 0xFF) ∧ shows 16 4 c.id) ∧
  (∀ (s : State) (c : Nat), c < 4 → (s.crane c).state ≠ .absent →
    let k := s.crane c
    let t := s.writeGroup (3 + c)
    let shows := fun at_ n v : Nat => t.readNat (0x40 + 32 * c + at_) n = v % 256 ^ n
    shows 1 1 (match k.state with
      | .absent => 0 | .out => 1 | .idle => 2 | .busy => 3 | .yielding => 4 | .stopped => 5 | .fault => 6) ∧
    shows 2 1 (k.causes.haltAll.toNat + 2 * k.causes.lockLost.toNat + 4 * k.causes.west.toNat
      + 8 * k.causes.east.toNat) ∧
    shows 3 1 (match k.link with | .up => 0 | .doubt => 1 | .lost => 2) ∧
    shows 4 1 (match k.lock with | .locked => 0 | .lost => 1) ∧
    shows 5 1 (match k.tong with | .open_ => 0 | .closedEmpty => 1 | .closedLoaded => 2) ∧
    shows 6 1 ((s.currentMove c).getD 0xFF) ∧ shows 7 1 k.queue.length ∧
    shows 8 2 (match k.lock with | .locked => k.wholeLaser | .lost => (k.wholeEncoder + k.wholeLaser) / 2) ∧
    shows 10 2 k.y ∧ t.readNat (0x40 + 32 * c + 12) 2 = (BitVec.ofInt 16 k.speed).toNat ∧ shows 14 2 k.grant.lo.toNat ∧
    shows 16 2 k.grant.hi.toNat) ∧
  (∀ (s : State) (c : Nat), c < 4 → (s.crane c).state = .absent →
    (s.writeGroup (3 + c)).readBytes (0x41 + 32 * c) 30 = List.replicate 30 0) ∧
  (∀ (s : State) (b : Nat), b < 3 →
    let k := s.bay b
    let t := s.writeGroup (7 + b)
    let shows := fun at_ n v : Nat => t.readNat (0xC0 + 32 * b + at_) n = v % 256 ^ n
    shows 1 1 (match k.state with
      | .unconfigured => 0 | .empty => 1 | .arriving => 2 | .arrived => 3 | .loading => 4 | .planHold => 5 | .check => 6
      | .ready => 7 | .discrepant => 8) ∧
    shows 2 1 k.occupied.toNat ∧ shows 3 1 k.remaining ∧ shows 4 4 k.truckRef ∧ shows 8 2 k.tareFront ∧
    shows 10 2 k.tareRear ∧ shows 12 2 k.front ∧ shows 14 2 k.rear) ∧
  (∀ (s : State) (k : Nat), k < 10 →
    let h := s.channel k
    let t := s.writeGroup (10 + k)
    t.readNat (0x120 + 16 * k + 1) 1 =
      (if h.fault = true then 2 else if h.configured = true ∧ h.data = true then 1 else 0) ∧
    t.readNat (0x120 + 16 * k + 2) 1 = h.latched.toNat ∧
    t.readNat (0x120 + 16 * k + 4) 4 = (BitVec.ofInt 32 h.zero).toNat ∧
    t.readNat (0x120 + 16 * k + 8) 2 = h.lastWeight % 65536) ∧
  ∀ s : State, s.tablesLaw = true →
    (∀ c < 64,
      let t := s.writeGroup (20 + c)
      let free := fun l : List Nat => (l.filter fun p => (s.slot (24 * c + p)).state == .free).length
      t.readNat (0x200 + 4 * c + 1) 1 = free (List.range 12) ∧
        t.readNat (0x200 + 4 * c + 2) 1 = free ((List.range 11).map (12 + ·))) ∧
    let t := s.writeGroup 84
    let count := fun p : Nat → Bool => (s.slots.keys.filter p).length % 65536
    t.readNat 0x302 2 = s.coils.keys.length % 65536 ∧
      t.readNat 0x304 2 = count (fun i => (s.slot i).state == .free && decide (i % 24 < 12)) ∧
      t.readNat 0x306 2 = count (fun i => (s.slot i).state == .free && decide (12 ≤ i % 24 ∧ i % 24 < 23)) ∧
      t.readNat 0x308 2 = count (fun i => (s.slot i).state == .held)

/-- The laws the invariants keep hold of the state after reset. -/
def Obligations.LawsHoldAtReset : Prop :=
  State.reset.memoryLaw = true ∧ State.reset.postLaw = true ∧ State.reset.holdingLaw = true ∧
    State.reset.waitingLaw = true ∧ State.reset.grantLaw = true ∧ State.reset.tablesLaw = true

/-- Every step keeps exchange memory in its canonical form: offsets rising, no listed byte equal to an unlisted one; and the
column, slot and coil tables listing every number once, in rising order. -/
def Obligations.StepsKeepMemoryAndTablesOrdered : Prop :=
  (∀ s t : State, s.memoryLaw = true → step s = .next t → t.memoryLaw = true) ∧
  ∀ s t : State, s.tablesLaw = true → step s = .next t → t.tablesLaw = true

/-- Every step keeps the post queue at 8 descriptors or fewer, each within the 128 cells, and at most 32 entries held. -/
def Obligations.StepsKeepTheQueuesBounded : Prop :=
  ∀ s t : State, s.postLaw = true → s.holdingLaw = true → step s = .next t → t.postLaw = true ∧ t.holdingLaw = true

/-- Every step keeps the law that an order waiting with its owner is of a kind the owner handles and the mode allows. -/
def Obligations.StepsKeepWaitingOrdersAllowed : Prop :=
  ∀ s t : State, s.waitingLaw = true → step s = .next t → t.waitingLaw = true

/-- Every step keeps the law of the device: in RUN and HALTED adjacent cranes' grants are separated by their clearance,
within the usable runway. -/
def Obligations.StepsKeepGrantsSeparated : Prop :=
  ∀ s t : State, s.waitingLaw = true → s.grantLaw = true → step s = .next t → t.grantLaw = true

/-- Only the resets, the end of the clearing, START, HALT_ALL and RESUME change the mode, each between its two modes. -/
def Obligations.ModesChangeOnlyByTheTable : Prop :=
  ∀ (c : Instr) (s t : State), s.waitingLaw = true → exec c s = .next t → modeChangeAllowed c s.mode t.mode = true

/-- A telegram sent is the telegram received: every STATUS, TAG and SAMPLE body, framed, is read back as its report with
every field at its value; one whose check character is wrong, or one of whose characters after the start character has bad
parity, is bad. -/
def Obligations.TelegramsAreReadBack : Prop :=
  (∀ (address : Nat) (sort : LineSort) (kind : Byte) (body : List Byte) (e : LineEvent),
    ((sort = .craneLink ∧ kind = 0x41 ∧ ∃ r, body = statusBody r ∧ e = .status r) ∨
      (sort = .craneLink ∧ kind = 0x42 ∧ ∃ r, body = tagBody r ∧ e = .tag r) ∨
      (sort = .scaleLine ∧ kind = 0x51 ∧ ∃ r, body = sampleBody r ∧ e = .sample r)) →
    receiveAll sort address none ((frame address kind body).map fun b => { data := b }) = (none, [e]) ∧
    ∀ x : Byte, x ≠ -(sum8 (frameCore address kind body)) →
      receiveAll sort address none
        (((startChar :: frameCore address kind body) ++ [x]).map fun b => { data := b }) = (none, [.bad])) ∧
  ∀ (sort : LineSort) (address : Nat) (got : List Byte) (b : Byte),
    receive sort address (some got) { data := b, parityOk := false } = (none, some .bad)
end

