-- ==== Sys2Proof/Laws/Table.lean ====
section
/-! SUPPORT. Lemmas about the finite tables: what a read finds after a write, and that writes keep the canonical form. -/

namespace Sys2Proof

variable {α : Type}

theorem Tab.find_place (t : Tab α) (k j : Nat) (v : α) (h : t.find k = none) :
    Tab.find (Tab.place k v t) j = if j = k then some v else t.find j := by
  induction t with
  | nil => simp [Tab.place, Tab.find, eq_comm]
  | cons p rest ih =>
    have hp : p.1 ≠ k ∧ Tab.find rest k = none := by
      simp only [Tab.find] at h; split at h <;> simp_all
    simp only [Tab.place]
    split
    · by_cases hj : j = k
      · simp [Tab.find, hj]
      · simp [Tab.find, hj, Ne.symm hj]
    · simp only [Tab.find, ih hp.2]
      split
      · next hpj => simp [← hpj, hp.1]
      · rfl

theorem Tab.find_erase (t : Tab α) (k j : Nat) :
    Tab.find (t.erase k) j = if j = k then none else t.find j := by
  induction t with
  | nil => simp [Tab.erase, Tab.find]
  | cons p rest ih =>
    simp only [Tab.erase] at ih ⊢
    by_cases hp : p.1 = k
    · simp only [List.filter_cons, hp, bne_self_eq_false, Bool.false_eq_true, ↓reduceIte, ih, Tab.find]
      split
      · rfl
      · next hj => simp [Ne.symm hj]
    · have hb : (p.1 != k) = true := by simpa using hp
      simp only [List.filter_cons, hb, ↓reduceIte, Tab.find, ih]
      by_cases hj : p.1 = j
      · simp [hj ▸ hp, hj]
      · simp [hj]

/-- A number written holds what was written; every other number reads as before. -/
theorem Tab.find_put (t : Tab α) (k j : Nat) (v : α) :
    Tab.find (t.put k v) j = if j = k then some v else t.find j := by
  rw [Tab.put, Tab.find_place _ _ _ _ (by simp [Tab.find_erase]), Tab.find_erase]
  split <;> rfl

@[simp] theorem Tab.find_put_self (t : Tab α) (k : Nat) (v : α) : Tab.find (t.put k v) k = some v := by
  simp [Tab.find_put]

/-- A read with a default after a write. -/
theorem Tab.get_put (d : α) (t : Tab α) (k j : Nat) (v : α) :
    Tab.get d (t.put k v) j = if j = k then v else Tab.get d t j := by
  simp only [Tab.get, Tab.find_put]; split <;> rfl

theorem Tab.get_erase (d : α) (t : Tab α) (k j : Nat) :
    Tab.get d (t.erase k) j = if j = k then d else Tab.get d t j := by
  simp only [Tab.get, Tab.find_erase]; split <;> rfl

/-- A read after a write that keeps no default entry. -/
theorem Tab.get_set [DecidableEq α] (d : α) (t : Tab α) (k j : Nat) (v : α) :
    Tab.get d (Tab.set d t k v) j = if j = k then v else Tab.get d t j := by
  simp only [Tab.set]
  split
  · next h => rw [Tab.get_erase, h]
  · exact Tab.get_put ..

theorem Tab.keys_place (t : Tab α) (k : Nat) (v : α) (i : Nat) :
    i ∈ Tab.keys (Tab.place k v t) ↔ i = k ∨ i ∈ t.keys := by
  induction t with
  | nil => simp [Tab.place, Tab.keys]
  | cons p rest ih =>
    simp only [Tab.place]
    split
    · simp [Tab.keys]
    · simp only [Tab.keys, List.map_cons, List.mem_cons] at ih ⊢
      rw [ih]; tauto

theorem Tab.keys_erase (t : Tab α) (k i : Nat) : i ∈ Tab.keys (t.erase k) ↔ i ≠ k ∧ i ∈ t.keys := by
  simp only [Tab.keys, Tab.erase, List.mem_map, List.mem_filter, bne_iff_ne]
  constructor
  · rintro ⟨p, ⟨hp, hk⟩, rfl⟩; exact ⟨hk, p, hp, rfl⟩
  · rintro ⟨hk, p, hp, rfl⟩; exact ⟨p, ⟨hp, hk⟩, rfl⟩

theorem Tab.sorted_erase (t : Tab α) (k : Nat) (h : t.keys.Pairwise (· < ·)) : (t.erase k).keys.Pairwise (· < ·) := by
  simp only [Tab.keys, List.pairwise_map] at h ⊢
  exact h.filter _

theorem Tab.sorted_place (t : Tab α) (k : Nat) (v : α) (h : t.keys.Pairwise (· < ·)) (hk : k ∉ t.keys) :
    (Tab.place k v t).keys.Pairwise (· < ·) := by
  induction t with
  | nil => simp [Tab.place, Tab.keys]
  | cons p rest ih =>
    simp only [Tab.keys, List.map_cons, List.pairwise_cons, List.mem_cons, not_or] at h hk
    simp only [Tab.place]
    split
    · next hlt =>
      simp only [Tab.keys, List.map_cons, List.pairwise_cons, List.mem_cons]
      refine ⟨?_, h⟩
      rintro a (rfl | ha)
      · exact hlt
      · exact hlt.trans (h.1 a ha)
    · next hlt =>
      have ih := ih h.2 hk.2
      simp only [Tab.keys, List.map_cons, List.pairwise_cons]
      refine ⟨?_, ih⟩
      intro a ha
      rcases (Tab.keys_place rest k v a).mp ha with ha | ha
      · have : k ≠ p.1 := hk.1
        omega
      · exact h.1 a ha

theorem Tab.sorted_put (t : Tab α) (k : Nat) (v : α) (h : t.keys.Pairwise (· < ·)) : (t.put k v).keys.Pairwise (· < ·) :=
  Tab.sorted_place _ _ _ (Tab.sorted_erase _ _ h) (by simp [Tab.keys_erase])

theorem Tab.sorted_set [DecidableEq α] (d : α) (t : Tab α) (k : Nat) (v : α) (h : t.keys.Pairwise (· < ·)) :
    (Tab.set d t k v).keys.Pairwise (· < ·) := by
  unfold Tab.set
  split
  exacts [Tab.sorted_erase t k h, Tab.sorted_put t k v h]

theorem Tab.mem_place (t : Tab α) (k : Nat) (v : α) (p : Nat × α) :
    p ∈ Tab.place k v t ↔ p = (k, v) ∨ p ∈ t := by
  induction t with
  | nil => simp [Tab.place]
  | cons q rest ih =>
    simp only [Tab.place]
    split
    · simp
    · simp only [List.mem_cons, ih]; tauto

section Canonical
variable [DecidableEq α] (d : α)

theorem Tab.canonical_iff (t : Tab α) :
    Tab.canonical d t = true ↔ t.keys.Pairwise (· < ·) ∧ ∀ p ∈ t, p.2 ≠ d := by
  simp [Tab.canonical]

theorem Tab.canonical_filter (t : Tab α) (q : Nat × α → Bool) (h : Tab.canonical d t = true) :
    Tab.canonical d (t.filter q) = true := by
  rw [Tab.canonical_iff] at h ⊢
  refine ⟨?_, fun p hp => h.2 p (List.mem_filter.mp hp).1⟩
  have := h.1
  simp only [Tab.keys, List.pairwise_map] at this ⊢
  exact this.filter _

theorem Tab.canonical_erase (t : Tab α) (k : Nat) (h : Tab.canonical d t = true) :
    Tab.canonical d (t.erase k) = true := Tab.canonical_filter d t _ h

/-- Every write keeps the canonical form. -/
theorem Tab.canonical_set (t : Tab α) (k : Nat) (v : α) (h : Tab.canonical d t = true) :
    Tab.canonical d (Tab.set d t k v) = true := by
  simp only [Tab.set]
  split
  · exact Tab.canonical_erase d t k h
  · next hv =>
    have he := (Tab.canonical_iff d _).mp (Tab.canonical_erase d t k h)
    rw [Tab.canonical_iff]
    refine ⟨Tab.sorted_put _ _ _ ((Tab.canonical_iff d _).mp h).1, fun p hp => ?_⟩
    rcases (Tab.mem_place _ _ _ _).mp hp with rfl | hp
    · exact hv
    · exact he.2 p hp

end Canonical

end Sys2Proof
end

