-- ==== Sys2Proof/Laws/State.lean ====
section
/-! SUPPORT. The fields and the records of State after each named update: one lemma per field and per read, true by
unfolding, so that no proof unfolds a record update. -/

namespace Sys2Proof.Machine.State

variable (s : State)

/-! ## setCrane -/

@[simp] theorem setCrane_mode (c : Nat) (v : Crane) : (s.setCrane c v).mode = s.mode := rfl
@[simp] theorem setCrane_resetCause (c : Nat) (v : Crane) : (s.setCrane c v).resetCause = s.resetCause := rfl
@[simp] theorem setCrane_straps (c : Nat) (v : Crane) : (s.setCrane c v).straps = s.straps := rfl
@[simp] theorem setCrane_flags (c : Nat) (v : Crane) : (s.setCrane c v).flags = s.flags := rfl
@[simp] theorem setCrane_enables (c : Nat) (v : Crane) : (s.setCrane c v).enables = s.enables := rfl
@[simp] theorem setCrane_posts (c : Nat) (v : Crane) : (s.setCrane c v).posts = s.posts := rfl
@[simp] theorem setCrane_takeCounter (c : Nat) (v : Crane) : (s.setCrane c v).takeCounter = s.takeCounter := rfl
@[simp] theorem setCrane_lastSkip (c : Nat) (v : Crane) : (s.setCrane c v).lastSkip = s.lastSkip := rfl
@[simp] theorem setCrane_lastRefused (c : Nat) (v : Crane) : (s.setCrane c v).lastRefused = s.lastRefused := rfl
@[simp] theorem setCrane_inboundSU (c : Nat) (v : Crane) : (s.setCrane c v).inboundSU = s.inboundSU := rfl
@[simp] theorem setCrane_inboundRU (c : Nat) (v : Crane) : (s.setCrane c v).inboundRU = s.inboundRU := rfl
@[simp] theorem setCrane_inboundCU (c : Nat) (v : Crane) : (s.setCrane c v).inboundCU = s.inboundCU := rfl
@[simp] theorem setCrane_inboundWU (c : Nat) (v : Crane) : (s.setCrane c v).inboundWU = s.inboundWU := rfl
@[simp] theorem setCrane_inboundLU (c : Nat) (v : Crane) : (s.setCrane c v).inboundLU = s.inboundLU := rfl
@[simp] theorem setCrane_modeOrder (c : Nat) (v : Crane) : (s.setCrane c v).modeOrder = s.modeOrder := rfl
@[simp] theorem setCrane_writeCount (c : Nat) (v : Crane) : (s.setCrane c v).writeCount = s.writeCount := rfl
@[simp] theorem setCrane_holding (c : Nat) (v : Crane) : (s.setCrane c v).holding = s.holding := rfl
@[simp] theorem setCrane_mem (c : Nat) (v : Crane) : (s.setCrane c v).mem = s.mem := rfl
@[simp] theorem setCrane_clearedTo (c : Nat) (v : Crane) : (s.setCrane c v).clearedTo = s.clearedTo := rfl
@[simp] theorem setCrane_groupEditions (c : Nat) (v : Crane) : (s.setCrane c v).groupEditions = s.groupEditions := rfl
@[simp] theorem setCrane_slotEditions (c : Nat) (v : Crane) : (s.setCrane c v).slotEditions = s.slotEditions := rfl
@[simp] theorem setCrane_coilEditions (c : Nat) (v : Crane) : (s.setCrane c v).coilEditions = s.coilEditions := rfl
@[simp] theorem setCrane_columns (c : Nat) (v : Crane) : (s.setCrane c v).columns = s.columns := rfl
@[simp] theorem setCrane_rowY (c : Nat) (v : Crane) : (s.setCrane c v).rowY = s.rowY := rfl
@[simp] theorem setCrane_slots (c : Nat) (v : Crane) : (s.setCrane c v).slots = s.slots := rfl
@[simp] theorem setCrane_stations (c : Nat) (v : Crane) : (s.setCrane c v).stations = s.stations := rfl
@[simp] theorem setCrane_coils (c : Nat) (v : Crane) : (s.setCrane c v).coils = s.coils := rfl
@[simp] theorem setCrane_policy (c : Nat) (v : Crane) : (s.setCrane c v).policy = s.policy := rfl
@[simp] theorem setCrane_runway (c : Nat) (v : Crane) : (s.setCrane c v).runway = s.runway := rfl
@[simp] theorem setCrane_requests (c : Nat) (v : Crane) : (s.setCrane c v).requests = s.requests := rfl
@[simp] theorem setCrane_stalled (c : Nat) (v : Crane) : (s.setCrane c v).stalled = s.stalled := rfl
@[simp] theorem setCrane_moves (c : Nat) (v : Crane) : (s.setCrane c v).moves = s.moves := rfl
@[simp] theorem setCrane_nextSeq (c : Nat) (v : Crane) : (s.setCrane c v).nextSeq = s.nextSeq := rfl
@[simp] theorem setCrane_channels (c : Nat) (v : Crane) : (s.setCrane c v).channels = s.channels := rfl
@[simp] theorem setCrane_bays (c : Nat) (v : Crane) : (s.setCrane c v).bays = s.bays := rfl
@[simp] theorem setCrane_areaLow (c : Nat) (v : Crane) : (s.setCrane c v).areaLow = s.areaLow := rfl
@[simp] theorem setCrane_receiving (c : Nat) (v : Crane) : (s.setCrane c v).receiving = s.receiving := rfl
@[simp] theorem setCrane_outgoing (c : Nat) (v : Crane) : (s.setCrane c v).outgoing = s.outgoing := rfl
@[simp] theorem setCrane_sent (c : Nat) (v : Crane) : (s.setCrane c v).sent = s.sent := rfl
theorem setCrane_touched (c : Nat) (v : Crane) : (s.setCrane c v).touched =
    if (s.crane c).key = v.key then s.touched else s.touched.group (Group.crane c) := rfl
@[simp] theorem setCrane_freeCount (c : Nat) (v : Crane) : (s.setCrane c v).freeCount = s.freeCount := rfl
@[simp] theorem setCrane_pending (c : Nat) (v : Crane) : (s.setCrane c v).pending = s.pending := rfl
@[simp] theorem bay_setCrane (c : Nat) (v : Crane) (j : Nat) : (s.setCrane c v).bay j = s.bay j := rfl
@[simp] theorem channel_setCrane (c : Nat) (v : Crane) (j : Nat) : (s.setCrane c v).channel j = s.channel j := rfl
@[simp] theorem column_setCrane (c : Nat) (v : Crane) (j : Nat) : (s.setCrane c v).column j = s.column j := rfl
@[simp] theorem station_setCrane (c : Nat) (v : Crane) (j : Nat) : (s.setCrane c v).station j = s.station j := rfl
@[simp] theorem slot_setCrane (c : Nat) (v : Crane) (j : Nat) : (s.setCrane c v).slot j = s.slot j := rfl
@[simp] theorem coil_setCrane (c : Nat) (v : Crane) (j : Nat) : (s.setCrane c v).coil? j = s.coil? j := rfl
@[simp] theorem move_setCrane (c : Nat) (v : Crane) (j : Nat) : (s.setCrane c v).move? j = s.move? j := rfl
@[simp] theorem readByte_setCrane (c : Nat) (v : Crane) (j : Nat) : (s.setCrane c v).readByte j = s.readByte j := rfl
@[simp] theorem fitted_setCrane (c : Nat) (v : Crane) (j : Nat) : (s.setCrane c v).fitted j = s.fitted j := rfl
@[simp] theorem inService_setCrane (c : Nat) (v : Crane) : (s.setCrane c v).inService = s.inService := rfl

/-! ## setBay -/

@[simp] theorem setBay_mode (b : Nat) (v : Bay) : (s.setBay b v).mode = s.mode := rfl
@[simp] theorem setBay_resetCause (b : Nat) (v : Bay) : (s.setBay b v).resetCause = s.resetCause := rfl
@[simp] theorem setBay_straps (b : Nat) (v : Bay) : (s.setBay b v).straps = s.straps := rfl
@[simp] theorem setBay_flags (b : Nat) (v : Bay) : (s.setBay b v).flags = s.flags := rfl
@[simp] theorem setBay_enables (b : Nat) (v : Bay) : (s.setBay b v).enables = s.enables := rfl
@[simp] theorem setBay_posts (b : Nat) (v : Bay) : (s.setBay b v).posts = s.posts := rfl
@[simp] theorem setBay_takeCounter (b : Nat) (v : Bay) : (s.setBay b v).takeCounter = s.takeCounter := rfl
@[simp] theorem setBay_lastSkip (b : Nat) (v : Bay) : (s.setBay b v).lastSkip = s.lastSkip := rfl
@[simp] theorem setBay_lastRefused (b : Nat) (v : Bay) : (s.setBay b v).lastRefused = s.lastRefused := rfl
@[simp] theorem setBay_inboundSU (b : Nat) (v : Bay) : (s.setBay b v).inboundSU = s.inboundSU := rfl
@[simp] theorem setBay_inboundRU (b : Nat) (v : Bay) : (s.setBay b v).inboundRU = s.inboundRU := rfl
@[simp] theorem setBay_inboundCU (b : Nat) (v : Bay) : (s.setBay b v).inboundCU = s.inboundCU := rfl
@[simp] theorem setBay_inboundWU (b : Nat) (v : Bay) : (s.setBay b v).inboundWU = s.inboundWU := rfl
@[simp] theorem setBay_inboundLU (b : Nat) (v : Bay) : (s.setBay b v).inboundLU = s.inboundLU := rfl
@[simp] theorem setBay_modeOrder (b : Nat) (v : Bay) : (s.setBay b v).modeOrder = s.modeOrder := rfl
@[simp] theorem setBay_writeCount (b : Nat) (v : Bay) : (s.setBay b v).writeCount = s.writeCount := rfl
@[simp] theorem setBay_holding (b : Nat) (v : Bay) : (s.setBay b v).holding = s.holding := rfl
@[simp] theorem setBay_mem (b : Nat) (v : Bay) : (s.setBay b v).mem = s.mem := rfl
@[simp] theorem setBay_clearedTo (b : Nat) (v : Bay) : (s.setBay b v).clearedTo = s.clearedTo := rfl
@[simp] theorem setBay_groupEditions (b : Nat) (v : Bay) : (s.setBay b v).groupEditions = s.groupEditions := rfl
@[simp] theorem setBay_slotEditions (b : Nat) (v : Bay) : (s.setBay b v).slotEditions = s.slotEditions := rfl
@[simp] theorem setBay_coilEditions (b : Nat) (v : Bay) : (s.setBay b v).coilEditions = s.coilEditions := rfl
@[simp] theorem setBay_columns (b : Nat) (v : Bay) : (s.setBay b v).columns = s.columns := rfl
@[simp] theorem setBay_rowY (b : Nat) (v : Bay) : (s.setBay b v).rowY = s.rowY := rfl
@[simp] theorem setBay_slots (b : Nat) (v : Bay) : (s.setBay b v).slots = s.slots := rfl
@[simp] theorem setBay_stations (b : Nat) (v : Bay) : (s.setBay b v).stations = s.stations := rfl
@[simp] theorem setBay_coils (b : Nat) (v : Bay) : (s.setBay b v).coils = s.coils := rfl
@[simp] theorem setBay_policy (b : Nat) (v : Bay) : (s.setBay b v).policy = s.policy := rfl
@[simp] theorem setBay_runway (b : Nat) (v : Bay) : (s.setBay b v).runway = s.runway := rfl
@[simp] theorem setBay_requests (b : Nat) (v : Bay) : (s.setBay b v).requests = s.requests := rfl
@[simp] theorem setBay_stalled (b : Nat) (v : Bay) : (s.setBay b v).stalled = s.stalled := rfl
@[simp] theorem setBay_cranes (b : Nat) (v : Bay) : (s.setBay b v).cranes = s.cranes := rfl
@[simp] theorem setBay_moves (b : Nat) (v : Bay) : (s.setBay b v).moves = s.moves := rfl
@[simp] theorem setBay_nextSeq (b : Nat) (v : Bay) : (s.setBay b v).nextSeq = s.nextSeq := rfl
@[simp] theorem setBay_channels (b : Nat) (v : Bay) : (s.setBay b v).channels = s.channels := rfl
@[simp] theorem setBay_areaLow (b : Nat) (v : Bay) : (s.setBay b v).areaLow = s.areaLow := rfl
@[simp] theorem setBay_receiving (b : Nat) (v : Bay) : (s.setBay b v).receiving = s.receiving := rfl
@[simp] theorem setBay_outgoing (b : Nat) (v : Bay) : (s.setBay b v).outgoing = s.outgoing := rfl
@[simp] theorem setBay_sent (b : Nat) (v : Bay) : (s.setBay b v).sent = s.sent := rfl
theorem setBay_touched (b : Nat) (v : Bay) : (s.setBay b v).touched =
    if (s.bay b).key = v.key then s.touched else s.touched.group (Group.bay b) := rfl
@[simp] theorem setBay_freeCount (b : Nat) (v : Bay) : (s.setBay b v).freeCount = s.freeCount := rfl
@[simp] theorem setBay_pending (b : Nat) (v : Bay) : (s.setBay b v).pending = s.pending := rfl
@[simp] theorem crane_setBay (b : Nat) (v : Bay) (j : Nat) : (s.setBay b v).crane j = s.crane j := rfl
@[simp] theorem channel_setBay (b : Nat) (v : Bay) (j : Nat) : (s.setBay b v).channel j = s.channel j := rfl
@[simp] theorem column_setBay (b : Nat) (v : Bay) (j : Nat) : (s.setBay b v).column j = s.column j := rfl
@[simp] theorem station_setBay (b : Nat) (v : Bay) (j : Nat) : (s.setBay b v).station j = s.station j := rfl
@[simp] theorem slot_setBay (b : Nat) (v : Bay) (j : Nat) : (s.setBay b v).slot j = s.slot j := rfl
@[simp] theorem coil_setBay (b : Nat) (v : Bay) (j : Nat) : (s.setBay b v).coil? j = s.coil? j := rfl
@[simp] theorem move_setBay (b : Nat) (v : Bay) (j : Nat) : (s.setBay b v).move? j = s.move? j := rfl
@[simp] theorem readByte_setBay (b : Nat) (v : Bay) (j : Nat) : (s.setBay b v).readByte j = s.readByte j := rfl
@[simp] theorem fitted_setBay (b : Nat) (v : Bay) (j : Nat) : (s.setBay b v).fitted j = s.fitted j := rfl
@[simp] theorem inService_setBay (b : Nat) (v : Bay) : (s.setBay b v).inService = s.inService := rfl

/-! ## setChannel -/

@[simp] theorem setChannel_mode (k : Nat) (v : Channel) : (s.setChannel k v).mode = s.mode := rfl
@[simp] theorem setChannel_resetCause (k : Nat) (v : Channel) : (s.setChannel k v).resetCause = s.resetCause := rfl
@[simp] theorem setChannel_straps (k : Nat) (v : Channel) : (s.setChannel k v).straps = s.straps := rfl
@[simp] theorem setChannel_flags (k : Nat) (v : Channel) : (s.setChannel k v).flags = s.flags := rfl
@[simp] theorem setChannel_enables (k : Nat) (v : Channel) : (s.setChannel k v).enables = s.enables := rfl
@[simp] theorem setChannel_posts (k : Nat) (v : Channel) : (s.setChannel k v).posts = s.posts := rfl
@[simp] theorem setChannel_takeCounter (k : Nat) (v : Channel) : (s.setChannel k v).takeCounter = s.takeCounter := rfl
@[simp] theorem setChannel_lastSkip (k : Nat) (v : Channel) : (s.setChannel k v).lastSkip = s.lastSkip := rfl
@[simp] theorem setChannel_lastRefused (k : Nat) (v : Channel) : (s.setChannel k v).lastRefused = s.lastRefused := rfl
@[simp] theorem setChannel_inboundSU (k : Nat) (v : Channel) : (s.setChannel k v).inboundSU = s.inboundSU := rfl
@[simp] theorem setChannel_inboundRU (k : Nat) (v : Channel) : (s.setChannel k v).inboundRU = s.inboundRU := rfl
@[simp] theorem setChannel_inboundCU (k : Nat) (v : Channel) : (s.setChannel k v).inboundCU = s.inboundCU := rfl
@[simp] theorem setChannel_inboundWU (k : Nat) (v : Channel) : (s.setChannel k v).inboundWU = s.inboundWU := rfl
@[simp] theorem setChannel_inboundLU (k : Nat) (v : Channel) : (s.setChannel k v).inboundLU = s.inboundLU := rfl
@[simp] theorem setChannel_modeOrder (k : Nat) (v : Channel) : (s.setChannel k v).modeOrder = s.modeOrder := rfl
@[simp] theorem setChannel_writeCount (k : Nat) (v : Channel) : (s.setChannel k v).writeCount = s.writeCount := rfl
@[simp] theorem setChannel_holding (k : Nat) (v : Channel) : (s.setChannel k v).holding = s.holding := rfl
@[simp] theorem setChannel_mem (k : Nat) (v : Channel) : (s.setChannel k v).mem = s.mem := rfl
@[simp] theorem setChannel_clearedTo (k : Nat) (v : Channel) : (s.setChannel k v).clearedTo = s.clearedTo := rfl
@[simp] theorem setChannel_groupEditions (k : Nat) (v : Channel) : (s.setChannel k v).groupEditions = s.groupEditions := rfl
@[simp] theorem setChannel_slotEditions (k : Nat) (v : Channel) : (s.setChannel k v).slotEditions = s.slotEditions := rfl
@[simp] theorem setChannel_coilEditions (k : Nat) (v : Channel) : (s.setChannel k v).coilEditions = s.coilEditions := rfl
@[simp] theorem setChannel_columns (k : Nat) (v : Channel) : (s.setChannel k v).columns = s.columns := rfl
@[simp] theorem setChannel_rowY (k : Nat) (v : Channel) : (s.setChannel k v).rowY = s.rowY := rfl
@[simp] theorem setChannel_slots (k : Nat) (v : Channel) : (s.setChannel k v).slots = s.slots := rfl
@[simp] theorem setChannel_stations (k : Nat) (v : Channel) : (s.setChannel k v).stations = s.stations := rfl
@[simp] theorem setChannel_coils (k : Nat) (v : Channel) : (s.setChannel k v).coils = s.coils := rfl
@[simp] theorem setChannel_policy (k : Nat) (v : Channel) : (s.setChannel k v).policy = s.policy := rfl
@[simp] theorem setChannel_runway (k : Nat) (v : Channel) : (s.setChannel k v).runway = s.runway := rfl
@[simp] theorem setChannel_requests (k : Nat) (v : Channel) : (s.setChannel k v).requests = s.requests := rfl
@[simp] theorem setChannel_stalled (k : Nat) (v : Channel) : (s.setChannel k v).stalled = s.stalled := rfl
@[simp] theorem setChannel_cranes (k : Nat) (v : Channel) : (s.setChannel k v).cranes = s.cranes := rfl
@[simp] theorem setChannel_moves (k : Nat) (v : Channel) : (s.setChannel k v).moves = s.moves := rfl
@[simp] theorem setChannel_nextSeq (k : Nat) (v : Channel) : (s.setChannel k v).nextSeq = s.nextSeq := rfl
@[simp] theorem setChannel_bays (k : Nat) (v : Channel) : (s.setChannel k v).bays = s.bays := rfl
@[simp] theorem setChannel_areaLow (k : Nat) (v : Channel) : (s.setChannel k v).areaLow = s.areaLow := rfl
@[simp] theorem setChannel_receiving (k : Nat) (v : Channel) : (s.setChannel k v).receiving = s.receiving := rfl
@[simp] theorem setChannel_outgoing (k : Nat) (v : Channel) : (s.setChannel k v).outgoing = s.outgoing := rfl
@[simp] theorem setChannel_sent (k : Nat) (v : Channel) : (s.setChannel k v).sent = s.sent := rfl
theorem setChannel_touched (k : Nat) (v : Channel) : (s.setChannel k v).touched =
    if (s.channel k).key = v.key then s.touched else s.touched.group (Group.channel k) := rfl
@[simp] theorem setChannel_freeCount (k : Nat) (v : Channel) : (s.setChannel k v).freeCount = s.freeCount := rfl
@[simp] theorem setChannel_pending (k : Nat) (v : Channel) : (s.setChannel k v).pending = s.pending := rfl
@[simp] theorem crane_setChannel (k : Nat) (v : Channel) (j : Nat) : (s.setChannel k v).crane j = s.crane j := rfl
@[simp] theorem bay_setChannel (k : Nat) (v : Channel) (j : Nat) : (s.setChannel k v).bay j = s.bay j := rfl
@[simp] theorem column_setChannel (k : Nat) (v : Channel) (j : Nat) : (s.setChannel k v).column j = s.column j := rfl
@[simp] theorem station_setChannel (k : Nat) (v : Channel) (j : Nat) : (s.setChannel k v).station j = s.station j := rfl
@[simp] theorem slot_setChannel (k : Nat) (v : Channel) (j : Nat) : (s.setChannel k v).slot j = s.slot j := rfl
@[simp] theorem coil_setChannel (k : Nat) (v : Channel) (j : Nat) : (s.setChannel k v).coil? j = s.coil? j := rfl
@[simp] theorem move_setChannel (k : Nat) (v : Channel) (j : Nat) : (s.setChannel k v).move? j = s.move? j := rfl
@[simp] theorem readByte_setChannel (k : Nat) (v : Channel) (j : Nat) : (s.setChannel k v).readByte j = s.readByte j := rfl
@[simp] theorem fitted_setChannel (k : Nat) (v : Channel) (j : Nat) : (s.setChannel k v).fitted j = s.fitted j := rfl
@[simp] theorem inService_setChannel (k : Nat) (v : Channel) : (s.setChannel k v).inService = s.inService := rfl

/-! ## setColumn -/

@[simp] theorem setColumn_mode (c : Nat) (v : Column) : (s.setColumn c v).mode = s.mode := rfl
@[simp] theorem setColumn_resetCause (c : Nat) (v : Column) : (s.setColumn c v).resetCause = s.resetCause := rfl
@[simp] theorem setColumn_straps (c : Nat) (v : Column) : (s.setColumn c v).straps = s.straps := rfl
@[simp] theorem setColumn_flags (c : Nat) (v : Column) : (s.setColumn c v).flags = s.flags := rfl
@[simp] theorem setColumn_enables (c : Nat) (v : Column) : (s.setColumn c v).enables = s.enables := rfl
@[simp] theorem setColumn_posts (c : Nat) (v : Column) : (s.setColumn c v).posts = s.posts := rfl
@[simp] theorem setColumn_takeCounter (c : Nat) (v : Column) : (s.setColumn c v).takeCounter = s.takeCounter := rfl
@[simp] theorem setColumn_lastSkip (c : Nat) (v : Column) : (s.setColumn c v).lastSkip = s.lastSkip := rfl
@[simp] theorem setColumn_lastRefused (c : Nat) (v : Column) : (s.setColumn c v).lastRefused = s.lastRefused := rfl
@[simp] theorem setColumn_inboundSU (c : Nat) (v : Column) : (s.setColumn c v).inboundSU = s.inboundSU := rfl
@[simp] theorem setColumn_inboundRU (c : Nat) (v : Column) : (s.setColumn c v).inboundRU = s.inboundRU := rfl
@[simp] theorem setColumn_inboundCU (c : Nat) (v : Column) : (s.setColumn c v).inboundCU = s.inboundCU := rfl
@[simp] theorem setColumn_inboundWU (c : Nat) (v : Column) : (s.setColumn c v).inboundWU = s.inboundWU := rfl
@[simp] theorem setColumn_inboundLU (c : Nat) (v : Column) : (s.setColumn c v).inboundLU = s.inboundLU := rfl
@[simp] theorem setColumn_modeOrder (c : Nat) (v : Column) : (s.setColumn c v).modeOrder = s.modeOrder := rfl
@[simp] theorem setColumn_writeCount (c : Nat) (v : Column) : (s.setColumn c v).writeCount = s.writeCount := rfl
@[simp] theorem setColumn_holding (c : Nat) (v : Column) : (s.setColumn c v).holding = s.holding := rfl
@[simp] theorem setColumn_mem (c : Nat) (v : Column) : (s.setColumn c v).mem = s.mem := rfl
@[simp] theorem setColumn_clearedTo (c : Nat) (v : Column) : (s.setColumn c v).clearedTo = s.clearedTo := rfl
@[simp] theorem setColumn_groupEditions (c : Nat) (v : Column) : (s.setColumn c v).groupEditions = s.groupEditions := rfl
@[simp] theorem setColumn_slotEditions (c : Nat) (v : Column) : (s.setColumn c v).slotEditions = s.slotEditions := rfl
@[simp] theorem setColumn_coilEditions (c : Nat) (v : Column) : (s.setColumn c v).coilEditions = s.coilEditions := rfl
@[simp] theorem setColumn_rowY (c : Nat) (v : Column) : (s.setColumn c v).rowY = s.rowY := rfl
@[simp] theorem setColumn_slots (c : Nat) (v : Column) : (s.setColumn c v).slots = s.slots := rfl
@[simp] theorem setColumn_stations (c : Nat) (v : Column) : (s.setColumn c v).stations = s.stations := rfl
@[simp] theorem setColumn_coils (c : Nat) (v : Column) : (s.setColumn c v).coils = s.coils := rfl
@[simp] theorem setColumn_policy (c : Nat) (v : Column) : (s.setColumn c v).policy = s.policy := rfl
@[simp] theorem setColumn_runway (c : Nat) (v : Column) : (s.setColumn c v).runway = s.runway := rfl
@[simp] theorem setColumn_requests (c : Nat) (v : Column) : (s.setColumn c v).requests = s.requests := rfl
@[simp] theorem setColumn_stalled (c : Nat) (v : Column) : (s.setColumn c v).stalled = s.stalled := rfl
@[simp] theorem setColumn_cranes (c : Nat) (v : Column) : (s.setColumn c v).cranes = s.cranes := rfl
@[simp] theorem setColumn_moves (c : Nat) (v : Column) : (s.setColumn c v).moves = s.moves := rfl
@[simp] theorem setColumn_nextSeq (c : Nat) (v : Column) : (s.setColumn c v).nextSeq = s.nextSeq := rfl
@[simp] theorem setColumn_channels (c : Nat) (v : Column) : (s.setColumn c v).channels = s.channels := rfl
@[simp] theorem setColumn_bays (c : Nat) (v : Column) : (s.setColumn c v).bays = s.bays := rfl
@[simp] theorem setColumn_areaLow (c : Nat) (v : Column) : (s.setColumn c v).areaLow = s.areaLow := rfl
@[simp] theorem setColumn_receiving (c : Nat) (v : Column) : (s.setColumn c v).receiving = s.receiving := rfl
@[simp] theorem setColumn_outgoing (c : Nat) (v : Column) : (s.setColumn c v).outgoing = s.outgoing := rfl
@[simp] theorem setColumn_sent (c : Nat) (v : Column) : (s.setColumn c v).sent = s.sent := rfl
@[simp] theorem setColumn_touched (c : Nat) (v : Column) : (s.setColumn c v).touched = s.touched := rfl
@[simp] theorem setColumn_freeCount (c : Nat) (v : Column) : (s.setColumn c v).freeCount = s.freeCount := rfl
@[simp] theorem setColumn_pending (c : Nat) (v : Column) : (s.setColumn c v).pending = s.pending := rfl
@[simp] theorem crane_setColumn (c : Nat) (v : Column) (j : Nat) : (s.setColumn c v).crane j = s.crane j := rfl
@[simp] theorem bay_setColumn (c : Nat) (v : Column) (j : Nat) : (s.setColumn c v).bay j = s.bay j := rfl
@[simp] theorem channel_setColumn (c : Nat) (v : Column) (j : Nat) : (s.setColumn c v).channel j = s.channel j := rfl
@[simp] theorem station_setColumn (c : Nat) (v : Column) (j : Nat) : (s.setColumn c v).station j = s.station j := rfl
@[simp] theorem slot_setColumn (c : Nat) (v : Column) (j : Nat) : (s.setColumn c v).slot j = s.slot j := rfl
@[simp] theorem coil_setColumn (c : Nat) (v : Column) (j : Nat) : (s.setColumn c v).coil? j = s.coil? j := rfl
@[simp] theorem move_setColumn (c : Nat) (v : Column) (j : Nat) : (s.setColumn c v).move? j = s.move? j := rfl
@[simp] theorem readByte_setColumn (c : Nat) (v : Column) (j : Nat) : (s.setColumn c v).readByte j = s.readByte j := rfl
@[simp] theorem fitted_setColumn (c : Nat) (v : Column) (j : Nat) : (s.setColumn c v).fitted j = s.fitted j := rfl
@[simp] theorem inService_setColumn (c : Nat) (v : Column) : (s.setColumn c v).inService = s.inService := rfl

/-! ## setStation -/

@[simp] theorem setStation_mode (n : Nat) (v : Station) : (s.setStation n v).mode = s.mode := rfl
@[simp] theorem setStation_resetCause (n : Nat) (v : Station) : (s.setStation n v).resetCause = s.resetCause := rfl
@[simp] theorem setStation_straps (n : Nat) (v : Station) : (s.setStation n v).straps = s.straps := rfl
@[simp] theorem setStation_flags (n : Nat) (v : Station) : (s.setStation n v).flags = s.flags := rfl
@[simp] theorem setStation_enables (n : Nat) (v : Station) : (s.setStation n v).enables = s.enables := rfl
@[simp] theorem setStation_posts (n : Nat) (v : Station) : (s.setStation n v).posts = s.posts := rfl
@[simp] theorem setStation_takeCounter (n : Nat) (v : Station) : (s.setStation n v).takeCounter = s.takeCounter := rfl
@[simp] theorem setStation_lastSkip (n : Nat) (v : Station) : (s.setStation n v).lastSkip = s.lastSkip := rfl
@[simp] theorem setStation_lastRefused (n : Nat) (v : Station) : (s.setStation n v).lastRefused = s.lastRefused := rfl
@[simp] theorem setStation_inboundSU (n : Nat) (v : Station) : (s.setStation n v).inboundSU = s.inboundSU := rfl
@[simp] theorem setStation_inboundRU (n : Nat) (v : Station) : (s.setStation n v).inboundRU = s.inboundRU := rfl
@[simp] theorem setStation_inboundCU (n : Nat) (v : Station) : (s.setStation n v).inboundCU = s.inboundCU := rfl
@[simp] theorem setStation_inboundWU (n : Nat) (v : Station) : (s.setStation n v).inboundWU = s.inboundWU := rfl
@[simp] theorem setStation_inboundLU (n : Nat) (v : Station) : (s.setStation n v).inboundLU = s.inboundLU := rfl
@[simp] theorem setStation_modeOrder (n : Nat) (v : Station) : (s.setStation n v).modeOrder = s.modeOrder := rfl
@[simp] theorem setStation_writeCount (n : Nat) (v : Station) : (s.setStation n v).writeCount = s.writeCount := rfl
@[simp] theorem setStation_holding (n : Nat) (v : Station) : (s.setStation n v).holding = s.holding := rfl
@[simp] theorem setStation_mem (n : Nat) (v : Station) : (s.setStation n v).mem = s.mem := rfl
@[simp] theorem setStation_clearedTo (n : Nat) (v : Station) : (s.setStation n v).clearedTo = s.clearedTo := rfl
@[simp] theorem setStation_groupEditions (n : Nat) (v : Station) : (s.setStation n v).groupEditions = s.groupEditions := rfl
@[simp] theorem setStation_slotEditions (n : Nat) (v : Station) : (s.setStation n v).slotEditions = s.slotEditions := rfl
@[simp] theorem setStation_coilEditions (n : Nat) (v : Station) : (s.setStation n v).coilEditions = s.coilEditions := rfl
@[simp] theorem setStation_columns (n : Nat) (v : Station) : (s.setStation n v).columns = s.columns := rfl
@[simp] theorem setStation_rowY (n : Nat) (v : Station) : (s.setStation n v).rowY = s.rowY := rfl
@[simp] theorem setStation_slots (n : Nat) (v : Station) : (s.setStation n v).slots = s.slots := rfl
@[simp] theorem setStation_coils (n : Nat) (v : Station) : (s.setStation n v).coils = s.coils := rfl
@[simp] theorem setStation_policy (n : Nat) (v : Station) : (s.setStation n v).policy = s.policy := rfl
@[simp] theorem setStation_runway (n : Nat) (v : Station) : (s.setStation n v).runway = s.runway := rfl
@[simp] theorem setStation_requests (n : Nat) (v : Station) : (s.setStation n v).requests = s.requests := rfl
@[simp] theorem setStation_stalled (n : Nat) (v : Station) : (s.setStation n v).stalled = s.stalled := rfl
@[simp] theorem setStation_cranes (n : Nat) (v : Station) : (s.setStation n v).cranes = s.cranes := rfl
@[simp] theorem setStation_moves (n : Nat) (v : Station) : (s.setStation n v).moves = s.moves := rfl
@[simp] theorem setStation_nextSeq (n : Nat) (v : Station) : (s.setStation n v).nextSeq = s.nextSeq := rfl
@[simp] theorem setStation_channels (n : Nat) (v : Station) : (s.setStation n v).channels = s.channels := rfl
@[simp] theorem setStation_bays (n : Nat) (v : Station) : (s.setStation n v).bays = s.bays := rfl
@[simp] theorem setStation_areaLow (n : Nat) (v : Station) : (s.setStation n v).areaLow = s.areaLow := rfl
@[simp] theorem setStation_receiving (n : Nat) (v : Station) : (s.setStation n v).receiving = s.receiving := rfl
@[simp] theorem setStation_outgoing (n : Nat) (v : Station) : (s.setStation n v).outgoing = s.outgoing := rfl
@[simp] theorem setStation_sent (n : Nat) (v : Station) : (s.setStation n v).sent = s.sent := rfl
@[simp] theorem setStation_touched (n : Nat) (v : Station) : (s.setStation n v).touched = s.touched := rfl
@[simp] theorem setStation_freeCount (n : Nat) (v : Station) : (s.setStation n v).freeCount = s.freeCount := rfl
@[simp] theorem setStation_pending (n : Nat) (v : Station) : (s.setStation n v).pending = s.pending := rfl
@[simp] theorem crane_setStation (n : Nat) (v : Station) (j : Nat) : (s.setStation n v).crane j = s.crane j := rfl
@[simp] theorem bay_setStation (n : Nat) (v : Station) (j : Nat) : (s.setStation n v).bay j = s.bay j := rfl
@[simp] theorem channel_setStation (n : Nat) (v : Station) (j : Nat) : (s.setStation n v).channel j = s.channel j := rfl
@[simp] theorem column_setStation (n : Nat) (v : Station) (j : Nat) : (s.setStation n v).column j = s.column j := rfl
@[simp] theorem slot_setStation (n : Nat) (v : Station) (j : Nat) : (s.setStation n v).slot j = s.slot j := rfl
@[simp] theorem coil_setStation (n : Nat) (v : Station) (j : Nat) : (s.setStation n v).coil? j = s.coil? j := rfl
@[simp] theorem move_setStation (n : Nat) (v : Station) (j : Nat) : (s.setStation n v).move? j = s.move? j := rfl
@[simp] theorem readByte_setStation (n : Nat) (v : Station) (j : Nat) : (s.setStation n v).readByte j = s.readByte j := rfl
@[simp] theorem fitted_setStation (n : Nat) (v : Station) (j : Nat) : (s.setStation n v).fitted j = s.fitted j := rfl
@[simp] theorem inService_setStation (n : Nat) (v : Station) : (s.setStation n v).inService = s.inService := rfl

/-! ## setSlot -/

@[simp] theorem setSlot_mode (i : Nat) (v : Slot) : (s.setSlot i v).mode = s.mode := rfl
@[simp] theorem setSlot_resetCause (i : Nat) (v : Slot) : (s.setSlot i v).resetCause = s.resetCause := rfl
@[simp] theorem setSlot_straps (i : Nat) (v : Slot) : (s.setSlot i v).straps = s.straps := rfl
@[simp] theorem setSlot_flags (i : Nat) (v : Slot) : (s.setSlot i v).flags = s.flags := rfl
@[simp] theorem setSlot_enables (i : Nat) (v : Slot) : (s.setSlot i v).enables = s.enables := rfl
@[simp] theorem setSlot_posts (i : Nat) (v : Slot) : (s.setSlot i v).posts = s.posts := rfl
@[simp] theorem setSlot_takeCounter (i : Nat) (v : Slot) : (s.setSlot i v).takeCounter = s.takeCounter := rfl
@[simp] theorem setSlot_lastSkip (i : Nat) (v : Slot) : (s.setSlot i v).lastSkip = s.lastSkip := rfl
@[simp] theorem setSlot_lastRefused (i : Nat) (v : Slot) : (s.setSlot i v).lastRefused = s.lastRefused := rfl
@[simp] theorem setSlot_inboundSU (i : Nat) (v : Slot) : (s.setSlot i v).inboundSU = s.inboundSU := rfl
@[simp] theorem setSlot_inboundRU (i : Nat) (v : Slot) : (s.setSlot i v).inboundRU = s.inboundRU := rfl
@[simp] theorem setSlot_inboundCU (i : Nat) (v : Slot) : (s.setSlot i v).inboundCU = s.inboundCU := rfl
@[simp] theorem setSlot_inboundWU (i : Nat) (v : Slot) : (s.setSlot i v).inboundWU = s.inboundWU := rfl
@[simp] theorem setSlot_inboundLU (i : Nat) (v : Slot) : (s.setSlot i v).inboundLU = s.inboundLU := rfl
@[simp] theorem setSlot_modeOrder (i : Nat) (v : Slot) : (s.setSlot i v).modeOrder = s.modeOrder := rfl
@[simp] theorem setSlot_writeCount (i : Nat) (v : Slot) : (s.setSlot i v).writeCount = s.writeCount := rfl
@[simp] theorem setSlot_holding (i : Nat) (v : Slot) : (s.setSlot i v).holding = s.holding := rfl
@[simp] theorem setSlot_mem (i : Nat) (v : Slot) : (s.setSlot i v).mem = s.mem := rfl
@[simp] theorem setSlot_clearedTo (i : Nat) (v : Slot) : (s.setSlot i v).clearedTo = s.clearedTo := rfl
@[simp] theorem setSlot_groupEditions (i : Nat) (v : Slot) : (s.setSlot i v).groupEditions = s.groupEditions := rfl
@[simp] theorem setSlot_slotEditions (i : Nat) (v : Slot) : (s.setSlot i v).slotEditions = s.slotEditions := rfl
@[simp] theorem setSlot_coilEditions (i : Nat) (v : Slot) : (s.setSlot i v).coilEditions = s.coilEditions := rfl
@[simp] theorem setSlot_columns (i : Nat) (v : Slot) : (s.setSlot i v).columns = s.columns := rfl
@[simp] theorem setSlot_rowY (i : Nat) (v : Slot) : (s.setSlot i v).rowY = s.rowY := rfl
@[simp] theorem setSlot_stations (i : Nat) (v : Slot) : (s.setSlot i v).stations = s.stations := rfl
@[simp] theorem setSlot_coils (i : Nat) (v : Slot) : (s.setSlot i v).coils = s.coils := rfl
@[simp] theorem setSlot_policy (i : Nat) (v : Slot) : (s.setSlot i v).policy = s.policy := rfl
@[simp] theorem setSlot_runway (i : Nat) (v : Slot) : (s.setSlot i v).runway = s.runway := rfl
@[simp] theorem setSlot_requests (i : Nat) (v : Slot) : (s.setSlot i v).requests = s.requests := rfl
@[simp] theorem setSlot_stalled (i : Nat) (v : Slot) : (s.setSlot i v).stalled = s.stalled := rfl
@[simp] theorem setSlot_cranes (i : Nat) (v : Slot) : (s.setSlot i v).cranes = s.cranes := rfl
@[simp] theorem setSlot_moves (i : Nat) (v : Slot) : (s.setSlot i v).moves = s.moves := rfl
@[simp] theorem setSlot_nextSeq (i : Nat) (v : Slot) : (s.setSlot i v).nextSeq = s.nextSeq := rfl
@[simp] theorem setSlot_channels (i : Nat) (v : Slot) : (s.setSlot i v).channels = s.channels := rfl
@[simp] theorem setSlot_bays (i : Nat) (v : Slot) : (s.setSlot i v).bays = s.bays := rfl
@[simp] theorem setSlot_areaLow (i : Nat) (v : Slot) : (s.setSlot i v).areaLow = s.areaLow := rfl
@[simp] theorem setSlot_receiving (i : Nat) (v : Slot) : (s.setSlot i v).receiving = s.receiving := rfl
@[simp] theorem setSlot_outgoing (i : Nat) (v : Slot) : (s.setSlot i v).outgoing = s.outgoing := rfl
@[simp] theorem setSlot_sent (i : Nat) (v : Slot) : (s.setSlot i v).sent = s.sent := rfl
theorem setSlot_touched (i : Nat) (v : Slot) : (s.setSlot i v).touched =
    (if (s.slot i).state = v.state ∧ (s.slot i).coil = v.coil then s.touched else s.touched.slot i).counts i
        (s.slot i).state v.state := rfl
@[simp] theorem setSlot_freeCount (i : Nat) (v : Slot) : (s.setSlot i v).freeCount = s.freeCount := rfl
@[simp] theorem setSlot_pending (i : Nat) (v : Slot) : (s.setSlot i v).pending = s.pending := rfl
@[simp] theorem crane_setSlot (i : Nat) (v : Slot) (j : Nat) : (s.setSlot i v).crane j = s.crane j := rfl
@[simp] theorem bay_setSlot (i : Nat) (v : Slot) (j : Nat) : (s.setSlot i v).bay j = s.bay j := rfl
@[simp] theorem channel_setSlot (i : Nat) (v : Slot) (j : Nat) : (s.setSlot i v).channel j = s.channel j := rfl
@[simp] theorem column_setSlot (i : Nat) (v : Slot) (j : Nat) : (s.setSlot i v).column j = s.column j := rfl
@[simp] theorem station_setSlot (i : Nat) (v : Slot) (j : Nat) : (s.setSlot i v).station j = s.station j := rfl
@[simp] theorem coil_setSlot (i : Nat) (v : Slot) (j : Nat) : (s.setSlot i v).coil? j = s.coil? j := rfl
@[simp] theorem move_setSlot (i : Nat) (v : Slot) (j : Nat) : (s.setSlot i v).move? j = s.move? j := rfl
@[simp] theorem readByte_setSlot (i : Nat) (v : Slot) (j : Nat) : (s.setSlot i v).readByte j = s.readByte j := rfl
@[simp] theorem fitted_setSlot (i : Nat) (v : Slot) (j : Nat) : (s.setSlot i v).fitted j = s.fitted j := rfl
@[simp] theorem inService_setSlot (i : Nat) (v : Slot) : (s.setSlot i v).inService = s.inService := rfl

/-! ## setCoil -/

@[simp] theorem setCoil_mode (r : Nat) (v : Coil) : (s.setCoil r v).mode = s.mode := rfl
@[simp] theorem setCoil_resetCause (r : Nat) (v : Coil) : (s.setCoil r v).resetCause = s.resetCause := rfl
@[simp] theorem setCoil_straps (r : Nat) (v : Coil) : (s.setCoil r v).straps = s.straps := rfl
@[simp] theorem setCoil_flags (r : Nat) (v : Coil) : (s.setCoil r v).flags = s.flags := rfl
@[simp] theorem setCoil_enables (r : Nat) (v : Coil) : (s.setCoil r v).enables = s.enables := rfl
@[simp] theorem setCoil_posts (r : Nat) (v : Coil) : (s.setCoil r v).posts = s.posts := rfl
@[simp] theorem setCoil_takeCounter (r : Nat) (v : Coil) : (s.setCoil r v).takeCounter = s.takeCounter := rfl
@[simp] theorem setCoil_lastSkip (r : Nat) (v : Coil) : (s.setCoil r v).lastSkip = s.lastSkip := rfl
@[simp] theorem setCoil_lastRefused (r : Nat) (v : Coil) : (s.setCoil r v).lastRefused = s.lastRefused := rfl
@[simp] theorem setCoil_inboundSU (r : Nat) (v : Coil) : (s.setCoil r v).inboundSU = s.inboundSU := rfl
@[simp] theorem setCoil_inboundRU (r : Nat) (v : Coil) : (s.setCoil r v).inboundRU = s.inboundRU := rfl
@[simp] theorem setCoil_inboundCU (r : Nat) (v : Coil) : (s.setCoil r v).inboundCU = s.inboundCU := rfl
@[simp] theorem setCoil_inboundWU (r : Nat) (v : Coil) : (s.setCoil r v).inboundWU = s.inboundWU := rfl
@[simp] theorem setCoil_inboundLU (r : Nat) (v : Coil) : (s.setCoil r v).inboundLU = s.inboundLU := rfl
@[simp] theorem setCoil_modeOrder (r : Nat) (v : Coil) : (s.setCoil r v).modeOrder = s.modeOrder := rfl
@[simp] theorem setCoil_writeCount (r : Nat) (v : Coil) : (s.setCoil r v).writeCount = s.writeCount := rfl
@[simp] theorem setCoil_holding (r : Nat) (v : Coil) : (s.setCoil r v).holding = s.holding := rfl
@[simp] theorem setCoil_mem (r : Nat) (v : Coil) : (s.setCoil r v).mem = s.mem := rfl
@[simp] theorem setCoil_clearedTo (r : Nat) (v : Coil) : (s.setCoil r v).clearedTo = s.clearedTo := rfl
@[simp] theorem setCoil_groupEditions (r : Nat) (v : Coil) : (s.setCoil r v).groupEditions = s.groupEditions := rfl
@[simp] theorem setCoil_slotEditions (r : Nat) (v : Coil) : (s.setCoil r v).slotEditions = s.slotEditions := rfl
@[simp] theorem setCoil_coilEditions (r : Nat) (v : Coil) : (s.setCoil r v).coilEditions = s.coilEditions := rfl
@[simp] theorem setCoil_columns (r : Nat) (v : Coil) : (s.setCoil r v).columns = s.columns := rfl
@[simp] theorem setCoil_rowY (r : Nat) (v : Coil) : (s.setCoil r v).rowY = s.rowY := rfl
@[simp] theorem setCoil_slots (r : Nat) (v : Coil) : (s.setCoil r v).slots = s.slots := rfl
@[simp] theorem setCoil_stations (r : Nat) (v : Coil) : (s.setCoil r v).stations = s.stations := rfl
@[simp] theorem setCoil_policy (r : Nat) (v : Coil) : (s.setCoil r v).policy = s.policy := rfl
@[simp] theorem setCoil_runway (r : Nat) (v : Coil) : (s.setCoil r v).runway = s.runway := rfl
@[simp] theorem setCoil_requests (r : Nat) (v : Coil) : (s.setCoil r v).requests = s.requests := rfl
@[simp] theorem setCoil_stalled (r : Nat) (v : Coil) : (s.setCoil r v).stalled = s.stalled := rfl
@[simp] theorem setCoil_cranes (r : Nat) (v : Coil) : (s.setCoil r v).cranes = s.cranes := rfl
@[simp] theorem setCoil_moves (r : Nat) (v : Coil) : (s.setCoil r v).moves = s.moves := rfl
@[simp] theorem setCoil_nextSeq (r : Nat) (v : Coil) : (s.setCoil r v).nextSeq = s.nextSeq := rfl
@[simp] theorem setCoil_channels (r : Nat) (v : Coil) : (s.setCoil r v).channels = s.channels := rfl
@[simp] theorem setCoil_bays (r : Nat) (v : Coil) : (s.setCoil r v).bays = s.bays := rfl
@[simp] theorem setCoil_areaLow (r : Nat) (v : Coil) : (s.setCoil r v).areaLow = s.areaLow := rfl
@[simp] theorem setCoil_receiving (r : Nat) (v : Coil) : (s.setCoil r v).receiving = s.receiving := rfl
@[simp] theorem setCoil_outgoing (r : Nat) (v : Coil) : (s.setCoil r v).outgoing = s.outgoing := rfl
@[simp] theorem setCoil_sent (r : Nat) (v : Coil) : (s.setCoil r v).sent = s.sent := rfl
theorem setCoil_touched (r : Nat) (v : Coil) : (s.setCoil r v).touched =
    match s.coil? r with
    | some c => if c = v then s.touched else s.touched.coil r
    | none => (s.touched.coil r).group Group.totals := rfl
@[simp] theorem setCoil_freeCount (r : Nat) (v : Coil) : (s.setCoil r v).freeCount = s.freeCount := rfl
@[simp] theorem setCoil_pending (r : Nat) (v : Coil) : (s.setCoil r v).pending = s.pending := rfl
@[simp] theorem crane_setCoil (r : Nat) (v : Coil) (j : Nat) : (s.setCoil r v).crane j = s.crane j := rfl
@[simp] theorem bay_setCoil (r : Nat) (v : Coil) (j : Nat) : (s.setCoil r v).bay j = s.bay j := rfl
@[simp] theorem channel_setCoil (r : Nat) (v : Coil) (j : Nat) : (s.setCoil r v).channel j = s.channel j := rfl
@[simp] theorem column_setCoil (r : Nat) (v : Coil) (j : Nat) : (s.setCoil r v).column j = s.column j := rfl
@[simp] theorem station_setCoil (r : Nat) (v : Coil) (j : Nat) : (s.setCoil r v).station j = s.station j := rfl
@[simp] theorem slot_setCoil (r : Nat) (v : Coil) (j : Nat) : (s.setCoil r v).slot j = s.slot j := rfl
@[simp] theorem move_setCoil (r : Nat) (v : Coil) (j : Nat) : (s.setCoil r v).move? j = s.move? j := rfl
@[simp] theorem readByte_setCoil (r : Nat) (v : Coil) (j : Nat) : (s.setCoil r v).readByte j = s.readByte j := rfl
@[simp] theorem fitted_setCoil (r : Nat) (v : Coil) (j : Nat) : (s.setCoil r v).fitted j = s.fitted j := rfl
@[simp] theorem inService_setCoil (r : Nat) (v : Coil) : (s.setCoil r v).inService = s.inService := rfl

/-! ## removeCoil -/

@[simp] theorem removeCoil_mode (r : Nat) : (s.removeCoil r).mode = s.mode := rfl
@[simp] theorem removeCoil_resetCause (r : Nat) : (s.removeCoil r).resetCause = s.resetCause := rfl
@[simp] theorem removeCoil_straps (r : Nat) : (s.removeCoil r).straps = s.straps := rfl
@[simp] theorem removeCoil_flags (r : Nat) : (s.removeCoil r).flags = s.flags := rfl
@[simp] theorem removeCoil_enables (r : Nat) : (s.removeCoil r).enables = s.enables := rfl
@[simp] theorem removeCoil_posts (r : Nat) : (s.removeCoil r).posts = s.posts := rfl
@[simp] theorem removeCoil_takeCounter (r : Nat) : (s.removeCoil r).takeCounter = s.takeCounter := rfl
@[simp] theorem removeCoil_lastSkip (r : Nat) : (s.removeCoil r).lastSkip = s.lastSkip := rfl
@[simp] theorem removeCoil_lastRefused (r : Nat) : (s.removeCoil r).lastRefused = s.lastRefused := rfl
@[simp] theorem removeCoil_inboundSU (r : Nat) : (s.removeCoil r).inboundSU = s.inboundSU := rfl
@[simp] theorem removeCoil_inboundRU (r : Nat) : (s.removeCoil r).inboundRU = s.inboundRU := rfl
@[simp] theorem removeCoil_inboundCU (r : Nat) : (s.removeCoil r).inboundCU = s.inboundCU := rfl
@[simp] theorem removeCoil_inboundWU (r : Nat) : (s.removeCoil r).inboundWU = s.inboundWU := rfl
@[simp] theorem removeCoil_inboundLU (r : Nat) : (s.removeCoil r).inboundLU = s.inboundLU := rfl
@[simp] theorem removeCoil_modeOrder (r : Nat) : (s.removeCoil r).modeOrder = s.modeOrder := rfl
@[simp] theorem removeCoil_writeCount (r : Nat) : (s.removeCoil r).writeCount = s.writeCount := rfl
@[simp] theorem removeCoil_holding (r : Nat) : (s.removeCoil r).holding = s.holding := rfl
@[simp] theorem removeCoil_mem (r : Nat) : (s.removeCoil r).mem = s.mem := rfl
@[simp] theorem removeCoil_clearedTo (r : Nat) : (s.removeCoil r).clearedTo = s.clearedTo := rfl
@[simp] theorem removeCoil_groupEditions (r : Nat) : (s.removeCoil r).groupEditions = s.groupEditions := rfl
@[simp] theorem removeCoil_slotEditions (r : Nat) : (s.removeCoil r).slotEditions = s.slotEditions := rfl
@[simp] theorem removeCoil_coilEditions (r : Nat) : (s.removeCoil r).coilEditions = s.coilEditions := rfl
@[simp] theorem removeCoil_columns (r : Nat) : (s.removeCoil r).columns = s.columns := rfl
@[simp] theorem removeCoil_rowY (r : Nat) : (s.removeCoil r).rowY = s.rowY := rfl
@[simp] theorem removeCoil_slots (r : Nat) : (s.removeCoil r).slots = s.slots := rfl
@[simp] theorem removeCoil_stations (r : Nat) : (s.removeCoil r).stations = s.stations := rfl
@[simp] theorem removeCoil_policy (r : Nat) : (s.removeCoil r).policy = s.policy := rfl
@[simp] theorem removeCoil_runway (r : Nat) : (s.removeCoil r).runway = s.runway := rfl
@[simp] theorem removeCoil_requests (r : Nat) : (s.removeCoil r).requests = s.requests := rfl
@[simp] theorem removeCoil_stalled (r : Nat) : (s.removeCoil r).stalled = s.stalled := rfl
@[simp] theorem removeCoil_cranes (r : Nat) : (s.removeCoil r).cranes = s.cranes := rfl
@[simp] theorem removeCoil_moves (r : Nat) : (s.removeCoil r).moves = s.moves := rfl
@[simp] theorem removeCoil_nextSeq (r : Nat) : (s.removeCoil r).nextSeq = s.nextSeq := rfl
@[simp] theorem removeCoil_channels (r : Nat) : (s.removeCoil r).channels = s.channels := rfl
@[simp] theorem removeCoil_bays (r : Nat) : (s.removeCoil r).bays = s.bays := rfl
@[simp] theorem removeCoil_areaLow (r : Nat) : (s.removeCoil r).areaLow = s.areaLow := rfl
@[simp] theorem removeCoil_receiving (r : Nat) : (s.removeCoil r).receiving = s.receiving := rfl
@[simp] theorem removeCoil_outgoing (r : Nat) : (s.removeCoil r).outgoing = s.outgoing := rfl
@[simp] theorem removeCoil_sent (r : Nat) : (s.removeCoil r).sent = s.sent := rfl
theorem removeCoil_touched (r : Nat) : (s.removeCoil r).touched =
    if (s.coil? r).isSome then (s.touched.coil r).group Group.totals else s.touched := rfl
@[simp] theorem removeCoil_freeCount (r : Nat) : (s.removeCoil r).freeCount = s.freeCount := rfl
@[simp] theorem removeCoil_pending (r : Nat) : (s.removeCoil r).pending = s.pending := rfl
@[simp] theorem crane_removeCoil (r : Nat) (j : Nat) : (s.removeCoil r).crane j = s.crane j := rfl
@[simp] theorem bay_removeCoil (r : Nat) (j : Nat) : (s.removeCoil r).bay j = s.bay j := rfl
@[simp] theorem channel_removeCoil (r : Nat) (j : Nat) : (s.removeCoil r).channel j = s.channel j := rfl
@[simp] theorem column_removeCoil (r : Nat) (j : Nat) : (s.removeCoil r).column j = s.column j := rfl
@[simp] theorem station_removeCoil (r : Nat) (j : Nat) : (s.removeCoil r).station j = s.station j := rfl
@[simp] theorem slot_removeCoil (r : Nat) (j : Nat) : (s.removeCoil r).slot j = s.slot j := rfl
@[simp] theorem move_removeCoil (r : Nat) (j : Nat) : (s.removeCoil r).move? j = s.move? j := rfl
@[simp] theorem readByte_removeCoil (r : Nat) (j : Nat) : (s.removeCoil r).readByte j = s.readByte j := rfl
@[simp] theorem fitted_removeCoil (r : Nat) (j : Nat) : (s.removeCoil r).fitted j = s.fitted j := rfl
@[simp] theorem inService_removeCoil (r : Nat) : (s.removeCoil r).inService = s.inService := rfl

/-! ## setMove -/

@[simp] theorem setMove_mode (m : Nat) (v : Move) : (s.setMove m v).mode = s.mode := rfl
@[simp] theorem setMove_resetCause (m : Nat) (v : Move) : (s.setMove m v).resetCause = s.resetCause := rfl
@[simp] theorem setMove_straps (m : Nat) (v : Move) : (s.setMove m v).straps = s.straps := rfl
@[simp] theorem setMove_flags (m : Nat) (v : Move) : (s.setMove m v).flags = s.flags := rfl
@[simp] theorem setMove_enables (m : Nat) (v : Move) : (s.setMove m v).enables = s.enables := rfl
@[simp] theorem setMove_posts (m : Nat) (v : Move) : (s.setMove m v).posts = s.posts := rfl
@[simp] theorem setMove_takeCounter (m : Nat) (v : Move) : (s.setMove m v).takeCounter = s.takeCounter := rfl
@[simp] theorem setMove_lastSkip (m : Nat) (v : Move) : (s.setMove m v).lastSkip = s.lastSkip := rfl
@[simp] theorem setMove_lastRefused (m : Nat) (v : Move) : (s.setMove m v).lastRefused = s.lastRefused := rfl
@[simp] theorem setMove_inboundSU (m : Nat) (v : Move) : (s.setMove m v).inboundSU = s.inboundSU := rfl
@[simp] theorem setMove_inboundRU (m : Nat) (v : Move) : (s.setMove m v).inboundRU = s.inboundRU := rfl
@[simp] theorem setMove_inboundCU (m : Nat) (v : Move) : (s.setMove m v).inboundCU = s.inboundCU := rfl
@[simp] theorem setMove_inboundWU (m : Nat) (v : Move) : (s.setMove m v).inboundWU = s.inboundWU := rfl
@[simp] theorem setMove_inboundLU (m : Nat) (v : Move) : (s.setMove m v).inboundLU = s.inboundLU := rfl
@[simp] theorem setMove_modeOrder (m : Nat) (v : Move) : (s.setMove m v).modeOrder = s.modeOrder := rfl
@[simp] theorem setMove_writeCount (m : Nat) (v : Move) : (s.setMove m v).writeCount = s.writeCount := rfl
@[simp] theorem setMove_holding (m : Nat) (v : Move) : (s.setMove m v).holding = s.holding := rfl
@[simp] theorem setMove_mem (m : Nat) (v : Move) : (s.setMove m v).mem = s.mem := rfl
@[simp] theorem setMove_clearedTo (m : Nat) (v : Move) : (s.setMove m v).clearedTo = s.clearedTo := rfl
@[simp] theorem setMove_groupEditions (m : Nat) (v : Move) : (s.setMove m v).groupEditions = s.groupEditions := rfl
@[simp] theorem setMove_slotEditions (m : Nat) (v : Move) : (s.setMove m v).slotEditions = s.slotEditions := rfl
@[simp] theorem setMove_coilEditions (m : Nat) (v : Move) : (s.setMove m v).coilEditions = s.coilEditions := rfl
@[simp] theorem setMove_columns (m : Nat) (v : Move) : (s.setMove m v).columns = s.columns := rfl
@[simp] theorem setMove_rowY (m : Nat) (v : Move) : (s.setMove m v).rowY = s.rowY := rfl
@[simp] theorem setMove_slots (m : Nat) (v : Move) : (s.setMove m v).slots = s.slots := rfl
@[simp] theorem setMove_stations (m : Nat) (v : Move) : (s.setMove m v).stations = s.stations := rfl
@[simp] theorem setMove_coils (m : Nat) (v : Move) : (s.setMove m v).coils = s.coils := rfl
@[simp] theorem setMove_policy (m : Nat) (v : Move) : (s.setMove m v).policy = s.policy := rfl
@[simp] theorem setMove_runway (m : Nat) (v : Move) : (s.setMove m v).runway = s.runway := rfl
@[simp] theorem setMove_requests (m : Nat) (v : Move) : (s.setMove m v).requests = s.requests := rfl
@[simp] theorem setMove_stalled (m : Nat) (v : Move) : (s.setMove m v).stalled = s.stalled := rfl
@[simp] theorem setMove_cranes (m : Nat) (v : Move) : (s.setMove m v).cranes = s.cranes := rfl
@[simp] theorem setMove_nextSeq (m : Nat) (v : Move) : (s.setMove m v).nextSeq = s.nextSeq := rfl
@[simp] theorem setMove_channels (m : Nat) (v : Move) : (s.setMove m v).channels = s.channels := rfl
@[simp] theorem setMove_bays (m : Nat) (v : Move) : (s.setMove m v).bays = s.bays := rfl
@[simp] theorem setMove_areaLow (m : Nat) (v : Move) : (s.setMove m v).areaLow = s.areaLow := rfl
@[simp] theorem setMove_receiving (m : Nat) (v : Move) : (s.setMove m v).receiving = s.receiving := rfl
@[simp] theorem setMove_outgoing (m : Nat) (v : Move) : (s.setMove m v).outgoing = s.outgoing := rfl
@[simp] theorem setMove_sent (m : Nat) (v : Move) : (s.setMove m v).sent = s.sent := rfl
@[simp] theorem setMove_touched (m : Nat) (v : Move) : (s.setMove m v).touched = s.touched := rfl
@[simp] theorem setMove_freeCount (m : Nat) (v : Move) : (s.setMove m v).freeCount = s.freeCount := rfl
@[simp] theorem setMove_pending (m : Nat) (v : Move) : (s.setMove m v).pending = s.pending := rfl
@[simp] theorem crane_setMove (m : Nat) (v : Move) (j : Nat) : (s.setMove m v).crane j = s.crane j := rfl
@[simp] theorem bay_setMove (m : Nat) (v : Move) (j : Nat) : (s.setMove m v).bay j = s.bay j := rfl
@[simp] theorem channel_setMove (m : Nat) (v : Move) (j : Nat) : (s.setMove m v).channel j = s.channel j := rfl
@[simp] theorem column_setMove (m : Nat) (v : Move) (j : Nat) : (s.setMove m v).column j = s.column j := rfl
@[simp] theorem station_setMove (m : Nat) (v : Move) (j : Nat) : (s.setMove m v).station j = s.station j := rfl
@[simp] theorem slot_setMove (m : Nat) (v : Move) (j : Nat) : (s.setMove m v).slot j = s.slot j := rfl
@[simp] theorem coil_setMove (m : Nat) (v : Move) (j : Nat) : (s.setMove m v).coil? j = s.coil? j := rfl
@[simp] theorem readByte_setMove (m : Nat) (v : Move) (j : Nat) : (s.setMove m v).readByte j = s.readByte j := rfl
@[simp] theorem fitted_setMove (m : Nat) (v : Move) (j : Nat) : (s.setMove m v).fitted j = s.fitted j := rfl
@[simp] theorem inService_setMove (m : Nat) (v : Move) : (s.setMove m v).inService = s.inService := rfl

/-! ## writeByte -/

@[simp] theorem writeByte_mode (o : Nat) (v : Byte) : (s.writeByte o v).mode = s.mode := rfl
@[simp] theorem writeByte_resetCause (o : Nat) (v : Byte) : (s.writeByte o v).resetCause = s.resetCause := rfl
@[simp] theorem writeByte_straps (o : Nat) (v : Byte) : (s.writeByte o v).straps = s.straps := rfl
@[simp] theorem writeByte_flags (o : Nat) (v : Byte) : (s.writeByte o v).flags = s.flags := rfl
@[simp] theorem writeByte_enables (o : Nat) (v : Byte) : (s.writeByte o v).enables = s.enables := rfl
@[simp] theorem writeByte_posts (o : Nat) (v : Byte) : (s.writeByte o v).posts = s.posts := rfl
@[simp] theorem writeByte_takeCounter (o : Nat) (v : Byte) : (s.writeByte o v).takeCounter = s.takeCounter := rfl
@[simp] theorem writeByte_lastSkip (o : Nat) (v : Byte) : (s.writeByte o v).lastSkip = s.lastSkip := rfl
@[simp] theorem writeByte_lastRefused (o : Nat) (v : Byte) : (s.writeByte o v).lastRefused = s.lastRefused := rfl
@[simp] theorem writeByte_inboundSU (o : Nat) (v : Byte) : (s.writeByte o v).inboundSU = s.inboundSU := rfl
@[simp] theorem writeByte_inboundRU (o : Nat) (v : Byte) : (s.writeByte o v).inboundRU = s.inboundRU := rfl
@[simp] theorem writeByte_inboundCU (o : Nat) (v : Byte) : (s.writeByte o v).inboundCU = s.inboundCU := rfl
@[simp] theorem writeByte_inboundWU (o : Nat) (v : Byte) : (s.writeByte o v).inboundWU = s.inboundWU := rfl
@[simp] theorem writeByte_inboundLU (o : Nat) (v : Byte) : (s.writeByte o v).inboundLU = s.inboundLU := rfl
@[simp] theorem writeByte_modeOrder (o : Nat) (v : Byte) : (s.writeByte o v).modeOrder = s.modeOrder := rfl
@[simp] theorem writeByte_writeCount (o : Nat) (v : Byte) : (s.writeByte o v).writeCount = s.writeCount := rfl
@[simp] theorem writeByte_holding (o : Nat) (v : Byte) : (s.writeByte o v).holding = s.holding := rfl
@[simp] theorem writeByte_clearedTo (o : Nat) (v : Byte) : (s.writeByte o v).clearedTo = s.clearedTo := rfl
@[simp] theorem writeByte_groupEditions (o : Nat) (v : Byte) : (s.writeByte o v).groupEditions = s.groupEditions := rfl
@[simp] theorem writeByte_slotEditions (o : Nat) (v : Byte) : (s.writeByte o v).slotEditions = s.slotEditions := rfl
@[simp] theorem writeByte_coilEditions (o : Nat) (v : Byte) : (s.writeByte o v).coilEditions = s.coilEditions := rfl
@[simp] theorem writeByte_columns (o : Nat) (v : Byte) : (s.writeByte o v).columns = s.columns := rfl
@[simp] theorem writeByte_rowY (o : Nat) (v : Byte) : (s.writeByte o v).rowY = s.rowY := rfl
@[simp] theorem writeByte_slots (o : Nat) (v : Byte) : (s.writeByte o v).slots = s.slots := rfl
@[simp] theorem writeByte_stations (o : Nat) (v : Byte) : (s.writeByte o v).stations = s.stations := rfl
@[simp] theorem writeByte_coils (o : Nat) (v : Byte) : (s.writeByte o v).coils = s.coils := rfl
@[simp] theorem writeByte_policy (o : Nat) (v : Byte) : (s.writeByte o v).policy = s.policy := rfl
@[simp] theorem writeByte_runway (o : Nat) (v : Byte) : (s.writeByte o v).runway = s.runway := rfl
@[simp] theorem writeByte_requests (o : Nat) (v : Byte) : (s.writeByte o v).requests = s.requests := rfl
@[simp] theorem writeByte_stalled (o : Nat) (v : Byte) : (s.writeByte o v).stalled = s.stalled := rfl
@[simp] theorem writeByte_cranes (o : Nat) (v : Byte) : (s.writeByte o v).cranes = s.cranes := rfl
@[simp] theorem writeByte_moves (o : Nat) (v : Byte) : (s.writeByte o v).moves = s.moves := rfl
@[simp] theorem writeByte_nextSeq (o : Nat) (v : Byte) : (s.writeByte o v).nextSeq = s.nextSeq := rfl
@[simp] theorem writeByte_channels (o : Nat) (v : Byte) : (s.writeByte o v).channels = s.channels := rfl
@[simp] theorem writeByte_bays (o : Nat) (v : Byte) : (s.writeByte o v).bays = s.bays := rfl
@[simp] theorem writeByte_areaLow (o : Nat) (v : Byte) : (s.writeByte o v).areaLow = s.areaLow := rfl
@[simp] theorem writeByte_receiving (o : Nat) (v : Byte) : (s.writeByte o v).receiving = s.receiving := rfl
@[simp] theorem writeByte_outgoing (o : Nat) (v : Byte) : (s.writeByte o v).outgoing = s.outgoing := rfl
@[simp] theorem writeByte_sent (o : Nat) (v : Byte) : (s.writeByte o v).sent = s.sent := rfl
@[simp] theorem writeByte_touched (o : Nat) (v : Byte) : (s.writeByte o v).touched = s.touched := rfl
@[simp] theorem writeByte_freeCount (o : Nat) (v : Byte) : (s.writeByte o v).freeCount = s.freeCount := rfl
@[simp] theorem writeByte_pending (o : Nat) (v : Byte) : (s.writeByte o v).pending = s.pending := rfl
@[simp] theorem crane_writeByte (o : Nat) (v : Byte) (j : Nat) : (s.writeByte o v).crane j = s.crane j := rfl
@[simp] theorem bay_writeByte (o : Nat) (v : Byte) (j : Nat) : (s.writeByte o v).bay j = s.bay j := rfl
@[simp] theorem channel_writeByte (o : Nat) (v : Byte) (j : Nat) : (s.writeByte o v).channel j = s.channel j := rfl
@[simp] theorem column_writeByte (o : Nat) (v : Byte) (j : Nat) : (s.writeByte o v).column j = s.column j := rfl
@[simp] theorem station_writeByte (o : Nat) (v : Byte) (j : Nat) : (s.writeByte o v).station j = s.station j := rfl
@[simp] theorem slot_writeByte (o : Nat) (v : Byte) (j : Nat) : (s.writeByte o v).slot j = s.slot j := rfl
@[simp] theorem coil_writeByte (o : Nat) (v : Byte) (j : Nat) : (s.writeByte o v).coil? j = s.coil? j := rfl
@[simp] theorem move_writeByte (o : Nat) (v : Byte) (j : Nat) : (s.writeByte o v).move? j = s.move? j := rfl
@[simp] theorem fitted_writeByte (o : Nat) (v : Byte) (j : Nat) : (s.writeByte o v).fitted j = s.fitted j := rfl
@[simp] theorem inService_writeByte (o : Nat) (v : Byte) : (s.writeByte o v).inService = s.inService := rfl

/-! ## raise -/

@[simp] theorem raise_mode (n : Notice) : (s.raise n).mode = s.mode := rfl
@[simp] theorem raise_resetCause (n : Notice) : (s.raise n).resetCause = s.resetCause := rfl
@[simp] theorem raise_straps (n : Notice) : (s.raise n).straps = s.straps := rfl
@[simp] theorem raise_enables (n : Notice) : (s.raise n).enables = s.enables := rfl
@[simp] theorem raise_posts (n : Notice) : (s.raise n).posts = s.posts := rfl
@[simp] theorem raise_takeCounter (n : Notice) : (s.raise n).takeCounter = s.takeCounter := rfl
@[simp] theorem raise_lastSkip (n : Notice) : (s.raise n).lastSkip = s.lastSkip := rfl
@[simp] theorem raise_lastRefused (n : Notice) : (s.raise n).lastRefused = s.lastRefused := rfl
@[simp] theorem raise_inboundSU (n : Notice) : (s.raise n).inboundSU = s.inboundSU := rfl
@[simp] theorem raise_inboundRU (n : Notice) : (s.raise n).inboundRU = s.inboundRU := rfl
@[simp] theorem raise_inboundCU (n : Notice) : (s.raise n).inboundCU = s.inboundCU := rfl
@[simp] theorem raise_inboundWU (n : Notice) : (s.raise n).inboundWU = s.inboundWU := rfl
@[simp] theorem raise_inboundLU (n : Notice) : (s.raise n).inboundLU = s.inboundLU := rfl
@[simp] theorem raise_modeOrder (n : Notice) : (s.raise n).modeOrder = s.modeOrder := rfl
@[simp] theorem raise_writeCount (n : Notice) : (s.raise n).writeCount = s.writeCount := rfl
@[simp] theorem raise_holding (n : Notice) : (s.raise n).holding = s.holding := rfl
@[simp] theorem raise_mem (n : Notice) : (s.raise n).mem = s.mem := rfl
@[simp] theorem raise_clearedTo (n : Notice) : (s.raise n).clearedTo = s.clearedTo := rfl
@[simp] theorem raise_groupEditions (n : Notice) : (s.raise n).groupEditions = s.groupEditions := rfl
@[simp] theorem raise_slotEditions (n : Notice) : (s.raise n).slotEditions = s.slotEditions := rfl
@[simp] theorem raise_coilEditions (n : Notice) : (s.raise n).coilEditions = s.coilEditions := rfl
@[simp] theorem raise_columns (n : Notice) : (s.raise n).columns = s.columns := rfl
@[simp] theorem raise_rowY (n : Notice) : (s.raise n).rowY = s.rowY := rfl
@[simp] theorem raise_slots (n : Notice) : (s.raise n).slots = s.slots := rfl
@[simp] theorem raise_stations (n : Notice) : (s.raise n).stations = s.stations := rfl
@[simp] theorem raise_coils (n : Notice) : (s.raise n).coils = s.coils := rfl
@[simp] theorem raise_policy (n : Notice) : (s.raise n).policy = s.policy := rfl
@[simp] theorem raise_runway (n : Notice) : (s.raise n).runway = s.runway := rfl
@[simp] theorem raise_requests (n : Notice) : (s.raise n).requests = s.requests := rfl
@[simp] theorem raise_stalled (n : Notice) : (s.raise n).stalled = s.stalled := rfl
@[simp] theorem raise_cranes (n : Notice) : (s.raise n).cranes = s.cranes := rfl
@[simp] theorem raise_moves (n : Notice) : (s.raise n).moves = s.moves := rfl
@[simp] theorem raise_nextSeq (n : Notice) : (s.raise n).nextSeq = s.nextSeq := rfl
@[simp] theorem raise_channels (n : Notice) : (s.raise n).channels = s.channels := rfl
@[simp] theorem raise_bays (n : Notice) : (s.raise n).bays = s.bays := rfl
@[simp] theorem raise_areaLow (n : Notice) : (s.raise n).areaLow = s.areaLow := rfl
@[simp] theorem raise_receiving (n : Notice) : (s.raise n).receiving = s.receiving := rfl
@[simp] theorem raise_outgoing (n : Notice) : (s.raise n).outgoing = s.outgoing := rfl
@[simp] theorem raise_sent (n : Notice) : (s.raise n).sent = s.sent := rfl
@[simp] theorem raise_touched (n : Notice) : (s.raise n).touched = s.touched := rfl
@[simp] theorem raise_freeCount (n : Notice) : (s.raise n).freeCount = s.freeCount := rfl
@[simp] theorem raise_pending (n : Notice) : (s.raise n).pending = s.pending := rfl
@[simp] theorem crane_raise (n : Notice) (j : Nat) : (s.raise n).crane j = s.crane j := rfl
@[simp] theorem bay_raise (n : Notice) (j : Nat) : (s.raise n).bay j = s.bay j := rfl
@[simp] theorem channel_raise (n : Notice) (j : Nat) : (s.raise n).channel j = s.channel j := rfl
@[simp] theorem column_raise (n : Notice) (j : Nat) : (s.raise n).column j = s.column j := rfl
@[simp] theorem station_raise (n : Notice) (j : Nat) : (s.raise n).station j = s.station j := rfl
@[simp] theorem slot_raise (n : Notice) (j : Nat) : (s.raise n).slot j = s.slot j := rfl
@[simp] theorem coil_raise (n : Notice) (j : Nat) : (s.raise n).coil? j = s.coil? j := rfl
@[simp] theorem move_raise (n : Notice) (j : Nat) : (s.raise n).move? j = s.move? j := rfl
@[simp] theorem readByte_raise (n : Notice) (j : Nat) : (s.raise n).readByte j = s.readByte j := rfl
@[simp] theorem fitted_raise (n : Notice) (j : Nat) : (s.raise n).fitted j = s.fitted j := rfl
@[simp] theorem inService_raise (n : Notice) : (s.raise n).inService = s.inService := rfl

/-! ## touch -/

@[simp] theorem touch_mode (g : Nat) : (s.touch g).mode = s.mode := rfl
@[simp] theorem touch_resetCause (g : Nat) : (s.touch g).resetCause = s.resetCause := rfl
@[simp] theorem touch_straps (g : Nat) : (s.touch g).straps = s.straps := rfl
@[simp] theorem touch_flags (g : Nat) : (s.touch g).flags = s.flags := rfl
@[simp] theorem touch_enables (g : Nat) : (s.touch g).enables = s.enables := rfl
@[simp] theorem touch_posts (g : Nat) : (s.touch g).posts = s.posts := rfl
@[simp] theorem touch_takeCounter (g : Nat) : (s.touch g).takeCounter = s.takeCounter := rfl
@[simp] theorem touch_lastSkip (g : Nat) : (s.touch g).lastSkip = s.lastSkip := rfl
@[simp] theorem touch_lastRefused (g : Nat) : (s.touch g).lastRefused = s.lastRefused := rfl
@[simp] theorem touch_inboundSU (g : Nat) : (s.touch g).inboundSU = s.inboundSU := rfl
@[simp] theorem touch_inboundRU (g : Nat) : (s.touch g).inboundRU = s.inboundRU := rfl
@[simp] theorem touch_inboundCU (g : Nat) : (s.touch g).inboundCU = s.inboundCU := rfl
@[simp] theorem touch_inboundWU (g : Nat) : (s.touch g).inboundWU = s.inboundWU := rfl
@[simp] theorem touch_inboundLU (g : Nat) : (s.touch g).inboundLU = s.inboundLU := rfl
@[simp] theorem touch_modeOrder (g : Nat) : (s.touch g).modeOrder = s.modeOrder := rfl
@[simp] theorem touch_writeCount (g : Nat) : (s.touch g).writeCount = s.writeCount := rfl
@[simp] theorem touch_holding (g : Nat) : (s.touch g).holding = s.holding := rfl
@[simp] theorem touch_mem (g : Nat) : (s.touch g).mem = s.mem := rfl
@[simp] theorem touch_clearedTo (g : Nat) : (s.touch g).clearedTo = s.clearedTo := rfl
@[simp] theorem touch_groupEditions (g : Nat) : (s.touch g).groupEditions = s.groupEditions := rfl
@[simp] theorem touch_slotEditions (g : Nat) : (s.touch g).slotEditions = s.slotEditions := rfl
@[simp] theorem touch_coilEditions (g : Nat) : (s.touch g).coilEditions = s.coilEditions := rfl
@[simp] theorem touch_columns (g : Nat) : (s.touch g).columns = s.columns := rfl
@[simp] theorem touch_rowY (g : Nat) : (s.touch g).rowY = s.rowY := rfl
@[simp] theorem touch_slots (g : Nat) : (s.touch g).slots = s.slots := rfl
@[simp] theorem touch_stations (g : Nat) : (s.touch g).stations = s.stations := rfl
@[simp] theorem touch_coils (g : Nat) : (s.touch g).coils = s.coils := rfl
@[simp] theorem touch_policy (g : Nat) : (s.touch g).policy = s.policy := rfl
@[simp] theorem touch_runway (g : Nat) : (s.touch g).runway = s.runway := rfl
@[simp] theorem touch_requests (g : Nat) : (s.touch g).requests = s.requests := rfl
@[simp] theorem touch_stalled (g : Nat) : (s.touch g).stalled = s.stalled := rfl
@[simp] theorem touch_cranes (g : Nat) : (s.touch g).cranes = s.cranes := rfl
@[simp] theorem touch_moves (g : Nat) : (s.touch g).moves = s.moves := rfl
@[simp] theorem touch_nextSeq (g : Nat) : (s.touch g).nextSeq = s.nextSeq := rfl
@[simp] theorem touch_channels (g : Nat) : (s.touch g).channels = s.channels := rfl
@[simp] theorem touch_bays (g : Nat) : (s.touch g).bays = s.bays := rfl
@[simp] theorem touch_areaLow (g : Nat) : (s.touch g).areaLow = s.areaLow := rfl
@[simp] theorem touch_receiving (g : Nat) : (s.touch g).receiving = s.receiving := rfl
@[simp] theorem touch_outgoing (g : Nat) : (s.touch g).outgoing = s.outgoing := rfl
@[simp] theorem touch_sent (g : Nat) : (s.touch g).sent = s.sent := rfl
@[simp] theorem touch_freeCount (g : Nat) : (s.touch g).freeCount = s.freeCount := rfl
@[simp] theorem touch_pending (g : Nat) : (s.touch g).pending = s.pending := rfl
@[simp] theorem crane_touch (g : Nat) (j : Nat) : (s.touch g).crane j = s.crane j := rfl
@[simp] theorem bay_touch (g : Nat) (j : Nat) : (s.touch g).bay j = s.bay j := rfl
@[simp] theorem channel_touch (g : Nat) (j : Nat) : (s.touch g).channel j = s.channel j := rfl
@[simp] theorem column_touch (g : Nat) (j : Nat) : (s.touch g).column j = s.column j := rfl
@[simp] theorem station_touch (g : Nat) (j : Nat) : (s.touch g).station j = s.station j := rfl
@[simp] theorem slot_touch (g : Nat) (j : Nat) : (s.touch g).slot j = s.slot j := rfl
@[simp] theorem coil_touch (g : Nat) (j : Nat) : (s.touch g).coil? j = s.coil? j := rfl
@[simp] theorem move_touch (g : Nat) (j : Nat) : (s.touch g).move? j = s.move? j := rfl
@[simp] theorem readByte_touch (g : Nat) (j : Nat) : (s.touch g).readByte j = s.readByte j := rfl
@[simp] theorem fitted_touch (g : Nat) (j : Nat) : (s.touch g).fitted j = s.fitted j := rfl
@[simp] theorem inService_touch (g : Nat) : (s.touch g).inService = s.inService := rfl

/-! ## begin -/

@[simp] theorem begin_mode : (s.begin).mode = s.mode := rfl
@[simp] theorem begin_resetCause : (s.begin).resetCause = s.resetCause := rfl
@[simp] theorem begin_straps : (s.begin).straps = s.straps := rfl
@[simp] theorem begin_flags : (s.begin).flags = s.flags := rfl
@[simp] theorem begin_enables : (s.begin).enables = s.enables := rfl
@[simp] theorem begin_posts : (s.begin).posts = s.posts := rfl
@[simp] theorem begin_takeCounter : (s.begin).takeCounter = s.takeCounter := rfl
@[simp] theorem begin_lastSkip : (s.begin).lastSkip = s.lastSkip := rfl
@[simp] theorem begin_lastRefused : (s.begin).lastRefused = s.lastRefused := rfl
@[simp] theorem begin_inboundSU : (s.begin).inboundSU = s.inboundSU := rfl
@[simp] theorem begin_inboundRU : (s.begin).inboundRU = s.inboundRU := rfl
@[simp] theorem begin_inboundCU : (s.begin).inboundCU = s.inboundCU := rfl
@[simp] theorem begin_inboundWU : (s.begin).inboundWU = s.inboundWU := rfl
@[simp] theorem begin_inboundLU : (s.begin).inboundLU = s.inboundLU := rfl
@[simp] theorem begin_modeOrder : (s.begin).modeOrder = s.modeOrder := rfl
@[simp] theorem begin_writeCount : (s.begin).writeCount = s.writeCount := rfl
@[simp] theorem begin_holding : (s.begin).holding = s.holding := rfl
@[simp] theorem begin_mem : (s.begin).mem = s.mem := rfl
@[simp] theorem begin_clearedTo : (s.begin).clearedTo = s.clearedTo := rfl
@[simp] theorem begin_groupEditions : (s.begin).groupEditions = s.groupEditions := rfl
@[simp] theorem begin_slotEditions : (s.begin).slotEditions = s.slotEditions := rfl
@[simp] theorem begin_coilEditions : (s.begin).coilEditions = s.coilEditions := rfl
@[simp] theorem begin_columns : (s.begin).columns = s.columns := rfl
@[simp] theorem begin_rowY : (s.begin).rowY = s.rowY := rfl
@[simp] theorem begin_slots : (s.begin).slots = s.slots := rfl
@[simp] theorem begin_stations : (s.begin).stations = s.stations := rfl
@[simp] theorem begin_coils : (s.begin).coils = s.coils := rfl
@[simp] theorem begin_policy : (s.begin).policy = s.policy := rfl
@[simp] theorem begin_runway : (s.begin).runway = s.runway := rfl
@[simp] theorem begin_requests : (s.begin).requests = s.requests := rfl
@[simp] theorem begin_stalled : (s.begin).stalled = s.stalled := rfl
@[simp] theorem begin_cranes : (s.begin).cranes = s.cranes := rfl
@[simp] theorem begin_moves : (s.begin).moves = s.moves := rfl
@[simp] theorem begin_nextSeq : (s.begin).nextSeq = s.nextSeq := rfl
@[simp] theorem begin_channels : (s.begin).channels = s.channels := rfl
@[simp] theorem begin_bays : (s.begin).bays = s.bays := rfl
@[simp] theorem begin_areaLow : (s.begin).areaLow = s.areaLow := rfl
@[simp] theorem begin_receiving : (s.begin).receiving = s.receiving := rfl
@[simp] theorem begin_outgoing : (s.begin).outgoing = s.outgoing := rfl
@[simp] theorem begin_freeCount : (s.begin).freeCount = s.freeCount := rfl
@[simp] theorem begin_pending : (s.begin).pending = s.pending := rfl
@[simp] theorem crane_begin (j : Nat) : (s.begin).crane j = s.crane j := rfl
@[simp] theorem bay_begin (j : Nat) : (s.begin).bay j = s.bay j := rfl
@[simp] theorem channel_begin (j : Nat) : (s.begin).channel j = s.channel j := rfl
@[simp] theorem column_begin (j : Nat) : (s.begin).column j = s.column j := rfl
@[simp] theorem station_begin (j : Nat) : (s.begin).station j = s.station j := rfl
@[simp] theorem slot_begin (j : Nat) : (s.begin).slot j = s.slot j := rfl
@[simp] theorem coil_begin (j : Nat) : (s.begin).coil? j = s.coil? j := rfl
@[simp] theorem move_begin (j : Nat) : (s.begin).move? j = s.move? j := rfl
@[simp] theorem readByte_begin (j : Nat) : (s.begin).readByte j = s.readByte j := rfl
@[simp] theorem fitted_begin (j : Nat) : (s.begin).fitted j = s.fitted j := rfl
@[simp] theorem inService_begin  : (s.begin).inService = s.inService := rfl

/-! ## Reads after their own writes -/

theorem crane_setCrane (c : Nat) (v : Crane) (j : Nat) : (s.setCrane c v).crane j = if j = c then v else s.crane j :=
  Tab.get_put ..

@[simp] theorem crane_setCrane_self (c : Nat) (v : Crane) : (s.setCrane c v).crane c = v := by simp [crane_setCrane]

theorem bay_setBay (b : Nat) (v : Bay) (j : Nat) : (s.setBay b v).bay j = if j = b then v else s.bay j :=
  Tab.get_put ..

@[simp] theorem bay_setBay_self (b : Nat) (v : Bay) : (s.setBay b v).bay b = v := by simp [bay_setBay]

theorem channel_setChannel (k : Nat) (v : Channel) (j : Nat) :
    (s.setChannel k v).channel j = if j = k then v else s.channel j := Tab.get_put ..

@[simp] theorem channel_setChannel_self (k : Nat) (v : Channel) : (s.setChannel k v).channel k = v := by
  simp [channel_setChannel]

theorem column_setColumn (c : Nat) (v : Column) (j : Nat) :
    (s.setColumn c v).column j = if j = c then v else s.column j := Tab.get_put ..

theorem station_setStation (n : Nat) (v : Station) (j : Nat) :
    (s.setStation n v).station j = if j = n then v else s.station j := Tab.get_put ..

@[simp] theorem station_setStation_self (n : Nat) (v : Station) : (s.setStation n v).station n = v := by
  simp [station_setStation]

theorem slot_setSlot (i : Nat) (v : Slot) (j : Nat) : (s.setSlot i v).slot j = if j = i then v else s.slot j :=
  Tab.get_set ..

@[simp] theorem slot_setSlot_self (i : Nat) (v : Slot) : (s.setSlot i v).slot i = v := by simp [slot_setSlot]

theorem coil_setCoil (r : Nat) (v : Coil) (j : Nat) :
    (s.setCoil r v).coil? j = if j = r then some v else s.coil? j := Tab.find_put ..

@[simp] theorem coil_setCoil_self (r : Nat) (v : Coil) : (s.setCoil r v).coil? r = some v := by simp [coil_setCoil]

theorem coil_removeCoil (r j : Nat) : (s.removeCoil r).coil? j = if j = r then none else s.coil? j :=
  Tab.find_erase ..

theorem move_setMove (m : Nat) (v : Move) (j : Nat) :
    (s.setMove m v).move? j = if j = m then some v else s.move? j := Tab.find_put ..

@[simp] theorem move_setMove_self (m : Nat) (v : Move) : (s.setMove m v).move? m = some v := by simp [move_setMove]

theorem readByte_writeByte (o : Nat) (v : Byte) (j : Nat) :
    (s.writeByte o v).readByte j = if j = o then v else s.readByte j := Tab.get_set ..

/-! ## Updates that look first: they change their own table and nothing else -/

theorem modCrane_def (c : Nat) (f : Crane → Crane) : s.modCrane c f = s.setCrane c (f (s.crane c)) := rfl

theorem modBay_def (b : Nat) (f : Bay → Bay) : s.modBay b f = s.setBay b (f (s.bay b)) := rfl

theorem modChannel_def (k : Nat) (f : Channel → Channel) : s.modChannel k f = s.setChannel k (f (s.channel k)) := rfl

theorem modCoil_eq (r : Nat) (f : Coil → Coil) :
    s.modCoil r f = { s with coils := (s.modCoil r f).coils, touched := (s.modCoil r f).touched } := by
  unfold modCoil; split <;> rfl

theorem modMove_eq (m : Nat) (f : Move → Move) : s.modMove m f = { s with moves := (s.modMove m f).moves } := by
  unfold modMove; split <;> rfl

theorem coil_modCoil (r : Nat) (f : Coil → Coil) (j : Nat) :
    (s.modCoil r f).coil? j = if j = r then (s.coil? r).map f else s.coil? j := by
  unfold modCoil
  split
  · next v h => rw [coil_setCoil, h]; rfl
  · next h => split <;> simp_all

theorem move_modMove (m : Nat) (f : Move → Move) (j : Nat) :
    (s.modMove m f).move? j = if j = m then (s.move? m).map f else s.move? j := by
  unfold modMove
  split
  · next v h => rw [move_setMove, h]; rfl
  · next h => split <;> simp_all

end Sys2Proof.Machine.State
end

