-- ==== Sys2Proof/Laws/Keeps.lean ====
section
/-! SUPPORT. What every operation below an order's handling leaves alone: the relation `Keeps`, and how it is shown. -/

namespace Sys2Proof.Machine

/-- The part of a crane's record that only a report or SET_CRANE changes. -/
def Crane.kept (c : Crane) : Crane :=
  { reported := c.reported, doneSeq := c.doneSeq, xEncoder := c.xEncoder, xLaser := c.xLaser, y := c.y, hook := c.hook
    tong := c.tong, speed := c.speed, load := c.load, faultCode := c.faultCode, wholeEncoder := c.wholeEncoder
    wholeLaser := c.wholeLaser, wholeTong := c.wholeTong, configured := c.configured, svcLo := c.svcLo
    svcHi := c.svcHi, halfWidth := c.halfWidth }

/-- The part of the state that no operation below an order's handling changes. -/
def State.kept (s : State) : State :=
  { mode := s.mode, resetCause := s.resetCause, straps := s.straps, enables := s.enables, posts := s.posts
    takeCounter := s.takeCounter, lastRefused := s.lastRefused, inboundSU := s.inboundSU, inboundRU := s.inboundRU
    inboundCU := s.inboundCU, inboundWU := s.inboundWU, inboundLU := s.inboundLU, modeOrder := s.modeOrder
    clearedTo := s.clearedTo, columns := s.columns, rowY := s.rowY, policy := s.policy, runway := s.runway
    areaLow := s.areaLow, pending := s.pending }

/-- No image entry is noted twice. -/
def Touched.once (t : Touched) : Prop := t.slots.Nodup ∧ t.coils.Nodup

/-- What an operation leaves alone of the records, and the laws it keeps. -/
structure KeepsRecords (s t : State) : Prop where
  state : t.kept = s.kept
  crane : ∀ k, (t.crane k).kept = (s.crane k).kept
  memory : s.memoryLaw = true → t.memoryLaw = true
  holding : s.holdingLaw = true → t.holdingLaw = true
  grants : s.grantLaw = true → t.grantLaw = true
  tables : s.tablesLaw = true → t.tablesLaw = true

/-- What an operation before publication leaves alone: the editions of the images too. It notes no entry twice. -/
structure Keeps (s t : State) : Prop extends KeepsRecords s t where
  images : t.slotEditions = s.slotEditions ∧ t.coilEditions = s.coilEditions
  once : s.touched.once → t.touched.once

namespace KeepsRecords

variable {s t u : State}

theorem refl : KeepsRecords s s := ⟨by rfl, fun _ => by rfl, id, id, id, id⟩

theorem trans (h : KeepsRecords s t) (g : KeepsRecords t u) : KeepsRecords s u :=
  ⟨g.state.trans h.state, fun k => (g.crane k).trans (h.crane k), g.memory ∘ h.memory, g.holding ∘ h.holding,
    g.grants ∘ h.grants, g.tables ∘ h.tables⟩

theorem mode (h : KeepsRecords s t) : t.mode = s.mode := (congrArg State.mode h.state :)
theorem straps (h : KeepsRecords s t) : t.straps = s.straps := (congrArg State.straps h.state :)
theorem runway (h : KeepsRecords s t) : t.runway = s.runway := (congrArg State.runway h.state :)
theorem halfWidth (h : KeepsRecords s t) (k : Nat) : (t.crane k).halfWidth = (s.crane k).halfWidth :=
  (congrArg Crane.halfWidth (h.crane k) :)

/-- A fold over any list. -/
theorem foldl {α : Type} {f : State → α → State} (h : ∀ s a, KeepsRecords s (f s a)) (l : List α) :
    ∀ s, KeepsRecords s (l.foldl f s) := by
  induction l with
  | nil => exact fun _ => .refl
  | cons a rest ih => exact fun s => (h s a).trans (ih _)

end KeepsRecords

namespace Keeps

variable {s t u : State}

theorem refl : Keeps s s := ⟨.refl, ⟨rfl, rfl⟩, id⟩

theorem trans (h : Keeps s t) (g : Keeps t u) : Keeps s u :=
  ⟨h.toKeepsRecords.trans g.toKeepsRecords, ⟨g.images.1.trans h.images.1, g.images.2.trans h.images.2⟩, g.once ∘ h.once⟩

/-- The last operation first. -/
theorem after (g : Keeps t u) (h : Keeps s t) : Keeps s u := h.trans g

end Keeps

/-! ## What is noted stands once -/

namespace Touched

variable {t : Touched}

theorem once_slot (i : Nat) (h : t.once) : (t.slot i).once := ⟨h.1.insert, h.2⟩
theorem once_coil (r : Nat) (h : t.once) : (t.coil r).once := ⟨h.1, h.2.insert⟩

theorem once_counts (i : Nat) (a b : SlotState) (h : t.once) : (t.counts i a b).once := by
  unfold Touched.counts; dsimp only; split <;> split <;> exact h

/-- A group noted, or none. -/
theorem once_group_if {p : Prop} [Decidable p] (g : Nat) (h : t.once) : (if p then t else t.group g).once := by
  split <;> exact h

end Touched

/-! ## The grant law, crane by crane -/

theorem mem_fittedCranes (s : State) (c : Nat) : c ∈ fittedCranes s ↔ s.fitted c = true := by
  simp only [fittedCranes, List.mem_filter, List.mem_cons, List.not_mem_nil, or_false, and_iff_right_iff_imp,
    State.fitted, Bool.and_eq_true, decide_eq_true_eq]
  omega

theorem mem_adjacentPairs (s : State) (i : Nat) : i ∈ adjacentPairs s ↔ s.fitted (i + 1) = true := by
  simp only [adjacentPairs, List.mem_filter, mem_fittedCranes, and_iff_right_iff_imp, State.fitted, Bool.and_eq_true,
    decide_eq_true_eq]
  omega

/-- The law says that each fitted crane's grant is a span within the room its neighbours leave it. -/
theorem grantLaw_iff (s : State) :
    s.grantLaw = true ↔ (s.inService = true → ∀ c, s.fitted c = true →
      (s.crane c).grant.lo ≤ (s.crane c).grant.hi ∧ (s.roomOf c).lo ≤ (s.crane c).grant.lo
        ∧ (s.crane c).grant.hi ≤ (s.roomOf c).hi) := by
  have hprev : ∀ c, s.fitted (c + 1) = true → s.fitted c = true := by
    intro c; simp only [State.fitted, Bool.and_eq_true, decide_eq_true_eq]; omega
  simp only [State.grantLaw, Bool.or_eq_true, Bool.not_eq_eq_eq_not, Bool.not_true, Bool.and_eq_true, List.all_eq_true,
    mem_fittedCranes, mem_adjacentPairs, decide_eq_true_eq, State.grantInRunway]
  rw [← Bool.not_eq_true, ← imp_iff_not_or]
  refine imp_congr_right fun _ => ⟨fun h c hc => ?_, fun h => ⟨fun c hc => ?_, fun i hi => ?_⟩⟩
  · obtain ⟨h1, h2⟩ := h
    have := h1 c hc
    refine ⟨this.2.1, ?_, ?_⟩
    · simp only [State.roomOf, State.runSpan, State.clearance]
      split
      · have := h2 (c - 1) (by rw [Nat.sub_add_cancel (by omega)]; exact hc)
        rw [Nat.sub_add_cancel (by omega)] at this
        omega
      · omega
    · simp only [State.roomOf, State.runSpan, State.clearance]
      split
      · next hn => have := h2 c hn; omega
      · omega
  · obtain ⟨h1, h2, h3⟩ := h c hc
    simp only [State.roomOf, State.runSpan, State.clearance] at h2 h3
    refine ⟨?_, h1, ?_⟩
    · split at h2 <;> omega
    · split at h3 <;> omega
  · obtain ⟨h1, h2, h3⟩ := h i (hprev i hi)
    simp only [State.roomOf, State.runSpan, State.clearance, hi, if_true] at h3
    omega

/-! ## Showing `Keeps` -/

/-- The law of the tables, table by table. -/
theorem tablesLaw_iff (s : State) :
    s.tablesLaw = true ↔
      s.columns.keys.Pairwise (· < ·) ∧ s.slots.keys.Pairwise (· < ·) ∧ s.coils.keys.Pairwise (· < ·) := by
  simp [State.tablesLaw]

/-- An update of anything but the kept fields, the cranes, memory and the holding queue, the slots and coils listed in order. -/
theorem Keeps.of_tables {s t : State} (h : t.kept = s.kept) (hc : t.cranes = s.cranes) (hm : t.mem = s.mem)
    (hh : t.holding = s.holding) (hs : s.slots.keys.Pairwise (· < ·) → t.slots.keys.Pairwise (· < ·))
    (hk : s.coils.keys.Pairwise (· < ·) → t.coils.keys.Pairwise (· < ·))
    (hi : t.slotEditions = s.slotEditions ∧ t.coilEditions = s.coilEditions := by exact ⟨rfl, rfl⟩)
    (ho : s.touched.once → t.touched.once := by exact id) : Keeps s t := by
  have hcr : t.crane = s.crane := by funext k; simp only [State.crane, hc]
  have hmode : t.mode = s.mode := (congrArg State.mode h :)
  have hstr : t.straps = s.straps := (congrArg State.straps h :)
  have hrun : t.runway = s.runway := (congrArg State.runway h :)
  have hcol : t.columns = s.columns := (congrArg State.columns h :)
  have hfit : t.fitted = s.fitted := by funext k; simp only [State.fitted, hstr]
  refine ⟨⟨h, fun k => by rw [hcr], fun hw => ?_, fun hl => ?_, fun hg => ?_, fun ht => ?_⟩, hi, ho⟩
  · simpa only [State.memoryLaw, hm] using hw
  · simpa only [State.holdingLaw, hh] using hl
  · have hin : t.grantInRunway = s.grantInRunway := by
      funext k; simp only [State.grantInRunway, hcr, hrun]
    simpa only [State.grantLaw, State.inService, adjacentPairs, fittedCranes, hin, hmode, hfit, hcr, hrun] using hg
  · rw [tablesLaw_iff] at ht ⊢
    exact ⟨hcol ▸ ht.1, hs ht.2.1, hk ht.2.2⟩

/-- An update of anything but the kept fields, the cranes, memory, the holding queue, the slots and the coils. -/
theorem Keeps.of_eq {s t : State} (h : t.kept = s.kept) (hc : t.cranes = s.cranes) (hm : t.mem = s.mem)
    (hh : t.holding = s.holding) (hs : t.slots = s.slots) (hk : t.coils = s.coils)
    (hi : t.slotEditions = s.slotEditions ∧ t.coilEditions = s.coilEditions := by exact ⟨rfl, rfl⟩)
    (ho : s.touched.once → t.touched.once := by exact id) : Keeps s t :=
  .of_tables h hc hm hh (hs ▸ id) (hk ▸ id) hi ho

/-! ### Record updates of fields that are not kept -/

section Fields
variable (s : State)

theorem Keeps.groupEditions (v : Tab Byte) : Keeps s { s with groupEditions := v } := .of_eq rfl rfl rfl rfl rfl rfl
theorem KeepsRecords.slotEditions (v : Tab Byte) : KeepsRecords s { s with slotEditions := v } :=
  ⟨rfl, fun _ => rfl, id, id, id, id⟩
theorem KeepsRecords.coilEditions (v : Tab Byte) : KeepsRecords s { s with coilEditions := v } :=
  ⟨rfl, fun _ => rfl, id, id, id, id⟩
theorem KeepsRecords.touched (v : Touched) : KeepsRecords s { s with touched := v } := ⟨rfl, fun _ => rfl, id, id, id, id⟩
theorem Keeps.receiving (v : Tab (List Byte)) : Keeps s { s with receiving := v } := .of_eq rfl rfl rfl rfl rfl rfl
theorem Keeps.outgoing (v : Tab (List Byte)) : Keeps s { s with outgoing := v } := .of_eq rfl rfl rfl rfl rfl rfl
theorem Keeps.requests (v : List Request) : Keeps s { s with requests := v } := .of_eq rfl rfl rfl rfl rfl rfl
theorem Keeps.stalled (v : List Nat) : Keeps s { s with stalled := v } := .of_eq rfl rfl rfl rfl rfl rfl
theorem Keeps.sent (v : List (Nat × StepTelegram)) : Keeps s { s with sent := v } := .of_eq rfl rfl rfl rfl rfl rfl
theorem Keeps.lastSkip (v : Skip) : Keeps s { s with lastSkip := v } := .of_eq rfl rfl rfl rfl rfl rfl
theorem Keeps.writeCount (v : Nat) : Keeps s { s with writeCount := v } := .of_eq rfl rfl rfl rfl rfl rfl
theorem Keeps.moves (v : Tab Move) : Keeps s { s with moves := v } := .of_eq rfl rfl rfl rfl rfl rfl
theorem Keeps.nextSeq (v : Nat) : Keeps s { s with nextSeq := v } := .of_eq rfl rfl rfl rfl rfl rfl
theorem Keeps.freeCount (v : Nat) : Keeps s { s with freeCount := v } := .of_eq rfl rfl rfl rfl rfl rfl
theorem Keeps.flags (v : BitVec 10) : Keeps s { s with flags := v } := .of_eq rfl rfl rfl rfl rfl rfl

end Fields

/-- A change of one crane's record that leaves its kept part alone and keeps its grant within its room. -/
theorem Keeps.setCrane {s : State} {c : Nat} {v : Crane} (h : v.kept = (s.crane c).kept)
    (hg : s.inService = true → s.fitted c = true →
      (∀ j, s.fitted j = true →
        (s.crane j).grant.lo ≤ (s.crane j).grant.hi ∧ (s.roomOf j).lo ≤ (s.crane j).grant.lo
          ∧ (s.crane j).grant.hi ≤ (s.roomOf j).hi) →
      v.grant.lo ≤ v.grant.hi ∧ (s.roomOf c).lo ≤ v.grant.lo ∧ v.grant.hi ≤ (s.roomOf c).hi) :
    Keeps s (s.setCrane c v) := by
  have hw : ∀ k, ((s.setCrane c v).crane k).kept = (s.crane k).kept := by
    intro k; rw [State.crane_setCrane]; split
    · next hk => rw [hk, h]
    · rfl
  have hhw : ∀ k, ((s.setCrane c v).crane k).halfWidth = (s.crane k).halfWidth :=
    fun k => (congrArg Crane.halfWidth (hw k) :)
  refine ⟨⟨rfl, hw, id, id, fun hl => ?_, id⟩, ⟨rfl, rfl⟩, Touched.once_group_if _⟩
  rw [grantLaw_iff] at hl ⊢
  intro hs j hj
  have hl := hl hs
  have hj : s.fitted j = true := hj
  have hprev : ∀ c, s.fitted (c + 1) = true → s.fitted c = true := by
    intro c; simp only [State.fitted, Bool.and_eq_true, decide_eq_true_eq]; omega
  have hjl := hl j hj
  simp only [State.roomOf, State.runSpan, State.clearance, hhw, State.setCrane_runway, State.fitted_setCrane] at hjl ⊢
  simp only [State.crane_setCrane]
  by_cases hcf : s.fitted c = true
  · have hv := hg hs hcf hl
    simp only [State.roomOf, State.runSpan, State.clearance] at hv
    have hcl := hl c hcf
    simp only [State.roomOf, State.runSpan, State.clearance] at hcl
    by_cases hjc : j = c
    · subst hjc
      have e1 : ¬ j + 1 = j := by omega
      have e2 : 0 < j → ¬ j - 1 = j := by omega
      simp only [if_true, if_neg e1]
      refine ⟨hv.1, ?_, hv.2.2⟩
      have := hv.2.1
      by_cases h0 : 0 < j
      · simp only [h0, if_true, if_neg (e2 h0)] at this ⊢; exact this
      · simp only [h0, if_false] at this ⊢; exact this
    · simp only [if_neg hjc]
      refine ⟨hjl.1, ?_, ?_⟩
      · have := hjl.2.1
        by_cases h0 : 0 < j
        · simp only [h0, if_true] at this ⊢
          by_cases hjp : j - 1 = c
          · simp only [hjp, if_true] at this ⊢
            have hjc1 : c + 1 = j := by omega
            have hv3 := hv.2.2
            simp only [hjc1, hj, if_true] at hv3
            omega
          · simpa only [if_neg hjp] using this
        · simpa only [h0, if_false] using this
      · have := hjl.2.2
        by_cases hn : s.fitted (j + 1) = true
        · simp only [hn, if_true] at this ⊢
          by_cases hjp : j + 1 = c
          · simp only [hjp, if_true] at this ⊢
            have hv2 := hv.2.1
            have h0 : 0 < c := by omega
            have hjc1 : c - 1 = j := by omega
            simp only [h0, if_true, hjc1] at hv2
            omega
          · simpa only [if_neg hjp] using this
        · simpa only [if_neg hn] using this
  · have hne : ∀ i, s.fitted i = true → i ≠ c := by rintro i hi rfl; exact hcf hi
    simp only [if_neg (hne j hj)]
    refine ⟨hjl.1, ?_, ?_⟩
    · have := hjl.2.1
      by_cases h0 : 0 < j
      · have hp : s.fitted (j - 1) = true := hprev _ (by rwa [Nat.sub_add_cancel (by omega)])
        simp only [h0, if_true, if_neg (hne _ hp)] at this ⊢; exact this
      · simpa only [h0, if_false] using this
    · have := hjl.2.2
      by_cases hn : s.fitted (j + 1) = true
      · simp only [hn, if_true, if_neg (hne _ hn)] at this ⊢; exact this
      · simpa only [if_neg hn] using this

/-- A change of one crane's record that leaves its kept part and its grant alone. -/
theorem Keeps.setCrane_sameGrant {s : State} {c : Nat} {v : Crane} (h : v.kept = (s.crane c).kept)
    (hg : v.grant = (s.crane c).grant) : Keeps s (s.setCrane c v) :=
  .setCrane h fun _ hf hl => hg ▸ hl c hf

/-- The same through `modCrane`. -/
theorem Keeps.modCrane {s : State} {c : Nat} {f : Crane → Crane} (h : ∀ v, (f v).kept = v.kept)
    (hg : ∀ v, (f v).grant = v.grant) : Keeps s (s.modCrane c f) := .setCrane_sameGrant (h _) (hg _)

/-- The same after other operations. -/
theorem Keeps.andCrane {s t : State} {c : Nat} {f : Crane → Crane} (g : Keeps s t) (h : ∀ v, (f v).kept = v.kept)
    (hg : ∀ v, (f v).grant = v.grant) : Keeps s (t.modCrane c f) := g.trans (.modCrane h hg)

theorem Keeps.writeByte (s : State) (o : Nat) (v : Byte) : Keeps s (s.writeByte o v) :=
  ⟨⟨rfl, fun _ => rfl, fun h => Tab.canonical_set 0 s.mem o v h, id, id, id⟩, ⟨rfl, rfl⟩, id⟩

theorem Keeps.writeBytes (bs : List Byte) : ∀ (s : State) (o : Nat), Keeps s (s.writeBytes o bs) := by
  induction bs with
  | nil => exact fun _ _ => .refl
  | cons b rest ih => exact fun s o => (Keeps.writeByte s o b).trans (ih ..)

/-- A fold over any list. -/
theorem Keeps.foldl {α : Type} {f : State → α → State} (h : ∀ s a, Keeps s (f s a)) (l : List α) :
    ∀ s, Keeps s (l.foldl f s) := by
  induction l with
  | nil => exact fun _ => .refl
  | cons a rest ih => exact fun s => (h s a).trans (ih _)

end Sys2Proof.Machine
end

