-- ==== Sys2Proof/Laws/KeepsPort.lean ====
section
/-! SUPPORT. `Keeps` of the exchange port's operations: publication, journal, cells (Directory, Journal, Cells). -/

namespace Sys2Proof.Machine

/-! ## Named updates -/

theorem State.raise_keeps (s : State) (n : Notice) : Keeps s (s.raise n) := .of_eq rfl rfl rfl rfl rfl rfl
theorem State.touch_keeps (s : State) (g : Nat) : Keeps s (s.touch g) := .of_eq rfl rfl rfl rfl rfl rfl
theorem State.begin_keeps (s : State) : Keeps s s.begin :=
  .of_eq rfl rfl rfl rfl rfl rfl ⟨rfl, rfl⟩ fun _ => ⟨.nil, .nil⟩
theorem State.setBay_keeps (s : State) (b : Nat) (v : Bay) : Keeps s (s.setBay b v) :=
  .of_eq rfl rfl rfl rfl rfl rfl ⟨rfl, rfl⟩ (Touched.once_group_if _)
theorem State.modBay_keeps (s : State) (b : Nat) (f : Bay → Bay) : Keeps s (s.modBay b f) := s.setBay_keeps ..
theorem State.setChannel_keeps (s : State) (k : Nat) (v : Channel) : Keeps s (s.setChannel k v) :=
  .of_eq rfl rfl rfl rfl rfl rfl ⟨rfl, rfl⟩ (Touched.once_group_if _)
theorem State.modChannel_keeps (s : State) (k : Nat) (f : Channel → Channel) : Keeps s (s.modChannel k f) :=
  s.setChannel_keeps ..
theorem State.setStation_keeps (s : State) (n : Nat) (v : Station) : Keeps s (s.setStation n v) :=
  .of_eq rfl rfl rfl rfl rfl rfl
theorem State.setSlot_keeps (s : State) (i : Nat) (v : Slot) : Keeps s (s.setSlot i v) :=
  .of_tables rfl rfl rfl rfl (Tab.sorted_set {} _ i v) id ⟨rfl, rfl⟩ fun h => Touched.once_counts _ _ _ (by
    split
    exacts [h, Touched.once_slot i h])
theorem State.setCoil_keeps (s : State) (r : Nat) (v : Coil) : Keeps s (s.setCoil r v) :=
  .of_tables rfl rfl rfl rfl id (Tab.sorted_put _ r v) ⟨rfl, rfl⟩ fun h => by
    simp only [State.setCoil]
    split
    · split
      exacts [h, Touched.once_coil r h]
    · exact Touched.once_coil r h
theorem State.removeCoil_keeps (s : State) (r : Nat) : Keeps s (s.removeCoil r) :=
  .of_tables rfl rfl rfl rfl id (Tab.sorted_erase _ r) ⟨rfl, rfl⟩ fun h => by
    simp only [State.removeCoil]
    split
    exacts [Touched.once_coil r h, h]
theorem State.setMove_keeps (s : State) (m : Nat) (v : Move) : Keeps s (s.setMove m v) := .of_eq rfl rfl rfl rfl rfl rfl
theorem State.modCoil_keeps (s : State) (r : Nat) (f : Coil → Coil) : Keeps s (s.modCoil r f) := by
  unfold State.modCoil; split
  exacts [s.setCoil_keeps .., .refl]
theorem State.modMove_keeps (s : State) (m : Nat) (f : Move → Move) : Keeps s (s.modMove m f) := by
  rw [State.modMove_eq]; exact .of_eq rfl rfl rfl rfl rfl rfl

/-! ## Publication -/

theorem State.writeGroup_keeps (s : State) (g : Nat) : Keeps s (s.writeGroup g) :=
  (Keeps.groupEditions s _).trans (Keeps.writeBytes ..)

theorem State.writeSlotImage_keeps (s : State) (i : Nat) : KeepsRecords s (s.writeSlotImage i) :=
  (KeepsRecords.slotEditions s _).trans (Keeps.writeBytes ..).toKeepsRecords

theorem State.writeCoilImage_keeps (s : State) (r : Nat) : KeepsRecords s (s.writeCoilImage r) :=
  (KeepsRecords.coilEditions s _).trans (Keeps.writeBytes ..).toKeepsRecords

/-- Publication leaves every record alone. -/
theorem publish_keeps (old new : State) : KeepsRecords new (publish old new) := by
  unfold publish
  split
  · exact KeepsRecords.touched _ _
  · exact (KeepsRecords.foldl State.writeSlotImage_keeps _ _).trans
      ((KeepsRecords.foldl State.writeCoilImage_keeps _ _).trans
        ((Keeps.foldl State.writeGroup_keeps _ _).toKeepsRecords.trans (KeepsRecords.touched _ _)))

/-! ## Journal -/

theorem State.writeEntry_keeps (s : State) (e : JournalEntry) : Keeps s (s.writeEntry e) :=
  (Keeps.writeBytes (e.bytes ((s.writeCount + 1) % two32)) s (journalOffset s.writeCount)).trans
    ((Keeps.writeCount _ _).trans ((State.writeGroup_keeps _ _).trans (State.raise_keeps _ _)))

theorem State.writeJournalGroup_keeps (s : State) : Keeps s s.writeJournalGroup := by
  unfold State.writeJournalGroup
  split
  · exact .refl
  · exact s.writeGroup_keeps _

/-- A shorter or an equal holding queue. -/
theorem Keeps.setHolding (s : State) (l : List JournalEntry) (h : s.holdingLaw = true → l.length ≤ Config.holdingPlaces) :
    Keeps s { s with holding := l } :=
  ⟨⟨rfl, fun _ => rfl, id, fun hl => decide_eq_true (h hl), id, id⟩, ⟨rfl, rfl⟩, id⟩

theorem State.holdEntry_keeps (s : State) (e : JournalEntry) : Keeps s (s.holdEntry e) := by
  unfold State.holdEntry
  split
  · next h =>
    refine (Keeps.setHolding s (s.holding ++ [e]) fun _ => ?_).trans
      ((State.writeJournalGroup_keeps _).trans (State.raise_keeps _ _))
    rw [List.length_append]; exact h
  · exact s.raise_keeps _

theorem State.flushHeld_keeps (l : List JournalEntry) :
    ∀ s : State, (s.holdingLaw = true → l.length ≤ Config.holdingPlaces) → Keeps s (State.flushHeld l s) := by
  induction l with
  | nil => exact fun s _ => .setHolding s [] fun _ => Nat.zero_le _
  | cons e rest ih =>
    intro s h
    have hr : s.holdingLaw = true → rest.length ≤ Config.holdingPlaces :=
      fun hl => Nat.le_of_succ_le (h hl)
    simp only [State.flushHeld]
    split
    · refine ((Keeps.setHolding s rest hr).trans (State.writeEntry_keeps _ e)).trans (ih _ fun hl => ?_)
      have hw : (State.writeEntry { s with holding := rest } e).holding = rest := by
        have hb : ∀ (bs : List Byte) (u : State) (o : Nat), (u.writeBytes o bs).holding = u.holding := by
          intro bs; induction bs with
          | nil => exact fun _ _ => rfl
          | cons b bs ihb => exact fun u o => ihb _ _
        simp only [State.writeEntry, State.raise, State.writeGroup, hb]
      rw [State.holdingLaw, decide_eq_true_eq, hw] at hl
      exact hl
    · exact .setHolding s _ h

theorem State.flush_keeps (s : State) : Keeps s s.flush :=
  State.flushHeld_keeps _ s fun h => of_decide_eq_true h

theorem State.writeOrHold_keeps (s : State) (e : JournalEntry) : Keeps s (s.writeOrHold e) := by
  unfold State.writeOrHold
  split
  · exact s.writeEntry_keeps e
  · exact s.holdEntry_keeps e

/-- Whatever becomes of an entry, written, held or dropped. -/
theorem State.produce_keeps (s : State) (e : JournalEntry) : Keeps s (s.produce e) := by
  unfold State.produce
  split
  · exact s.holdEntry_keeps e
  · split
    · exact s.writeOrHold_keeps e
    · dsimp only
      split
      · exact s.flush_keeps.trans (State.writeOrHold_keeps _ e)
      · exact s.flush_keeps.trans (State.holdEntry_keeps _ e)

theorem State.report_keeps (s : State) (n : Notice) (e : JournalEntry) : Keeps s (s.report n e) :=
  (s.raise_keeps n).trans (State.produce_keeps _ e)

theorem State.craneEntry_keeps (s : State) (c event b13 b14 d : Nat) : Keeps s (s.craneEntry c event b13 b14 d) :=
  s.report_keeps _ _

/-! ## Cells -/

theorem State.progress_keeps (s : State) (n take v : Nat) : Keeps s (s.progress n take v) := by
  unfold State.progress; split
  · exact Keeps.writeByte ..
  · exact .refl

theorem State.working_keeps (s : State) (n take v : Nat) : Keeps s (s.working n take v) := by
  unfold State.working; split
  · exact (Keeps.writeByte ..).trans (Keeps.writeByte ..)
  · exact .refl

theorem State.skipCell_keeps (s : State) (n cause b : Nat) : Keeps s (s.skipCell n cause b) :=
  (Keeps.lastSkip s _).trans ((State.writeGroup_keeps _ _).trans (State.raise_keeps _ _))

theorem State.writeAnswer_keeps (s : State) (n : Nat) (a : Answer) : Keeps s (s.writeAnswer n a) :=
  (Keeps.writeBytes (padTo 128 a.area) s (cellOffset n + 128)).trans ((Keeps.writeByte ..).trans (Keeps.writeByte ..))

theorem State.answer_keeps (s : State) (n take : Nat) (a : Answer) : Keeps s (s.answer n take a) := by
  unfold State.answer; split
  · exact (s.writeAnswer_keeps n a).trans (State.raise_keeps _ _)
  · exact s.skipCell_keeps ..

theorem State.reply_keeps (s : State) (o : Order) (a : Answer) : Keeps s (s.reply o a) := s.answer_keeps ..

end Sys2Proof.Machine
end

