-- ==== Sys2Proof/Laws/KeepsSteps.lean ====
section
/-! SUPPORT. `Keeps` of CU's step telegrams and stop causes, and of RU's grants (Steps, Runway). -/

namespace Sys2Proof.Machine

/-! ## Steps -/

theorem State.send_keeps (s : State) (c : Nat) (t : StepTelegram) : Keeps s (s.send c t) := .of_eq rfl rfl rfl rfl rfl rfl

theorem State.dropZeroSet_keeps (s : State) (k : Nat) : Keeps s (s.dropZeroSet k) := by
  unfold State.dropZeroSet; split
  · exact .refl
  · exact (s.modChannel_keeps _ _).trans (State.answer_keeps ..)

theorem State.setCraneState_keeps (s : State) (c : Nat) (st : CraneState) : Keeps s (s.setCraneState c st) := by
  have h : Keeps s (s.modCrane c fun k => { k with state := st }) := .modCrane (fun _ => rfl) fun _ => rfl
  unfold State.setCraneState; dsimp only; split
  · exact h.trans (State.dropZeroSet_keeps _ _)
  · exact h

theorem State.sendStep_keeps (s : State) (c : Nat) (kind : StepKind) : Keeps s (s.sendStep c kind) := by
  unfold State.sendStep
  exact .after (State.send_keeps ..) (.setCrane_sameGrant rfl rfl)

theorem State.sendStop_keeps (s : State) (c : Nat) (now : Bool) : Keeps s (s.sendStop c now) := by
  unfold State.sendStop; dsimp only; split
  · exact (s.send_keeps _ _).trans (.modCrane (fun _ => rfl) fun _ => rfl)
  · exact s.send_keeps _ _

theorem State.sendLimit_keeps (s : State) (c : Nat) : Keeps s (s.sendLimit c) := s.send_keeps _ _

theorem State.clearStep_keeps (s : State) (c : Nat) : Keeps s (s.clearStep c) := .modCrane (fun _ => rfl) fun _ => rfl

theorem State.dueStep_keeps (s : State) (c : Nat) (kind : StepKind) : Keeps s (s.dueStep c kind) := by
  unfold State.dueStep; split
  · exact .modCrane (fun _ => rfl) fun _ => rfl
  · exact s.sendStep_keeps ..

theorem State.resumeSteps_keeps (s : State) (c : Nat) : Keeps s (s.resumeSteps c) := by
  unfold State.resumeSteps; dsimp only; split
  · exact .refl
  · split
    · exact s.sendStep_keeps ..
    · exact s.sendStep_keeps ..
    · exact .refl

theorem State.addCause_keeps (s : State) (c : Nat) (cause : Cause) : Keeps s (s.addCause c cause) := by
  have h1 : Keeps s (s.modCrane c fun k => { k with causes := k.causes.put true cause }) :=
    .modCrane (fun _ => rfl) fun _ => rfl
  unfold State.addCause; dsimp only; split
  · exact .refl
  · split
    · refine .after (State.craneEntry_keeps ..) (.after (State.setCraneState_keeps ..) (.after ?_ h1))
      exact .modCrane (fun _ => rfl) fun _ => rfl
    · exact h1.trans (State.craneEntry_keeps ..)

theorem State.removeCause_keeps (s : State) (c : Nat) (cause : Cause) : Keeps s (s.removeCause c cause) := by
  have h1 : Keeps s (s.modCrane c fun k => { k with causes := k.causes.put false cause }) :=
    .modCrane (fun _ => rfl) fun _ => rfl
  unfold State.removeCause; dsimp only; split
  · split
    · exact .after (State.resumeSteps_keeps ..) (.after (State.setCraneState_keeps ..)
        (.after (State.craneEntry_keeps ..) h1))
    · exact h1.trans (State.craneEntry_keeps ..)
  · exact .refl

theorem State.setWorking_keeps (s : State) (c : Nat) (st : CraneState) : Keeps s (s.setWorking c st) := by
  unfold State.setWorking; split
  · exact .modCrane (fun _ => rfl) fun _ => rfl
  · exact s.setCraneState_keeps ..

theorem State.setPhase_keeps (s : State) (m : Nat) (ph : Phase) : Keeps s (s.setPhase m ph) := by
  unfold State.setPhase; split
  · exact .refl
  · next v _ =>
    have h1 := s.setMove_keeps m { v with phase := ph }
    dsimp only
    split <;> split
    · exact h1.trans ((State.progress_keeps ..).trans (State.progress_keeps ..))
    · exact h1.trans (State.progress_keeps ..)
    · exact h1.trans (State.progress_keeps ..)
    · exact h1

/-! ## Requests and grants -/

theorem State.endYield_keeps (s : State) (k : Nat) : Keeps s (s.endYield k) := by
  have h : Keeps s (s.modCrane k fun c => { c with yield := none }) := .modCrane (fun _ => rfl) fun _ => rfl
  unfold State.endYield; split
  · exact .refl
  · dsimp only; split
    · exact h.trans (State.setWorking_keeps ..)
    · exact h

theorem State.requestLeft_keeps (fuel : Nat) :
    ∀ (s : State) (k : Nat) (ended : Bool), Keeps s (State.requestLeft fuel s k ended) := by
  induction fuel with
  | zero => exact fun _ _ _ => .refl
  | succ fuel ih =>
    intro s k ended
    unfold State.requestLeft
    have h0 : Keeps s { s with
        requests := s.requests.filter fun r => r.crane != k
        stalled := s.stalled.filter fun i => i != k && i + 1 != k } := .of_eq rfl rfl rfl rfl rfl rfl
    refine .after (Keeps.foldl (fun s j => ?_) _ _) h0
    dsimp only
    split
    · refine .after (State.endYield_keeps ..) (.after (ih ..) ?_)
      repeat' split
      exacts [.modCrane (fun _ => rfl) fun _ => rfl, .refl, .refl]
    · repeat' split
      exacts [.modCrane (fun _ => rfl) fun _ => rfl, .refl, .refl]

/-- The neighbours a crane is separated from leave its span the room it lies in. -/
theorem State.room_of_blockers (s : State) (k : Nat) (r : Span) (h : (s.blockers k r).isEmpty = true)
    (hr : s.runSpan.lo ≤ r.lo ∧ r.hi ≤ s.runSpan.hi) : (s.roomOf k).lo ≤ r.lo ∧ r.hi ≤ (s.roomOf k).hi := by
  simp only [State.blockers, List.isEmpty_iff, List.filter_eq_nil_iff, State.neighbours, List.mem_append] at h
  constructor
  · simp only [State.roomOf]
    split
    · next h0 =>
      have := h (k - 1) (.inl (by simp [h0]))
      simp only [State.separated, if_neg (show ¬ k < k - 1 by omega), Bool.not_eq_eq_eq_not, Bool.not_true,
        Bool.not_eq_false, State.clearance] at this ⊢
      have := of_decide_eq_true this
      have := hr.1
      omega
    · exact hr.1
  · simp only [State.roomOf]
    split
    · next h0 =>
      have := h (k + 1) (.inr (by simp [h0]))
      simp only [State.separated, Nat.lt_succ_self, if_true, Bool.not_eq_eq_eq_not, Bool.not_true,
        Bool.not_eq_false, decide_eq_true_eq] at this
      have := hr.2
      omega
    · exact hr.2

theorem Span.meet_within (a b : Span) : b.lo ≤ (a.meet b).lo ∧ (a.meet b).hi ≤ b.hi := by
  simp only [Span.meet]; omega

theorem Span.limitTo_within (a b : Span) (hb : b.lo ≤ b.hi) (ha : a.lo ≤ a.hi) :
    (a.limitTo b).lo ≤ (a.limitTo b).hi ∧ b.lo ≤ (a.limitTo b).lo ∧ (a.limitTo b).hi ≤ b.hi := by
  simp only [Span.limitTo]; omega

theorem Span.cutEast_within (a : Span) (x : Int) (h : a.lo ≤ a.hi) :
    (a.cutEast x).lo ≤ (a.cutEast x).hi ∧ a.lo ≤ (a.cutEast x).lo ∧ (a.cutEast x).hi ≤ a.hi := by
  simp only [Span.cutEast]; omega

theorem Span.cutWest_within (a : Span) (x : Int) (h : a.lo ≤ a.hi) :
    (a.cutWest x).lo ≤ (a.cutWest x).hi ∧ a.lo ≤ (a.cutWest x).lo ∧ (a.cutWest x).hi ≤ a.hi := by
  simp only [Span.cutWest]; omega

theorem State.roomOf_within (s : State) (k : Nat) :
    s.runSpan.lo ≤ (s.roomOf k).lo ∧ (s.roomOf k).hi ≤ s.runSpan.hi := by
  constructor <;> simp only [State.roomOf] <;> split <;> omega

/-- A granted request takes a span compatible with the neighbours' grants, and so keeps them separated (R63, R65). -/
theorem State.grantRequest_keeps (s : State) (r : Request) (h : s.compatible r = true) : Keeps s (s.grantRequest r) := by
  have hb : (s.blockers r.crane (s.requestSpan r.crane r.targetX)).isEmpty = true := by
    simp only [State.compatible, Bool.and_eq_true] at h; exact h.1
  have h1 : ∀ dir, Keeps s (s.modCrane r.crane fun c =>
      { c with
        grant := s.requestSpan r.crane r.targetX, narrowDue := false
        leg := some { kind := r.kind, targetX := r.targetX, targetY := r.targetY, seq := r.seq, direction := dir } }) := by
    intro dir
    refine Keeps.setCrane rfl fun _ hf hl => ?_
    have hw := Span.meet_within
      { lo := min (s.crane r.crane).grant.lo (r.targetX - s.runway.margin)
        hi := max (s.crane r.crane).grant.hi (r.targetX + s.runway.margin) } s.runSpan
    have hroom := s.room_of_blockers r.crane _ hb hw
    have hg := hl _ hf
    have hrr := s.roomOf_within r.crane
    refine ⟨?_, hroom⟩
    simp only [State.requestSpan, Span.meet]
    omega
  unfold State.grantRequest
  dsimp only
  generalize (if (s.crane r.crane).xLaser < r.targetX then Direction.east
    else if r.targetX < (s.crane r.crane).xLaser then Direction.west else Direction.none) = dir
  have h2 := (h1 dir).trans (State.requestLeft_keeps listDepth _ r.crane false)
  split
  · split
    · exact .after (State.sendLimit_keeps ..) h2
    · split
      · refine Keeps.trans h2 ?_
        exact .modCrane (fun _ => rfl) fun _ => rfl
      · split
        · exact .after (State.sendStep_keeps ..) h2
        · exact h2
  · split
    · refine .after (State.dueStep_keeps ..) (.after ?_ h2)
      exact .modCrane (fun _ => rfl) fun _ => rfl
    · split
      · exact h2
      · split
        · exact .after (State.dueStep_keeps ..) (.after (State.setPhase_keeps ..) h2)
        · exact .after (State.dueStep_keeps ..) (.after (State.setPhase_keeps ..) h2)
        · exact h2

theorem State.grantOrJoin_keeps (s : State) (r : Request) : Keeps s (s.grantOrJoin r).1 := by
  unfold State.grantOrJoin
  split
  · next h => exact s.grantRequest_keeps r (by simp only [Bool.and_eq_true] at h; exact h.2)
  · exact .requests ..

/-! ## Yields and wait cycles -/

theorem State.giveYield_keeps (s : State) (j : Nat) (r : Request) (t : Nat) (cycle : Bool) :
    Keeps s (s.giveYield j r t cycle).1 := by
  refine .after (State.grantOrJoin_keeps ..) (.after (State.setWorking_keeps ..) ?_)
  exact .modCrane (fun _ => rfl) fun _ => rfl

theorem State.stallPair_keeps (s : State) (a b : Request) : Keeps s (s.stallPair a b) :=
  (Keeps.stalled s _).trans (State.report_keeps ..)

theorem State.uncutLeg_keeps (s : State) (k : Nat) : Keeps s (s.uncutLeg k) := by
  unfold State.uncutLeg
  dsimp only
  have h0 : Keeps s (if (s.crane k).gotoInProgress then s.sendStop k true else s) := by
    split
    · exact s.sendStop_keeps ..
    · exact .refl
  generalize (if (s.crane k).gotoInProgress then s.sendStop k true else s) = t at h0
  have h1 : Keeps (t.clearStep k) ((t.clearStep k).modCrane k fun c => { c with leg := none }) :=
    .modCrane (fun _ => rfl) fun _ => rfl
  have h2 := h0.trans ((t.clearStep_keeps k).trans h1)
  repeat' split
  · exact h2
  · exact h2.trans (State.setPhase_keeps ..)
  · exact h2.trans (State.setPhase_keeps ..)
  · exact h2

theorem State.resolveCycle_keeps (s : State) (a b : Request) : Keeps s (s.resolveCycle a b) := by
  unfold State.resolveCycle
  split
  · exact s.stallPair_keeps ..
  · split
    · exact s.stallPair_keeps ..
    · next w o _ _ t _ =>
      have h0 := State.requestLeft_keeps listDepth s w.crane true
      generalize State.requestLeft listDepth s w.crane true = u at h0
      have h1 : Keeps s (if w.remainder then u.uncutLeg w.crane else u) := by
        split
        · exact h0.trans (State.uncutLeg_keeps ..)
        · exact h0
      dsimp only
      generalize (if w.remainder then u.uncutLeg w.crane else u) = u at h1
      refine .after (State.giveYield_keeps ..) ?_
      split
      · refine .andCrane ?_ (fun _ => rfl) fun _ => rfl
        exact .after (State.modMove_keeps ..) h1
      · exact .andCrane h1 (fun _ => rfl) fun _ => rfl

theorem State.checkOnce_keeps (s t : State) (h : s.checkOnce = some t) : Keeps s t := by
  unfold State.checkOnce at h
  split at h
  · cases h; exact s.giveYield_keeps ..
  · simp only [Option.map_eq_some_iff] at h
    obtain ⟨p, -, rfl⟩ := h
    exact s.resolveCycle_keeps ..

theorem State.requestAgain_keeps (s : State) (k : Nat) : Keeps s (s.requestAgain k).1 := by
  have h1 : Keeps s (s.modCrane k fun c => { c with deferral := none }) := .modCrane (fun _ => rfl) fun _ => rfl
  unfold State.requestAgain
  dsimp only
  split <;> split
  · exact .after (State.grantOrJoin_keeps ..) (.after (State.modMove_keeps ..) h1)
  · exact .after (State.grantOrJoin_keeps ..) h1
  · exact .after (State.modMove_keeps ..) h1
  · exact h1

theorem State.settle_keeps (fuel : Nat) : ∀ (s : State) (look : Bool), Keeps s (State.settle fuel s look) := by
  induction fuel with
  | zero => exact fun _ _ => .refl
  | succ fuel ih =>
    intro s look
    unfold State.settle
    split
    · exact (s.requestAgain_keeps _).trans (ih ..)
    · split
      · split
        · next h => exact (s.checkOnce_keeps _ h).trans (ih ..)
        · exact .refl
      · exact .refl

theorem State.settleRU_keeps (s : State) (look : Bool) : Keeps s (s.settleRU look) := State.settle_keeps ..

theorem State.requestLeg_keeps (s : State) (r : Request) : Keeps s (s.requestLeg r) :=
  (s.grantOrJoin_keeps r).trans (State.settleRU_keeps ..)

theorem State.scan_keeps (s : State) : Keeps s s.scan := by
  refine .after (State.settleRU_keeps ..) (Keeps.foldl (fun s k => ?_) _ _)
  split
  · split
    · next h => exact s.grantRequest_keeps _ (by simp only [Bool.and_eq_true] at h; exact h.2)
    · exact .refl
  · exact .refl

theorem State.endLeg_keeps (s : State) (k : Nat) : Keeps s (s.endLeg k) :=
  .after (State.requestLeft_keeps ..) (.andCrane .refl (fun _ => rfl) fun _ => rfl)

theorem State.withdrawRequest_keeps (s : State) (k : Nat) : Keeps s (s.withdrawRequest k) := State.requestLeft_keeps ..

/-! ## Bay closures -/

theorem State.listBreach_keeps (s : State) (k b : Nat) : Keeps s (s.listBreach k b) :=
  (s.modBay_keeps ..).trans (State.report_keeps ..)

theorem State.joinRemainder_keeps (s : State) (k : Nat) (beyond : Bool) : Keeps s (s.joinRemainder k beyond) := by
  unfold State.joinRemainder; split
  · exact .refl
  · split
    · exact .requests ..
    · exact .refl

/-- A cut leaves a part of the grant. -/
theorem State.cutGrant_keeps (s : State) (k : Nat) (g : Span)
    (hg : (s.crane k).grant.lo ≤ (s.crane k).grant.hi →
      g.lo ≤ g.hi ∧ (s.crane k).grant.lo ≤ g.lo ∧ g.hi ≤ (s.crane k).grant.hi) :
    Keeps s (s.cutGrant k g) := by
  have h1 : Keeps s (s.modCrane k fun c => { c with grant := g }) :=
    Keeps.setCrane rfl fun _ hf hl => by
      have hk := hl k hf
      have := hg hk.1
      dsimp only
      omega
  unfold State.cutGrant
  dsimp only
  refine .after (State.scan_keeps _) (.after (State.joinRemainder_keeps ..) ?_)
  split
  · exact .after (State.sendLimit_keeps ..) h1
  · exact h1

theorem State.sendStop_grant (s : State) (c k : Nat) (now : Bool) :
    ((s.sendStop c now).crane k).grant = (s.crane k).grant := by
  unfold State.sendStop
  dsimp only
  split
  · simp only [State.modCrane, State.crane_setCrane]
    split
    · next h => subst h; rfl
    · rfl
  · rfl

theorem writeBytes_cranes (bs : List Byte) : ∀ (s : State) (o : Nat), (s.writeBytes o bs).cranes = s.cranes := by
  induction bs with
  | nil => exact fun _ _ => rfl
  | cons b rest ih => exact fun s o => ih _ _

theorem State.writeEntry_cranes (s : State) (e : JournalEntry) : (s.writeEntry e).cranes = s.cranes := by
  simp only [State.writeEntry, State.raise, State.writeGroup, writeBytes_cranes]

theorem State.holdEntry_cranes (s : State) (e : JournalEntry) : (s.holdEntry e).cranes = s.cranes := by
  unfold State.holdEntry State.writeJournalGroup
  split
  · split <;> simp only [State.raise, State.writeGroup, writeBytes_cranes]
  · rfl

theorem State.flushHeld_cranes (l : List JournalEntry) : ∀ s : State, (State.flushHeld l s).cranes = s.cranes := by
  induction l with
  | nil => exact fun _ => rfl
  | cons e rest ih =>
    intro s; unfold State.flushHeld; split
    · rw [ih, State.writeEntry_cranes]
    · rfl

/-- Producing an entry leaves every crane's record alone. -/
theorem State.produce_cranes (s : State) (e : JournalEntry) : (s.produce e).cranes = s.cranes := by
  unfold State.produce State.writeOrHold State.flush
  dsimp only
  repeat' split
  all_goals simp only [State.writeEntry_cranes, State.holdEntry_cranes, State.flushHeld_cranes]

theorem State.report_cranes (s : State) (n : Notice) (e : JournalEntry) : (s.report n e).cranes = s.cranes :=
  State.produce_cranes _ _

theorem State.listBreach_crane (s : State) (k b j : Nat) : (s.listBreach k b).crane j = s.crane j := by
  simp only [State.crane, State.listBreach, State.report_cranes]; rfl

theorem State.closureTest_keeps (s : State) (k b : Nat) : Keeps s (s.closureTest k b) := by
  unfold State.closureTest
  dsimp only
  split
  · exact .refl
  · split
    · exact s.listBreach_keeps ..
    · split
      · refine Keeps.trans ?_ (State.cutGrant_keeps _ _ _ ?_)
        · refine .after (State.listBreach_keeps ..) ?_
          split
          · exact .andCrane (s.sendStop_keeps ..) (fun _ => rfl) fun _ => rfl
          · exact s.sendStop_keeps ..
        · have hgr : ∀ u : State, (u.modCrane k fun c => { c with givenUp := GivenUp.zone }).crane k
              = { u.crane k with givenUp := .zone } := by
            intro u; simp only [State.modCrane, State.crane_setCrane, if_true]
          intro h
          have e : (State.crane (State.listBreach (if (s.crane k).gotoInProgress = true then
              (s.sendStop k true).modCrane k fun c => { c with givenUp := .zone } else s.sendStop k true) k b) k).grant
              = (s.crane k).grant := by
            rw [State.listBreach_crane]
            split
            · rw [hgr]; exact s.sendStop_grant ..
            · exact s.sendStop_grant ..
          rw [e] at h ⊢
          split
          · exact Span.cutEast_within _ _ h
          · exact Span.cutWest_within _ _ h
      · refine State.cutGrant_keeps _ _ _ fun h => ?_
        split
        · exact Span.cutEast_within _ _ h
        · exact Span.cutWest_within _ _ h

theorem State.closureTests_keeps (s : State) (k : Nat) : Keeps s (s.closureTests k) :=
  Keeps.foldl (fun _ _ => State.closureTest_keeps ..) _ _

theorem State.breachTest_keeps (s : State) (k b : Nat) : Keeps s (s.breachTest k b) := by
  unfold State.breachTest
  dsimp only
  split
  · exact .refl
  · split
    · exact s.modBay_keeps ..
    · split
      · exact .after (State.closureTest_keeps ..) (s.modBay_keeps ..)
      · exact .refl

/-! ## Widening, holds and reports -/

theorem State.stopNeighbour_keeps (s : State) (j : Nat) (cause : Cause) : Keeps s (s.stopNeighbour j cause) :=
  (s.sendStop_keeps ..).trans (State.addCause_keeps ..)

theorem State.widen_keeps (s : State) (k : Nat) : Keeps s (s.widen k) := by
  unfold State.widen
  dsimp only
  refine .after (State.closureTests_keeps ..) ?_
  refine Keeps.trans (t := s.setCrane k
    { s.crane k with
      grant := (((s.crane k).grant.hull
        { lo := (s.crane k).positionUsed.lo - s.braking k - s.runway.margin
          hi := (s.crane k).positionUsed.hi + s.braking k + s.runway.margin }).meet s.runSpan).meet (s.roomOf k)
      heldWide := true
      beforeWide := if (s.crane k).heldWide then (s.crane k).beforeWide else (s.crane k).grant }) ?_ ?_
  · refine .setCrane rfl fun _ hf hl => ?_
    have hk := hl k hf
    have hrr := s.roomOf_within k
    simp only [Span.meet, Span.hull]
    omega
  · generalize s.setCrane k _ = t
    split <;> split
    · refine .andCrane (.after (State.stopNeighbour_keeps ..) ?_) (fun _ => rfl) fun _ => rfl
      exact .andCrane (State.stopNeighbour_keeps ..) (fun _ => rfl) fun _ => rfl
    · exact .andCrane (State.stopNeighbour_keeps ..) (fun _ => rfl) fun _ => rfl
    · exact .andCrane (State.stopNeighbour_keeps ..) (fun _ => rfl) fun _ => rfl
    · exact .refl

/-- A span limited to the grant, then to the usable runway, lies within the grant. -/
theorem Keeps.setLimited {s : State} {k : Nat} {v : Crane} (w : Span) (h : v.kept = (s.crane k).kept)
    (hw : w.lo ≤ w.hi) (hv : v.grant = (w.limitTo (s.crane k).grant).limitTo s.runSpan) : Keeps s (s.setCrane k v) :=
  .setCrane h fun _ hf hl => by
    have hk := hl k hf
    have hrr := s.roomOf_within k
    simp only [hv, Span.limitTo]
    omega

theorem State.endHold_keeps (s : State) (k : Nat) : Keeps s (s.endHold k) := by
  unfold State.endHold
  dsimp only
  split
  · exact .refl
  · refine .after (State.scan_keeps _) (.after (State.closureTests_keeps ..) ?_)
    have hn : (Span.around (s.crane k).xLaser s.runway.margin).lo ≤ (Span.around (s.crane k).xLaser s.runway.margin).hi := by
      simp only [Span.around]; omega
    have hw : ∀ w : Span, w.lo ≤ w.hi → Keeps s (s.setCrane k
        { s.crane k with
          grant := (w.limitTo (s.crane k).grant).limitTo s.runSpan
          heldWide := false, placedWest := false, placedEast := false }) :=
      fun w hw => .setLimited w rfl hw rfl
    have hc : ∀ t : State, Keeps s t → Keeps s
        (if (s.crane k).placedEast then
          State.removeCause (if (s.crane k).placedWest then t.removeCause (k - 1) .east else t) (k + 1) .west
        else if (s.crane k).placedWest then t.removeCause (k - 1) .east else t) := by
      intro t ht
      split <;> split
      · exact .after (State.removeCause_keeps ..) (.after (State.removeCause_keeps ..) ht)
      · exact .after (State.removeCause_keeps ..) ht
      · exact .after (State.removeCause_keeps ..) ht
      · exact ht
    refine hc _ (hw _ ?_)
    split
    · simp only [Span.hull]; omega
    · exact hn

theorem Crane.trailed_within (c : Crane) (m : Int) (h : c.grant.lo ≤ c.grant.hi) :
    (c.trailed m).lo ≤ (c.trailed m).hi ∧ c.grant.lo ≤ (c.trailed m).lo ∧ (c.trailed m).hi ≤ c.grant.hi := by
  rcases hd : c.leg.map Leg.direction with _ | (_ | _ | _) <;> simp only [Crane.trailed, hd] <;> omega

theorem State.shrink_keeps (s : State) (k : Nat) : Keeps s (s.shrink k) := by
  unfold State.shrink
  by_cases he : (s.crane k).trailed s.runway.margin = (s.crane k).grant
  · exact if_pos he ▸ .refl
  · dsimp only
    rw [if_neg he]
    have h0 : Keeps s (s.modCrane k fun c => { c with grant := (s.crane k).trailed s.runway.margin }) :=
      .setCrane rfl fun _ hf hl => by
        have := hl k hf
        have := Crane.trailed_within _ s.runway.margin this.1
        dsimp only
        omega
    exact .after (State.scan_keeps _) (.after (State.sendLimit_keeps ..) h0)

/-- Keeping off an extent takes nothing of a room that the span which keeps off it uses. -/
theorem Span.clearOf_within (room g e : Span) (hl : room.lo ≤ g.lo) (hh : g.hi ≤ room.hi) :
    room.lo ≤ (room.clearOf g e).lo ∧ (room.clearOf g e).lo ≤ g.lo ∧ g.hi ≤ (room.clearOf g e).hi ∧
      (room.clearOf g e).hi ≤ room.hi := by
  simp only [Span.clearOf]
  split <;> split <;> omega

/-- A span that keeps off an extent has no stretch of the runway it is left in common with the extent (R79). -/
theorem Span.clearOf_off (room g e : Span) (hg : g.lo ≤ g.hi) (h : g.overlaps e = false) :
    (room.clearOf g e).overlaps e = false := by
  have h := of_decide_eq_false h
  refine decide_eq_false ?_
  simp only [Span.meet, Span.clearOf] at h ⊢
  split <;> split <;> omega

/-- The room of a narrowing lies between the neighbours and holds the grant. -/
theorem State.narrowRoom_within (s : State) (k : Nat)
    (hl : (s.roomOf k).lo ≤ (s.crane k).grant.lo) (hh : (s.crane k).grant.hi ≤ (s.roomOf k).hi) :
    (s.roomOf k).lo ≤ (s.narrowRoom k).lo ∧ (s.narrowRoom k).lo ≤ (s.crane k).grant.lo ∧
      (s.crane k).grant.hi ≤ (s.narrowRoom k).hi ∧ (s.narrowRoom k).hi ≤ (s.roomOf k).hi := by
  unfold State.narrowRoom
  generalize [0, 1, 2].filter (s.keepsOff k) = bays
  generalize s.roomOf k = room at hl hh ⊢
  induction bays generalizing room with
  | nil => exact ⟨Int.le_refl _, hl, hh, Int.le_refl _⟩
  | cons b rest ih =>
    have h1 := Span.clearOf_within room (s.crane k).grant (s.extent b) hl hh
    have h2 := ih _ h1.2.1 h1.2.2.1
    exact ⟨Int.le_trans h1.1 h2.1, h2.2.1, h2.2.2.1, Int.le_trans h2.2.2.2 h1.2.2.2⟩

/-- A narrowed grant keeps off every closed extent that the grant before kept off (R79). -/
theorem State.narrowRoom_off (s : State) (k b : Nat) (hg : (s.crane k).grant.lo ≤ (s.crane k).grant.hi) (hb : b < 3)
    (h : s.keepsOff k b = true) : (s.narrowRoom k).overlaps (s.extent b) = false := by
  have hm : b ∈ [0, 1, 2].filter (s.keepsOff k) := List.mem_filter.2 ⟨by simp; omega, h⟩
  have ho : (s.crane k).grant.overlaps (s.extent b) = false := by
    simp only [State.keepsOff, Bool.and_eq_true, Bool.not_eq_true'] at h
    exact h.2
  unfold State.narrowRoom
  generalize [0, 1, 2].filter (s.keepsOff k) = bays at hm
  have sub : ∀ (l : List Nat) (room : Span), room.overlaps (s.extent b) = false →
      (l.foldl (fun room b => room.clearOf (s.crane k).grant (s.extent b)) room).overlaps (s.extent b) = false := by
    intro l
    induction l with
    | nil => exact fun _ hr => hr
    | cons c rest ih =>
      intro room hr
      refine ih _ (decide_eq_false ?_)
      have hr := of_decide_eq_false hr
      simp only [Span.meet, Span.clearOf] at hr ⊢
      split <;> split <;> omega
  obtain ⟨l, r, rfl⟩ := List.append_of_mem hm
  rw [List.foldl_append]
  exact sub r _ (Span.clearOf_off _ _ _ hg ho)

theorem State.narrow_keeps (s : State) (k : Nat) : Keeps s (s.narrow k) := by
  unfold State.narrow
  dsimp only
  split
  · refine .after (State.scan_keeps _) (.setCrane rfl fun _ hf hl => ?_)
    have hk := hl k hf
    have hr := s.narrowRoom_within k hk.2.1 hk.2.2
    simp only [Span.limitTo, Span.around]
    omega
  · exact .refl

theorem State.reportRU_keeps (s : State) (k : Nat) (loadedBefore wasHeld : Bool) :
    Keeps s (s.reportRU k loadedBefore wasHeld) := by
  unfold State.reportRU
  dsimp only
  have h1 : Keeps s (if (s.crane k).lock = .locked ∧ !(s.crane k).heldWide then
      (if wasHeld then s else s.shrink k).narrow k else s) := by
    split
    · refine Keeps.trans ?_ (State.narrow_keeps _ k)
      split
      · exact .refl
      · exact s.shrink_keeps k
    · exact .refl
  have h2 := h1.trans (Keeps.foldl (f := fun s b => s.breachTest k b) (fun _ _ => State.breachTest_keeps ..) [0, 1, 2] _)
  split
  · exact h2.trans (State.closureTests_keeps ..)
  · exact h2

theorem State.closeExtent_keeps (s : State) (b : Nat) : Keeps s (s.closeExtent b) :=
  Keeps.foldl (fun _ _ => State.closureTest_keeps ..) _ _

theorem State.openExtent_keeps (s : State) (b : Nat) : Keeps s (s.openExtent b) :=
  (s.modBay_keeps ..).trans (State.scan_keeps _)

end Sys2Proof.Machine
end

