-- ==== Sys2Proof/Laws/KeepsMoves.lean ====
section
/-! SUPPORT. `Keeps` of the store's marks, of the bays and of the course of a move (Store, Loading, Moves). -/

namespace Sys2Proof.Machine

/-! ## Store -/

theorem State.modEntry_keeps (s : State) (b e : Nat) (f : Entry → Entry) : Keeps s (s.modEntry b e f) := by
  unfold State.modEntry; split
  · exact s.modBay_keeps ..
  · exact .refl

theorem State.markSource_keeps (s : State) (p : Place) (m : Nat) : Keeps s (s.markSource p m) := by
  unfold State.markSource; split
  · exact s.setSlot_keeps ..
  · exact s.setStation_keeps ..
  · exact s.modEntry_keeps ..
  · exact .refl

theorem State.markDest_keeps (s : State) (p : Place) (m r : Nat) : Keeps s (s.markDest p m r) := by
  unfold State.markDest; split
  · exact s.setSlot_keeps ..
  · exact s.modEntry_keeps ..
  · exact .refl

theorem State.createMove_keeps {s t : State} {origin : Origin} {tag r : Nat} {c : Coil} {dest : Place} {auto : Bool}
    {crane : Nat} (h : s.createMove origin tag r c dest auto crane = some t) : Keeps s t := by
  unfold State.createMove at h
  split at h
  · split at h
    · cases h
    · cases h
      refine .andCrane (.after (State.setMove_keeps ..) (.after (.nextSeq ..) ?_)) (fun _ => rfl) fun _ => rfl
      exact .after (State.modCoil_keeps ..) (.after (State.markDest_keeps ..) (s.markSource_keeps ..))
  · cases h

theorem State.freeTarget_keeps (s : State) (p : Place) (m : Nat) : Keeps s (s.freeTarget p m) := by
  unfold State.freeTarget; repeat' split
  exacts [s.setSlot_keeps .., .refl, .refl]

theorem State.freeSource_keeps (s : State) (p : Place) (m : Nat) : Keeps s (s.freeSource p m) := by
  unfold State.freeSource; repeat' split
  exacts [s.setSlot_keeps .., .refl, s.setStation_keeps .., .refl, .refl]

theorem State.restoreSource_keeps (s : State) (p : Place) (m : Nat) : Keeps s (s.restoreSource p m) := by
  unfold State.restoreSource; repeat' split
  exacts [s.setSlot_keeps .., .refl, s.setStation_keeps .., .refl, .refl]

theorem State.fillSlot_keeps (s : State) (p : Place) (r : Nat) : Keeps s (s.fillSlot p r) := by
  unfold State.fillSlot; split
  · exact s.setSlot_keeps ..
  · exact .refl

theorem State.setPlace_keeps (s : State) (r : Nat) (p : Place) : Keeps s (s.setPlace r p) := s.modCoil_keeps ..

theorem State.rechoose_keeps {s t : State} {m : Nat} (h : s.rechoose m = some t) : Keeps s t := by
  unfold State.rechoose at h
  split at h
  · cases h
  · split at h
    · cases h
    · dsimp only at h
      split at h
      · cases h
      · cases h
        exact .after (State.setMove_keeps ..) (.after (State.markDest_keeps ..) (s.freeTarget_keeps ..))

/-! ## Bays -/

theorem State.endTracking_keeps (s : State) (k : Nat) : Keeps s (s.endTracking k) :=
  .after (State.dropZeroSet_keeps ..) (s.modChannel_keeps ..)

theorem State.setBayState_keeps (s : State) (b : Nat) (st : BayState) : Keeps s (s.setBayState b st) := by
  unfold State.setBayState; dsimp only; split
  · exact .after (State.endTracking_keeps ..) (.after (State.endTracking_keeps ..) (s.modBay_keeps ..))
  · exact s.modBay_keeps ..

theorem State.openPlatform_keeps (s : State) (b : Nat) (p : Purpose) : Keeps s (s.openPlatform b p).1 := by
  unfold State.openPlatform
  split
  · dsimp only
    split
    · exact .after (State.progress_keeps ..) (s.modBay_keeps ..)
    · dsimp only
      exact s.modBay_keeps ..
  · exact .refl

theorem State.reportCause_keeps (s : State) (f r : Report) : Keeps s (s.reportCause f r).1 := by
  unfold State.reportCause; dsimp only; split
  · exact .freeCount ..
  · exact .refl

theorem State.answerWaiting_keeps (s : State) (b : Nat) (a : Answer) : Keeps s (s.answerWaiting b a) := by
  unfold State.answerWaiting; split
  · exact .after (State.answer_keeps ..) (s.modBay_keeps ..)
  · exact .refl

theorem State.dropArrival_keeps (s : State) (b : Nat) (a : Answer) : Keeps s (s.dropArrival b a) :=
  .after (State.answerWaiting_keeps ..) (.after (State.modBay_keeps ..) (s.setBayState_keeps ..))

theorem State.settleArrival_keeps (s : State) (b : Nat) (r : PlatformResult) : Keeps s (s.settleArrival b r) := by
  unfold State.settleArrival; dsimp only; repeat' split
  exacts [s.dropArrival_keeps ..,
    .after (State.answerWaiting_keeps ..) (.after (State.modBay_keeps ..) (s.setBayState_keeps ..)),
    .after (State.dropArrival_keeps ..) (s.reportCause_keeps ..), s.dropArrival_keeps .., s.dropArrival_keeps ..]

theorem State.endCheck_keeps (s : State) (b : Nat) (st : BayState) (cause f r fw rw : Nat) :
    Keeps s (s.endCheck b st cause f r fw rw) :=
  .after (State.report_keeps ..) (s.setBayState_keeps ..)

theorem State.settleCheck_keeps (s : State) (b : Nat) (r : PlatformResult) : Keeps s (s.settleCheck b r) := by
  unfold State.settleCheck; dsimp only; split
  exacts [s.endCheck_keeps .., .after (State.endCheck_keeps ..) (s.reportCause_keeps ..), s.endCheck_keeps ..,
    s.endCheck_keeps ..]

theorem State.settlePlatform_keeps (s : State) (b : Nat) (p : Purpose) (r : PlatformResult) :
    Keeps s (s.settlePlatform b p r) := by
  unfold State.settlePlatform; split
  · exact s.settleArrival_keeps ..
  · exact s.settleCheck_keeps ..

theorem State.enterCheck_keeps (s : State) (b : Nat) : Keeps s (s.enterCheck b) := by
  have h : Keeps s ((s.setBayState b .check).produce (bayEntry (s.setBayState b .check) b {})) :=
    .after (State.produce_keeps ..) (s.setBayState_keeps ..)
  unfold State.enterCheck; dsimp only; split
  · exact .after (State.openPlatform_keeps ..) h
  · exact .after (State.settleCheck_keeps ..) (.after (State.openPlatform_keeps ..) h)

theorem State.blockEntry_keeps (s : State) (b e : Nat) (cause : BlockCause) : Keeps s (s.blockEntry b e cause) := by
  unfold State.blockEntry; dsimp only
  refine .after (State.report_keeps ..) ?_
  split
  · exact .after (State.setBayState_keeps ..) (s.modEntry_keeps ..)
  · exact s.modEntry_keeps ..

theorem State.entryMove_keeps (s : State) (b e r : Nat) (c : Coil) : Keeps s (s.entryMove b e r c).1 := by
  unfold State.entryMove; repeat' split
  next => exact .refl
  next h => exact State.createMove_keeps h
  next => exact .refl

theorem State.digUppers_keeps (b e i : Nat) (l : List Nat) : ∀ s, Keeps s (State.digUppers b e i l s).1 := by
  induction l with
  | nil => exact fun _ => .refl
  | cons u rest ih =>
    intro s
    rw [State.digUppers]
    (repeat' split) <;> first | exact ih s | exact .refl | skip
    next h => exact (State.createMove_keeps h).trans (ih _)

theorem State.evaluate_keeps (s : State) (b e r : Nat) (c : Coil) : Keeps s (s.evaluate b e r c).1 := by
  unfold State.evaluate
  split
  · next i _ =>
    have h := State.digUppers_keeps b e i (uppersOver i) s
    split
    · generalize State.digUppers b e i (uppersOver i) s = p at h
      obtain ⟨t, a⟩ := p
      cases a with
      | some a => exact h
      | none =>
        dsimp only
        split
        · exact h
        · exact .after (State.entryMove_keeps ..) h
    · exact s.entryMove_keeps ..
  · exact s.entryMove_keeps ..

theorem State.askEntry_keeps (s : State) (b e : Nat) : Keeps s (s.askEntry b e) := by
  unfold State.askEntry
  split
  · exact .refl
  · split
    · exact .refl
    · split
      · exact .refl
      · split
        · exact s.blockEntry_keeps ..
        · exact .refl
        · dsimp only
          split
          · exact .after (State.modEntry_keeps ..) (s.evaluate_keeps ..)
          · exact .after (State.modEntry_keeps ..) (s.evaluate_keeps ..)
          · exact .after (State.modEntry_keeps ..) (s.evaluate_keeps ..)
          · exact .after (State.blockEntry_keeps ..) (s.evaluate_keeps ..)

theorem State.startEntries_keeps (fuel : Nat) : ∀ (s : State) (b : Nat), Keeps s (State.startEntries fuel s b) := by
  induction fuel with
  | zero => exact fun _ _ => .refl
  | succ fuel ih =>
    intro s b
    unfold State.startEntries
    split
    · split
      · exact .refl
      · exact .after (ih ..) (.after (State.askEntry_keeps ..) (s.modEntry_keeps ..))
    · exact .refl

theorem State.entryLoaded_keeps (s : State) (b e : Nat) : Keeps s (s.entryLoaded b e) := by
  unfold State.entryLoaded; dsimp only; split
  · exact .after (State.enterCheck_keeps ..) (.after (State.produce_keeps ..)
      (.after (State.modBay_keeps ..) (s.modEntry_keeps ..)))
  · exact .after (State.startEntries_keeps ..) (.after (State.produce_keeps ..)
      (.after (State.modBay_keeps ..) (s.modEntry_keeps ..)))

theorem State.askAll_keeps (s : State) : Keeps s s.askAll := by
  refine Keeps.foldl (fun s b => Keeps.foldl (fun s e => ?_) _ _) _ _
  split
  · split
    · exact s.askEntry_keeps ..
    · exact .refl
  · exact .refl

theorem State.fillBed_keeps (s : State) (b e : Nat) : Keeps s (s.fillBed b e) := by
  unfold State.fillBed; split
  · exact .refl
  · exact .after (State.modBay_keeps ..) (s.modEntry_keeps ..)

theorem State.releaseBed_keeps (s : State) (b e : Nat) : Keeps s (s.releaseBed b e) := s.modEntry_keeps ..

theorem State.leaveBed_keeps (s : State) (b e : Nat) : Keeps s (s.leaveBed b e) := by
  unfold State.leaveBed; split
  · exact .refl
  · split
    · exact .after (State.blockEntry_keeps ..) (.after (State.modBay_keeps ..) (s.modEntry_keeps ..))
    · exact .refl

theorem State.restoreBed_keeps (s : State) (b e : Nat) : Keeps s (s.restoreBed b e) := s.modEntry_keeps ..

theorem State.recheck_keeps (s : State) (b e w : Nat) : Keeps s (s.recheck b e w).1 := by
  unfold State.recheck; split
  · exact .refl
  · dsimp only; split
    · exact s.modEntry_keeps ..
    · exact s.modEntry_keeps ..

theorem State.endAtLU_keeps (s : State) (v : Move) (at_ : CoilAt) (res : MoveResult) : Keeps s (s.endAtLU v at_ res) := by
  unfold State.endAtLU
  have h1 : Keeps s (match v.source with
      | .bed b e =>
        match at_ with
        | .source => s.restoreBed b e
        | .hook => s.leaveBed b e
        | .dest => s
      | _ => s) := by
    repeat' split
    exacts [s.restoreBed_keeps .., s.leaveBed_keeps .., .refl, .refl]
  have h2 : ∀ t, Keeps s t → Keeps s (match v.dest with
      | .bed b e => if at_ = CoilAt.dest then t else t.releaseBed b e
      | _ => t) := by
    intro t ht
    repeat' split
    exacts [ht, .after (State.releaseBed_keeps ..) ht, ht]
  have h3 : ∀ t, Keeps s t → Keeps s (match v.origin with
      | .plan b e =>
        if at_ = CoilAt.dest then t.entryLoaded b e
        else
          match res with
          | .failed r => t.blockEntry b e (.failed r)
          | _ => t.blockEntry b e .aborted
      | _ => t) := by
    intro t ht
    repeat' split
    exacts [.after (State.entryLoaded_keeps ..) ht, .after (State.blockEntry_keeps ..) ht,
      .after (State.blockEntry_keeps ..) ht, ht]
  exact h3 _ (h2 _ h1)

/-! ## The end of a move -/

theorem State.afterCU_keeps (u s : State) : Keeps s (State.afterCU u s) := s.settleRU_keeps _

theorem State.endAtSU_keeps (s : State) (m : Nat) (v : Move) (at_ : CoilAt) : Keeps s (s.endAtSU m v at_) := by
  unfold State.endAtSU
  refine .after (State.modCoil_keeps ..) ?_
  split
  · exact .after (State.setPlace_keeps ..) (.after (State.freeTarget_keeps ..) (s.restoreSource_keeps ..))
  · exact .after (State.setPlace_keeps ..) (.after (State.freeTarget_keeps ..) (s.freeSource_keeps ..))
  · exact .refl

theorem State.dropMove_keeps (s : State) (m : Nat) (v : Move) : Keeps s (s.dropMove m v) :=
  .andCrane (.moves ..) (fun _ => rfl) fun _ => rfl

theorem State.reportEnd_keeps (s : State) (m : Nat) (v : Move) (res : MoveResult) : Keeps s (s.reportEnd m v res) := by
  unfold State.reportEnd
  dsimp only
  have h1 : Keeps s (if v.journaled res then s.produce (moveEndEntry s m v res) else s) := by
    split
    · exact s.produce_keeps _
    · exact .refl
  have h2 : ∀ t, Keeps s t → Keeps s (match v.origin with
      | .cell n take => t.answer n take (moveAnswer t v res)
      | _ => t) := by
    intro t ht
    split
    · exact .after (State.answer_keeps ..) ht
    · exact ht
  have h3 : ∀ t, Keeps s t → Keeps s (match v.abort with
      | some a => t.answer a.cell a.take (abortAnswer res)
      | none => t) := by
    intro t ht
    split
    · exact .after (State.answer_keeps ..) ht
    · exact ht
  exact h3 _ (h2 _ h1)

theorem State.releaseCrane_keeps (s : State) (v : Move) : Keeps s (s.releaseCrane v) := by
  have h : Keeps s (s.modCrane v.crane fun c => { c with deferral := none }) := .modCrane (fun _ => rfl) fun _ => rfl
  unfold State.releaseCrane
  split
  · exact .refl
  · dsimp only
    split
    · exact .andCrane h (fun _ => rfl) fun _ => rfl
    · exact .after (State.setWorking_keeps ..) (.after (State.clearStep_keeps ..) h)
    · exact h

theorem State.endMove_keeps (s : State) (m : Nat) (at_ : CoilAt) (res : MoveResult) : Keeps s (s.endMove m at_ res) := by
  unfold State.endMove; split
  · exact .refl
  · exact .after (State.releaseCrane_keeps ..) (.after (State.reportEnd_keeps ..) (.after (State.askAll_keeps _)
      (.after (State.dropMove_keeps ..) (.after (State.endAtLU_keeps ..) (s.endAtSU_keeps ..)))))

/-! ## The course of a move -/

theorem State.lowerOnto_keeps (s : State) (m : Nat) (p : Place) : Keeps s (s.lowerOnto m p) := by
  unfold State.lowerOnto; split
  · exact s.dueStep_keeps ..
  · exact .refl

theorem State.startSetBack_keeps (s : State) (m : Nat) (r : Reason) : Keeps s (s.startSetBack m r) := by
  unfold State.startSetBack; split
  · exact .refl
  · exact .after (State.lowerOnto_keeps ..) (.after (State.setPhase_keeps ..) (s.modMove_keeps ..))

theorem State.enterLeg2_keeps (s : State) (m : Nat) : Keeps s (s.enterLeg2 m) := by
  unfold State.enterLeg2
  split
  · exact .refl
  · next v _ =>
    dsimp only
    have h1 : Keeps s ((s.setPhase m .leg2Wait).freeSource v.source m) :=
      .after (State.freeSource_keeps ..) (s.setPhase_keeps ..)
    have h2 : Keeps s (match v.source with
        | .bed b e => ((s.setPhase m .leg2Wait).freeSource v.source m).leaveBed b e
        | _ => (s.setPhase m .leg2Wait).freeSource v.source m) := by
      split
      · exact .after (State.leaveBed_keeps ..) h1
      · exact h1
    have h3 : ∀ t, Keeps s t → Keeps s (match t.legRequest v.crane with
        | some r => t.requestLeg r
        | none => t) := by
      intro t ht
      split
      · exact .after (State.requestLeg_keeps ..) ht
      · exact ht
    exact h3 _ h2

theorem State.askRechoice_keeps (s : State) (m : Nat) : Keeps s (s.askRechoice m) := by
  unfold State.askRechoice; split
  · next h => exact (State.rechoose_keeps h).trans (State.enterLeg2_keeps ..)
  · exact s.startSetBack_keeps ..

theorem State.recordWeighing_keeps (s : State) (v : Move) (r : HookResult) : Keeps s (s.recordWeighing v r) := by
  unfold State.recordWeighing; split
  · exact .refl
  · dsimp only; split
    · exact .after (State.report_keeps ..) (State.setCoil_keeps ..)
    · exact State.setCoil_keeps ..

theorem State.afterWeighing_keeps (s : State) (m : Nat) (v : Move) (r : HookResult) (within : Bool) :
    Keeps s (s.afterWeighing m v r within) := by
  unfold State.afterWeighing; dsimp only; repeat' split
  exacts [s.startSetBack_keeps .., .after (State.enterLeg2_keeps ..) (s.recheck_keeps ..),
    .after (State.startSetBack_keeps ..) (s.recheck_keeps ..), s.startSetBack_keeps .., s.startSetBack_keeps ..,
    s.askRechoice_keeps _, s.startSetBack_keeps .., s.enterLeg2_keeps _, s.enterLeg2_keeps _]

theorem State.weighResult_keeps (s : State) (m : Nat) (r : HookResult) : Keeps s (s.weighResult m r) := by
  unfold State.weighResult; repeat' split
  exacts [.refl, .after (State.afterWeighing_keeps ..) (s.recordWeighing_keeps ..), .refl]

theorem State.closeHook_keeps (s : State) (k : Nat) : Keeps s (s.closeHook k) := s.modChannel_keeps ..

theorem State.enterWeigh_keeps (s : State) (m : Nat) : Keeps s (s.enterWeigh m) := by
  unfold State.enterWeigh; dsimp only; repeat' split
  exacts [.refl, .after (State.modChannel_keeps ..) (s.setPhase_keeps ..),
    .after (State.weighResult_keeps ..) (s.setPhase_keeps ..)]

theorem State.doubtPlace_keeps (s : State) (r : Nat) : Keeps s (s.doubtPlace r) := s.modCoil_keeps ..

theorem State.startWithdrawal_keeps (s : State) (m : Nat) (w : Withdrawal) : Keeps s (s.startWithdrawal m w) := by
  unfold State.startWithdrawal; split
  · exact .refl
  · exact .after (State.dueStep_keeps ..) (s.modMove_keeps ..)

theorem State.gripDone_keeps (s : State) (m : Nat) (v : Move) : Keeps s (s.gripDone m v) := by
  unfold State.gripDone; split
  · exact .after (State.dueStep_keeps ..) (.after (State.setPhase_keeps ..) (s.modMove_keeps ..))
  · exact .after (State.startWithdrawal_keeps ..) (s.doubtPlace_keeps _)

theorem State.tagDone_keeps (s : State) (m : Nat) (v : Move) : Keeps s (s.tagDone m v) := by
  unfold State.tagDone; dsimp only; split
  · exact .after (State.dueStep_keeps ..) (.after (State.setPhase_keeps ..) (s.modCoil_keeps ..))
  · split
    · exact .after (State.dueStep_keeps ..) (s.modMove_keeps ..)
    · exact .after (State.startWithdrawal_keeps ..) (.after (State.doubtPlace_keeps ..)
        (.after (State.produce_keeps ..) (s.modMove_keeps ..)))

theorem State.hoistDone_keeps (s : State) (m : Nat) (v : Move) : Keeps s (s.hoistDone m v) := by
  unfold State.hoistDone; dsimp only; split
  · exact .after (State.endMove_keeps ..) (s.setPlace_keeps ..)
  · exact .after (State.enterWeigh_keeps ..) (s.setPlace_keeps ..)

theorem State.releaseDone_keeps (s : State) (m : Nat) (v : Move) : Keeps s (s.releaseDone m v) := by
  unfold State.releaseDone; dsimp only
  have h : ∀ t, Keeps s t → ∀ k, Keeps s ((t.setPhase m .setHoist).dueStep v.crane k) := fun t ht k =>
    .after (State.dueStep_keeps ..) (.after (State.setPhase_keeps ..) ht)
  refine h _ ?_ _
  split
  · exact s.setPlace_keeps ..
  · split
    · next hd => exact .after (State.fillBed_keeps ..) (.after (State.setPlace_keeps ..) (s.fillSlot_keeps ..))
    · exact .after (State.setPlace_keeps ..) (s.fillSlot_keeps ..)

theorem State.withdrawalDone_keeps (s : State) (m : Nat) (v : Move) (w : Withdrawal) (kind : StepKind) :
    Keeps s (s.withdrawalDone m v w kind) := by
  unfold State.withdrawalDone; split
  exacts [s.dueStep_keeps .., s.endMove_keeps .., .refl]

theorem State.phaseDone_keeps (s : State) (m : Nat) (v : Move) (kind : StepKind) : Keeps s (s.phaseDone m v kind) := by
  unfold State.phaseDone
  split
  · exact s.withdrawalDone_keeps ..
  · split
    · exact .after (State.lowerOnto_keeps ..) (.after (State.setPhase_keeps ..) (s.endLeg_keeps _))
    · split
      · exact s.startWithdrawal_keeps ..
      · exact .after (State.dueStep_keeps ..) (s.setPhase_keeps ..)
    · split
      · exact s.startWithdrawal_keeps ..
      · exact s.gripDone_keeps ..
    · split
      · exact s.startWithdrawal_keeps ..
      · exact s.tagDone_keeps ..
    · exact s.hoistDone_keeps ..
    · exact .after (State.lowerOnto_keeps ..) (.after (State.setPhase_keeps ..) (s.endLeg_keeps _))
    · exact .after (State.dueStep_keeps ..) (s.setPhase_keeps ..)
    · exact s.releaseDone_keeps ..
    · split
      · exact s.endMove_keeps ..
      · exact .after (State.endMove_keeps ..) (s.setPhase_keeps ..)
    · exact .refl

theorem State.yieldDone_keeps (s : State) (k : Nat) : Keeps s (s.yieldDone k) := by
  have h : Keeps s (((s.endLeg k).endYield k).settleRU false) :=
    .after (State.settleRU_keeps ..) (.after (State.endYield_keeps ..) (s.endLeg_keeps k))
  unfold State.yieldDone
  dsimp only
  split
  · exact h
  · exact .after (State.afterCU_keeps ..) h

theorem State.stepDone_keeps (s : State) (k : Nat) (st : Step) : Keeps s (s.stepDone k st) := by
  unfold State.stepDone; dsimp only; repeat' split
  exacts [.after (State.yieldDone_keeps ..) (s.clearStep_keeps k), s.clearStep_keeps k,
    .after (State.afterCU_keeps ..) (.after (State.phaseDone_keeps ..) (s.clearStep_keeps k)), s.clearStep_keeps k]

theorem State.beginMove_keeps (s : State) (k : Nat) : Keeps s (s.beginMove k) := by
  unfold State.beginMove; dsimp only; repeat' split
  exacts [.refl, .after (State.enterLeg2_keeps ..) (s.setWorking_keeps ..),
    .after (State.requestLeg_keeps ..) (.after (State.setPhase_keeps ..) (s.setWorking_keeps ..)),
    .after (State.setPhase_keeps ..) (s.setWorking_keeps ..)]

/-! ## Aborts and FAULT -/

theorem State.lateAbort_keeps (s : State) (m : Nat) : Keeps s (s.lateAbort m) := s.modMove_keeps ..

theorem State.withdrawLeg_keeps (s : State) (v : Move) : Keeps s (s.withdrawLeg v) := by
  unfold State.withdrawLeg; split
  · exact .refl
  · exact s.withdrawRequest_keeps _

theorem State.actAbort_keeps (s : State) (m : Nat) (v : Move) (kind : AbortKind) : Keeps s (s.actAbort m v kind) := by
  unfold State.actAbort; dsimp only
  split
  · exact .refl
  · exact s.lateAbort_keeps m
  · split
    · exact s.endMove_keeps ..
    · exact .after (State.endMove_keeps ..) (s.withdrawLeg_keeps v)
    · exact .after (State.endMove_keeps ..) (.after (State.endLeg_keeps ..) (s.sendStop_keeps ..))
    · split
      · exact .after (State.startWithdrawal_keeps ..) (s.sendStop_keeps ..)
      · exact .refl
    · split
      · exact .after (State.startWithdrawal_keeps ..) (s.sendStop_keeps ..)
      · exact .refl
    · split
      · exact .after (State.startWithdrawal_keeps ..) (s.sendStop_keeps ..)
      · exact .refl
    · split
      · exact .after (State.endMove_keeps ..) (.after (State.setPlace_keeps ..) (s.sendStop_keeps ..))
      · exact .refl
    · exact .after (State.endMove_keeps ..) (s.closeHook_keeps _)
    · exact .after (State.endMove_keeps ..) (s.withdrawLeg_keeps v)
    · exact .after (State.endMove_keeps ..) (.after (State.endLeg_keeps ..) (s.sendStop_keeps ..))
    · split
      · exact .after (State.dueStep_keeps ..) (.after (State.modMove_keeps ..) (s.sendStop_keeps ..))
      · exact s.lateAbort_keeps m
    · exact s.lateAbort_keeps m
    · exact s.lateAbort_keeps m
    · exact .refl

theorem State.failMove_keeps (s : State) (k : Nat) (r : Reason) : Keeps s (s.failMove k r) := by
  unfold State.failMove
  split
  · exact .refl
  · split
    · exact .refl
    · dsimp only
      refine .after (State.endMove_keeps ..) ?_
      repeat' split
      exacts [.after (State.doubtPlace_keeps ..) (s.closeHook_keeps k), s.doubtPlace_keeps _, s.closeHook_keeps k, .refl]

theorem State.dropLeg_keeps (s : State) (k : Nat) : Keeps s (s.dropLeg k) :=
  .andCrane (State.requestLeft_keeps ..) (fun _ => rfl) fun _ => rfl

theorem State.enterFault_keeps (s : State) (k : Nat) (r : Reason) (code : Nat) : Keeps s (s.enterFault k r code) := by
  refine .after (State.afterCU_keeps ..) (.after (State.craneEntry_keeps ..) (.after (State.widen_keeps ..)
    (.after (State.failMove_keeps ..) (.after (State.dropLeg_keeps ..) (.after (State.clearStep_keeps ..)
      (.after (State.setCraneState_keeps ..) ?_))))))
  exact .andCrane (s.sendStop_keeps ..) (fun _ => rfl) fun _ => rfl

theorem State.leaveFault_keeps (s : State) (k : Nat) : Keeps s (s.leaveFault k) := by
  have h : Keeps s ((s.setCraneState k .out).craneEntry k 6) := .after (State.craneEntry_keeps ..) (s.setCraneState_keeps ..)
  unfold State.leaveFault; dsimp only; split
  · exact .after (State.endHold_keeps ..) h
  · exact .after (State.scan_keeps _) h

end Sys2Proof.Machine
end

