-- ==== Sys2Proof/Laws/KeepsLinks.lean ====
section
/-! SUPPORT. `Keeps` of WU's samples and sessions and of CU's supervision of the links (Weighing, Links): what a report
does beyond the values it stores. -/

namespace Sys2Proof.Machine

/-! ## Weighing -/

theorem State.evaluateSet_keeps (s : State) (k : Nat) (sum : Int) : Keeps s (s.evaluateSet k sum) := by
  unfold State.evaluateSet; dsimp only; split
  · exact s.modChannel_keeps ..
  · split
    · exact .after (State.modChannel_keeps ..) (s.report_keeps ..)
    · exact .after (State.report_keeps ..) (.after (.freeCount ..) (s.modChannel_keeps ..))

theorem State.track_keeps (s : State) (k : Nat) (count : Int) (e : Bool) : Keeps s (s.track k count e) := by
  unfold State.track; dsimp only
  split
  · exact .refl
  · split
    · exact s.modChannel_keeps ..
    · split
      · exact .refl
      · generalize (if _ = 16 then _ else _ : BatchSet) = b
        split
        · exact .after (State.evaluateSet_keeps ..) (s.modChannel_keeps ..)
        · exact s.modChannel_keeps ..

theorem State.zeroSample_keeps (s : State) (k : Nat) (z : ZeroSet) (count : Int) (e : Bool) :
    Keeps s (s.zeroSample k z count e).1 := by
  unfold State.zeroSample
  split
  · exact s.dropZeroSet_keeps k
  · split
    · exact .refl
    · dsimp only
      split
      · exact .after (State.answer_keeps ..) (.after (State.touch_keeps ..) (.after (State.modChannel_keeps ..)
          (s.progress_keeps ..)))
      · dsimp only
        exact .after (State.modChannel_keeps ..) (s.progress_keeps ..)

theorem State.outsideSession_keeps (s : State) (k : Nat) (count : Int) (e : Bool) :
    Keeps s (s.outsideSession k count e) := by
  unfold State.outsideSession
  split
  · exact s.track_keeps ..
  · dsimp only
    split
    · exact s.zeroSample_keeps ..
    · exact .after (State.track_keeps ..) (s.zeroSample_keeps ..)

theorem State.sampleArrives_keeps (s : State) (k : Nat) (e : Bool) : Keeps s (s.sampleArrives k e) := s.modChannel_keeps ..

theorem State.noteReport_keeps (s : State) (k : Nat) (r : Report) : Keeps s (s.noteReport k r) := by
  unfold State.noteReport; split
  · exact s.modChannel_keeps ..
  · exact .refl

theorem State.endHookSession_keeps (s : State) (k : Nat) (r : HookResult) : Keeps s (s.endHookSession k r) := by
  have h : ∀ t, Keeps s t → Keeps s (match t.currentMove k with
      | some m => t.weighResult m r
      | none => t) := by
    intro t ht
    split
    · exact .after (State.weighResult_keeps ..) ht
    · exact ht
  refine h _ ?_
  split
  · exact .after (State.noteReport_keeps ..) (s.closeHook_keeps k)
  · exact s.closeHook_keeps k

theorem State.hookSessionSample_keeps (s : State) (k : Nat) (h : HookSession) (count : Int) :
    Keeps s (s.hookSessionSample k h count) := by
  unfold State.hookSessionSample; dsimp only; split
  · exact s.endHookSession_keeps ..
  · exact s.modChannel_keeps ..

theorem State.hookSample_keeps (s : State) (k : Nat) (count : Int) : Keeps s (s.hookSample k count) := by
  unfold State.hookSample; dsimp only; split
  · exact .after (State.hookSessionSample_keeps ..) (.after (State.outsideSession_keeps ..) (s.sampleArrives_keeps ..))
  · exact .after (State.outsideSession_keeps ..) (s.sampleArrives_keeps ..)

theorem State.endPlatformSession_keeps (s : State) (b : Nat) (p : Purpose) (r : PlatformResult) :
    Keeps s (s.endPlatformSession b p r) := by
  refine .after (State.settlePlatform_keeps ..) ?_
  split
  · exact .after (State.noteReport_keeps ..) (.after (State.noteReport_keeps ..) (s.modBay_keeps ..))
  · exact s.modBay_keeps ..

theorem State.noteStage_keeps (s : State) (b count : Nat) : Keeps s (s.noteStage b count) := by
  unfold State.noteStage; repeat' split
  exacts [s.progress_keeps .., .refl, .refl]

theorem State.platformSessionSample_keeps (s : State) (b : Nat) (p : PlatformSession) (f r : Int) :
    Keeps s (s.platformSessionSample b p f r) := by
  unfold State.platformSessionSample; dsimp only; split
  · exact .after (State.endPlatformSession_keeps ..) (s.noteStage_keeps ..)
  · exact .after (State.modBay_keeps ..) (s.noteStage_keeps ..)

theorem State.platformSample_keeps (s : State) (b : Nat) (f r : Int) : Keeps s (s.platformSample b f r) := by
  have h : ∀ (t : State) (k : Nat) (v : Int) (e : Bool), Keeps s t → Keeps s ((t.sampleArrives k e).outsideSession k v e) :=
    fun t k v e ht => .after (State.outsideSession_keeps ..) (.after (State.sampleArrives_keeps ..) ht)
  unfold State.platformSample; dsimp only; split
  · exact .after (State.platformSessionSample_keeps ..) (h _ _ _ _ (h _ _ _ _ .refl))
  · exact h _ _ _ _ (h _ _ _ _ .refl)

theorem State.clearData_keeps (s : State) (k : Nat) : Keeps s (s.clearData k) :=
  .after (State.dropZeroSet_keeps ..) (s.modChannel_keeps ..)

theorem State.loseSession_keeps (s : State) (k : Nat) : Keeps s (s.loseSession k) := by
  unfold State.loseSession; repeat' split
  exacts [s.endHookSession_keeps .., .refl, s.endPlatformSession_keeps .., .refl]

theorem State.sampleExpires_keeps (s : State) (k : Nat) : Keeps s (s.sampleExpires k) := by
  unfold State.sampleExpires; dsimp only; repeat' split
  exacts [.after (State.loseSession_keeps ..) (.after (State.clearData_keeps ..) (s.modChannel_keeps ..)),
    s.modChannel_keeps .., .refl]

theorem State.hookLinkLost_keeps (s : State) (k : Nat) : Keeps s (s.hookLinkLost k) := by
  have h : Keeps s ({ s with freeCount := s.freeCount + 1 }.closeHook k) := .after (State.closeHook_keeps ..) (.freeCount s _)
  unfold State.hookLinkLost; dsimp only; repeat' split
  exacts [.after (State.recordWeighing_keeps ..) h, h, h, .refl]

/-! ## Links -/

theorem State.loseLink_keeps (s : State) (k : Nat) : Keeps s (s.loseLink k) := by
  have h1 : Keeps s (s.modCrane k fun c => { c with link := .lost, recoveryCount := 0 }) :=
    .modCrane (fun _ => rfl) fun _ => rfl
  have h2 : Keeps s ((((s.modCrane k fun c => { c with link := .lost, recoveryCount := 0 }).craneEntry k 1).hookLinkLost
      k).clearData k) :=
    .after (State.clearData_keeps ..) (.after (State.hookLinkLost_keeps ..) (.after (State.craneEntry_keeps ..) h1))
  unfold State.loseLink; dsimp only; split
  · split
    · exact .after (State.widen_keeps ..) (.andCrane (.after (State.sendStop_keeps ..) h2) (fun _ => rfl) fun _ => rfl)
    · exact .after (State.enterFault_keeps ..) h2
  · exact h2

theorem State.countBad_keeps (s : State) (k : Nat) : Keeps s (s.countBad k) := by
  unfold State.countBad; dsimp only; split
  · exact .modCrane (fun _ => rfl) fun _ => rfl
  · split
    · exact .after (State.loseLink_keeps ..) (.andCrane .refl (fun _ => rfl) fun _ => rfl)
    · exact .modCrane (fun _ => rfl) fun _ => rfl

theorem State.countGood_keeps (s : State) (k : Nat) : Keeps s (s.countGood k) := by
  unfold State.countGood; split
  · exact .refl
  · exact .modCrane (fun _ => rfl) fun _ => rfl

theorem State.reportExpires_keeps (s : State) (k : Nat) : Keeps s (s.reportExpires k) := by
  unfold State.reportExpires; split
  · exact .modCrane (fun _ => rfl) fun _ => rfl
  · exact s.loseLink_keeps k

theorem State.loseLock_keeps (s : State) (k : Nat) : Keeps s (s.loseLock k) := by
  have h1 : Keeps s (s.modCrane k fun c => { c with lock := .lost, hitCount := 0 }) :=
    .modCrane (fun _ => rfl) fun _ => rfl
  have h2 : Keeps s _ := .after (State.craneEntry_keeps _ k 3 0 0
    ((s.modCrane k fun c => { c with lock := .lost, hitCount := 0 }).crane k).lockDistance) h1
  unfold State.loseLock; dsimp only; split
  · refine .after (State.widen_keeps ..) ?_
    split
    · exact .after (State.addCause_keeps ..) (.after (State.sendStop_keeps ..) h2)
    · exact .after (State.sendStop_keeps ..) h2
  · exact h2

theorem State.regainLock_keeps (s : State) (k : Nat) : Keeps s (s.regainLock k) := by
  have h1 : Keeps s (s.modCrane k fun c => { c with lock := .locked, missCount := 0 }) :=
    .modCrane (fun _ => rfl) fun _ => rfl
  have h2 : Keeps s _ := .after (State.craneEntry_keeps _ k 4 0 0 0) h1
  unfold State.regainLock; dsimp only; split
  · refine .after (State.afterCU_keeps ..) (.after (State.removeCause_keeps ..) ?_)
    split
    · exact h2
    · exact .after (State.endHold_keeps ..) h2
  · exact h2

theorem State.judgeLock_keeps (s : State) (k : Nat) : Keeps s (s.judgeLock k) := by
  unfold State.judgeLock; dsimp only; repeat' split
  exacts [.modCrane (fun _ => rfl) fun _ => rfl, s.loseLock_keeps k, .modCrane (fun _ => rfl) fun _ => rfl,
    s.regainLock_keeps k, .modCrane (fun _ => rfl) fun _ => rfl, .modCrane (fun _ => rfl) fun _ => rfl]

theorem State.testDrive_keeps (s : State) (k : Nat) : Keeps s (s.testDrive k) := by
  unfold State.testDrive; dsimp only; repeat' split
  exacts [s.leaveFault_keeps k, .refl, .modCrane (fun _ => rfl) fun _ => rfl, s.leaveFault_keeps k, .refl, .refl,
    s.enterFault_keeps .., .refl]

theorem State.testFaults_keeps (s : State) (k : Nat) (g : Span) : Keeps s (s.testFaults k g) := by
  unfold State.testFaults; dsimp only; split
  · exact .after (State.enterFault_keeps ..) (s.testDrive_keeps k)
  · exact s.testDrive_keeps k

theorem State.testDone_keeps (s : State) (k : Nat) : Keeps s (s.testDone k) := by
  unfold State.testDone; dsimp only; repeat' split
  exacts [s.stepDone_keeps .., .refl, .refl]

theorem State.takeWhole_keeps (s : State) (k : Nat) (r : Bool) (before : Crane) : Keeps s (s.takeWhole k r before) := by
  unfold State.takeWhole
  refine .after (State.touch_keeps ..) (.after (State.hookSample_keeps ..) ?_)
  have h1 : ∀ t, Keeps s t → Keeps s (if t.inService && !r then t.testFaults k before.grant else t) := by
    intro t ht
    split
    · exact .after (State.testFaults_keeps ..) ht
    · exact ht
  have h2 : ∀ t, Keeps s t → Keeps s (if t.inService && r then t.testDrive k else t) := by
    intro t ht
    split
    · exact .after (State.testDrive_keeps ..) ht
    · exact ht
  have h3 : ∀ t, Keeps s t → Keeps s (if t.inService then t.reportRU k before.loaded before.heldWide else t) := by
    intro t ht
    split
    · exact .after (State.reportRU_keeps ..) ht
    · exact ht
  exact h3 _ (.after (State.testDone_keeps ..) (h2 _ (h1 _ (s.judgeLock_keeps k))))

theorem State.recoverLink_keeps (s : State) (k : Nat) : Keeps s (s.recoverLink k) := by
  have h1 : Keeps s (s.modCrane k fun c => { c with link := .up, badCount := 0 }) := .modCrane (fun _ => rfl) fun _ => rfl
  have h2 : Keeps s _ := .after (State.craneEntry_keeps _ k 2 0 0 0) h1
  unfold State.recoverLink; dsimp only; split
  · exact .after (State.leaveFault_keeps ..) h2
  · exact h2

theorem State.takeTag_keeps (s : State) (k : Nat) (r : TagReport) : Keeps s (s.takeTag k r) := by
  unfold State.takeTag; dsimp only; repeat' split
  exacts [.andCrane (s.countGood_keeps k) (fun _ => rfl) fun _ => rfl,
    .andCrane (s.countGood_keeps k) (fun _ => rfl) fun _ => rfl, s.countGood_keeps k, s.countGood_keeps k]

end Sys2Proof.Machine
end

