-- ==== Sys2Proof/Laws/Memory.lean ====
section
/-! SUPPORT. Exchange memory: what a read finds after a write, and that every operation on it keeps the canonical form. -/

namespace Sys2Proof.Machine

namespace State

variable (s : State)

/-! ## Reads after writes -/

/-- A run of writes is read back inside the run; every other byte reads as before. -/
theorem readByte_writeBytes (bs : List Byte) : ∀ (s : State) (o a : Nat),
    (s.writeBytes o bs).readByte a = if o ≤ a ∧ a < o + bs.length then bs.getD (a - o) 0 else s.readByte a := by
  induction bs with
  | nil => intro s o a; simp only [writeBytes, List.length_nil]; rw [if_neg (by omega)]
  | cons b rest ih =>
    intro s o a
    simp only [writeBytes, ih, readByte_writeByte, List.length_cons]
    by_cases h : a = o
    · subst h
      rw [if_neg (by omega), if_pos rfl, if_pos (by omega), Nat.sub_self]; rfl
    · rw [if_neg h]
      by_cases hr : o + 1 ≤ a ∧ a < o + 1 + rest.length
      · rw [if_pos hr, if_pos (by omega), show a - o = (a - (o + 1)) + 1 by omega]; rfl
      · rw [if_neg hr, if_neg (by omega)]

/-- A byte outside the run that is written reads as before. -/
theorem readByte_writeBytes_of_outside (bs : List Byte) (o a : Nat) (h : a < o ∨ o + bs.length ≤ a) :
    (s.writeBytes o bs).readByte a = s.readByte a := by
  rw [readByte_writeBytes, if_neg (by omega)]

theorem readBytes_length (n : Nat) : ∀ o, (s.readBytes o n).length = n := by
  induction n with
  | zero => exact fun _ => rfl
  | succ n ih => exact fun o => congrArg (· + 1) (ih (o + 1))

theorem readBytes_congr {t : State} (n : Nat) : ∀ o, (∀ i, i < n → s.readByte (o + i) = t.readByte (o + i)) →
    s.readBytes o n = t.readBytes o n := by
  induction n with
  | zero => exact fun _ _ => rfl
  | succ n ih =>
    intro o h
    simp only [readBytes]
    rw [show s.readByte o = t.readByte o from h 0 (by omega), ih (o + 1) fun i hi => by
      have := h (i + 1) (by omega); rwa [show o + (i + 1) = o + 1 + i by omega] at this]

/-- A run of bytes that does not meet the run written reads as before. -/
theorem readBytes_writeBytes_of_apart (bs : List Byte) (o a n : Nat) (h : a + n ≤ o ∨ o + bs.length ≤ a) :
    (s.writeBytes o bs).readBytes a n = s.readBytes a n :=
  readBytes_congr _ _ _ fun i hi => readByte_writeBytes_of_outside _ _ _ _ (by omega)

/-- A run of bytes is read back as written. -/
theorem readBytes_writeBytes (bs : List Byte) : ∀ (s : State) (o : Nat),
    (s.writeBytes o bs).readBytes o bs.length = bs := by
  induction bs with
  | nil => exact fun _ _ => rfl
  | cons b rest ih =>
    intro s o
    simp only [writeBytes, List.length_cons, readBytes, ih]
    rw [readByte_writeBytes, if_neg (by omega), readByte_writeByte, if_pos rfl]

/-! ## The canonical form -/

theorem writeByte_wf (o : Nat) (v : Byte) (h : Memory.wf s.mem = true) : Memory.wf (s.writeByte o v).mem = true :=
  Tab.canonical_set 0 s.mem o v h

theorem writeBytes_wf (bs : List Byte) (o : Nat) (h : Memory.wf s.mem = true) :
    Memory.wf (s.writeBytes o bs).mem = true := by
  induction bs generalizing s o with
  | nil => exact h
  | cons b rest ih => exact ih _ _ (writeByte_wf s o b h)

theorem takeBurst_wf (ws : List HostWrite) (h : Memory.wf s.mem = true) : Memory.wf (s.takeBurst ws).mem = true := by
  induction ws generalizing s with
  | nil => exact h
  | cons w rest ih => exact ih _ (writeBytes_wf s _ _ h)

theorem clearByte_wf (h : Memory.wf s.mem = true) : Memory.wf s.clearByte.mem = true := Tab.canonical_erase 0 s.mem _ h

theorem clearRest_wf (h : Memory.wf s.mem = true) : Memory.wf s.clearRest.mem = true := Tab.canonical_filter 0 s.mem _ h

/-- What a link has still to send after a tick is what it had, less the first character. -/
theorem outgoingTo_transmit (c : Nat) (h : c < 4) : s.transmit.outgoingTo c = (s.outgoingTo c).drop 1 := by
  have hs : ∀ (t : Tab (List Byte)) (d j : Nat), Tab.get [] (sendFirst t d) j
      = if j = d then (Tab.get [] t d).drop 1 else Tab.get [] t j := by
    intro t d j
    unfold sendFirst
    split
    · next hd => by_cases hj : j = d <;> simp [hj, hd]
    · next hd => rw [Tab.get_erase]; simp [hd]
    · next hd => rw [Tab.get_put]; simp [hd]
  simp only [outgoingTo, transmit, List.foldl_cons, List.foldl_nil, hs]
  obtain rfl | rfl | rfl | rfl : c = 0 ∨ c = 1 ∨ c = 2 ∨ c = 3 := by omega
  all_goals rfl

theorem tick_wf (h : Memory.wf s.mem = true) : Memory.wf s.tick.mem = true := by
  unfold tick; dsimp only; split
  · exact clearByte_wf s.transmit h
  · exact h

theorem reset_memory_wf : Memory.wf State.reset.mem = true := by rfl

/-! ## The clearing (R171) -/

theorem readByte_clearByte (a : Nat) : s.clearByte.readByte a = if a = s.clearedTo then 0 else s.readByte a :=
  Tab.get_erase ..

/-- After the clearing every byte from where it stood reads 0; the bytes below it read as before. -/
theorem readByte_clearRest (a : Nat) : s.clearRest.readByte a = if a < s.clearedTo then s.readByte a else 0 := by
  have h : ∀ m : Memory, Tab.find (m.filter fun p => decide (p.1 < s.clearedTo)) a
      = if a < s.clearedTo then Tab.find m a else none := by
    intro m
    induction m with
    | nil => simp [Tab.find]
    | cons p rest ih =>
      simp only [List.filter_cons]
      split
      · next hp =>
        simp only [Tab.find, ih]
        split
        · next hpa => simp only [decide_eq_true_eq] at hp; rw [if_pos (by omega)]
        · rfl
      · next hp =>
        simp only [decide_eq_true_eq] at hp
        rw [ih]
        split
        · simp only [Tab.find]; rw [if_neg (by omega)]
        · rfl
  simp only [readByte, clearRest, Tab.get, h]
  split <;> rfl

end State

end Sys2Proof.Machine
end

