-- ==== Sys2Proof/Laws/Orders.lean ====
section
/-! SUPPORT. How an order is taken up, checked, answered and published: one lemma for each way it can go. -/

namespace Sys2Proof.Machine

variable {s t : State} {o : Order} {f : State → Order → State}

/-! ## The inbound lists -/

/-- A list set is read back; every other owner's list reads as before. -/
theorem State.inbound_setInbound (s : State) (w v : Owner) (l : List Order) (h : w ≠ .xp) :
    (s.setInbound w l).inbound v = if v = w then l else s.inbound v := by
  cases w <;> cases v <;> first | rfl | exact absurd rfl h

/-- The order at the head of its owner's list is taken up. -/
theorem takeOrder_head {w : Owner} {rest : List Order} (h : s.inbound w = o :: rest) :
    takeOrder w o.kind f s = f (s.setInbound w rest) o := by
  simp only [takeOrder, h, if_pos]

/-- With no order of the kind at the head there is no such event (log entry 1). -/
theorem takeOrder_other {w : Owner} {kind : Nat} (h : ∀ o rest, s.inbound w = o :: rest → o.kind ≠ kind) :
    takeOrder w kind f s = s := by
  unfold takeOrder
  split
  · rfl
  · next hl => rw [if_neg (h _ _ hl)]

/-- What taking an order up can do: its handling with the list's rest, or nothing. -/
theorem takeOrder_cases (w : Owner) (kind : Nat) (f : State → Order → State) (s : State) :
    (∃ o rest, s.inbound w = o :: rest ∧ o.kind = kind ∧ takeOrder w kind f s = f (s.setInbound w rest) o)
      ∨ takeOrder w kind f s = s := by
  unfold takeOrder
  split
  · exact .inr rfl
  · next o rest hl =>
    split
    · next hk => exact .inl ⟨o, rest, hl, hk, rfl⟩
    · exact .inr rfl

/-- What taking a mode order up can do: its handling once every owner's list is empty, or nothing. -/
theorem takeModeOrder_cases (kind : Nat) (f : State → Order → State) (s : State) :
    (∃ o, s.modeOrder = some o ∧ o.kind = kind ∧ s.allTakenUp = true
        ∧ takeModeOrder kind f s = f { s with modeOrder := none }.dropDealt o)
      ∨ takeModeOrder kind f s = s := by
  unfold takeModeOrder
  split
  · next o ho =>
    split
    · next h => exact .inl ⟨o, ho, h.1, h.2, rfl⟩
    · exact .inr rfl
  · exact .inr rfl

/-! ## Checks, answers and publication -/

/-- A body with a field out of range is answered BAD_FIELD. -/
theorem State.checked_bad {n : Nat} : s.checked o (some n) f = s.reply o (.badField n) := rfl

/-- A body without one is handled. -/
theorem State.checked_good : s.checked o none f = f s o := rfl

/-- An answer whose cell is still of the take is written, with the ANSWER notice (R187). -/
theorem State.answer_written {n take : Nat} {a : Answer} (h : s.cellIsOf n take = true) :
    s.answer n take a = (s.writeAnswer n a).raise .answer := by
  rw [State.answer, if_pos h]

/-- An answer whose cell is not of the take is dropped and noted as skipped (R177). -/
theorem State.answer_lost {n take : Nat} {a : Answer} (h : s.cellIsOf n take = false) :
    s.answer n take a = s.skipCell n 2 (s.cellState n) := by
  rw [State.answer, if_neg (by rw [h]; exact Bool.false_ne_true)]

/-- A command handled with `handle` completes: its handling, then publication. -/
theorem handle_next (g : State → State) (s : State) : handle g s = .next (publish s.begin (g s.begin)) := rfl

/-- Where the handling keeps, so does the whole command, as far as the records go. -/
theorem handle_keeps {g : State → State} (hg : Keeps s.begin (g s.begin)) (h : handle g s = .next t) :
    KeepsRecords s t := by
  cases h
  exact (hg.after s.begin_keeps).toKeepsRecords.trans (publish_keeps ..)

/-- What publication finds where the handling keeps: the editions of before, and no image entry noted twice. -/
theorem handle_found {g : State → State} (hg : Keeps s.begin (g s.begin)) :
    (g s.begin).slotEditions = s.slotEditions ∧ (g s.begin).coilEditions = s.coilEditions ∧ (g s.begin).touched.once :=
  ⟨hg.images.1, hg.images.2, hg.once ⟨.nil, .nil⟩⟩

/-! ## Where a notice bit stands after a flag is raised -/

/-- A raised flag is set, and the others are as before. -/
theorem State.raise_flags (s : State) (n : Notice) (i : Nat) (hi : i < 10) :
    (s.raise n).flags.getLsbD i = (s.flags.getLsbD i || decide (i = n.bit)) := by
  have : n.mask.getLsbD i = decide (i = n.bit) := by
    rw [Notice.mask, BitVec.getLsbD_ofNat, Nat.testBit_two_pow]
    simp [hi, eq_comm]
  simp only [State.raise, BitVec.getLsbD_or, this]

end Sys2Proof.Machine
end

