-- ==== Sys2Proof/WellFormed.lean ====
section
/-! DEFINITION. Which commands can come about: the checks on operands that their types do not already make. -/

namespace Sys2Proof

/-- A software write names bytes of the exchange memory window, and at least one (R174). -/
def HostWrite.wellFormed (w : HostWrite) : Bool :=
  !w.bytes.isEmpty && decide (w.offset + w.bytes.length ≤ Config.windowSize)

/-- A write of another width than 32 bits to the register window (9.3): 1, 2 or 8 bytes, inside the 24 bytes the
six registers take, with a value its width holds. -/
def IgnoredWrite.wellFormed : IgnoredWrite → Bool
  | .ident _ => true
  | .controlResetClear _ => true
  | .otherWidth offset width value =>
    (width == 1 || width == 2 || width == 8) && decide (offset + width ≤ 24) && decide (value < 256 ^ width)

/-- A command is well-formed when its operands can come about outside the block. -/
def Instr.wellFormed : Instr → Bool
  | .registerWriteIgnored burst write => burst.all HostWrite.wellFormed && write.wellFormed
  | _ => true

end Sys2Proof
end

