-- ==== Sys2Proof/Tests/Slice0.lean ====
section
/-! SUPPORT. Tests: the smoke test of WellFormed, worked examples of the specification on single steps, and for every
statement with hypotheses a state and operands that meet them. Expected values come from the specification's text. -/

set_option Elab.async false

namespace Sys2Proof.Tests

open Sys2Proof Sys2Proof.Machine

/-! ## WellFormed: an ill-formed term for each check, and a well-formed one -/

theorem test_write_of_no_bytes_is_ill_formed : HostWrite.wellFormed { offset := 0x1000, bytes := [] } = false := by decide

theorem test_write_past_the_window_is_ill_formed :
    HostWrite.wellFormed { offset := 0x1FFFF, bytes := [1, 2] } = false := by decide

theorem test_32_bit_write_is_no_other_width : IgnoredWrite.wellFormed (.otherWidth 4 4 0) = false := by decide

theorem test_other_width_outside_the_registers_is_ill_formed :
    IgnoredWrite.wellFormed (.otherWidth 24 1 0) = false := by decide

theorem test_other_width_value_too_large_is_ill_formed : IgnoredWrite.wellFormed (.otherWidth 0 1 256) = false := by decide

theorem test_burst_with_an_ill_formed_write_is_ill_formed :
    Instr.wellFormed (.registerWriteIgnored [{ offset := 0x20000, bytes := [0] }] (.ident 0)) = false := by decide

theorem test_well_formed_commands :
    Instr.wellFormed (.registerWriteIgnored [{ offset := 0x1FFFF, bytes := [7] }] (.otherWidth 22 2 65535)) = true ∧
      Instr.wellFormed (.powerOnReset 3) = true := by decide

theorem test_no_table_word_spells_a_command : decodeTableWord 32 0x80000000 = none := rfl

/-! ## A small yard: two cranes, a column, a station, a bay, and an order in cell 0 -/

/-- The first `n` bytes of a body from (width, value) fields, the rest zeros. -/
def body (fields : List (Nat × Nat)) : List Byte := padTo 112 (fields.flatMap fun f => leBytes f.1 f.2)

/-- An order in cell 0 under take 1. -/
def order (kind : Nat) (b : List Byte) : Order := { cell := 0, take := 1, kind := kind, tag := 7, body := b }

/-- The order stands taken in cell 0, and is all that waits with its owner. -/
def taken (w : Owner) (o : Order) (s : State) : State :=
  { s.setInbound w [o] with mem := [(0x1000, 2), (0x1008, 1)] }

theorem cellIsOf_of_mem {s t : State} (h : s.mem = t.mem) (n take : Nat) : s.cellIsOf n take = t.cellIsOf n take := by
  simp [State.cellIsOf, State.cellState, State.cellTake, State.readNat, State.readBytes, State.readByte, h]

theorem taken_takenUp (w : Owner) (k : Nat) (b : List Byte) (s : State) :
    TakenUp (taken w (order k b) s) w k (order k b) [] where
  head := by cases w <;> rfl
  kind := rfl
  cell := Nat.zero_lt_succ _
  current :=
    (cellIsOf_of_mem (t := { mem := [(0x1000, 2), (0x1008, 1)] }) rfl 0 1).trans (by decide +kernel)

/-- A crane that stands at `x`, idle and reporting. -/
def standing (x : Nat) : Crane :=
  { state := .idle, configured := true, svcLo := 0, svcHi := 20000, halfWidth := 700, reported := true, doneSeq := 1
    xEncoder := x, xLaser := x, wholeEncoder := x, wholeLaser := x, hook := 900
    grant := { lo := x - 50, hi := x + 50 } }

/-- The coils of the example of section 1.4: two supports, and one at station 0. -/
def coils : Tab Coil :=
  [(0, { id := 80311201, declared := 2000, width := 1250, diameter := 1850, group := 1, place := .slot 123 }),
    (1, { id := 80311202, declared := 2000, width := 1300, diameter := 1920, group := 1, place := .slot 124 }),
    (2, { id := 80311207, declared := 2150, width := 1200, diameter := 1800, group := 2, place := .station 0 })]

def hookChannel : Channel :=
  { configured := true, data := true, expiryRunning := true, cap := 60000, zero := 12300, span := 2500000, wref := 20000
    points := [0, 0, 0, 12, 20, 0, 0, 0, 0], settleBand := 40, settleCount := 5, batches := 1, trackBand := 20 }

/-- The yard in RUN. -/
def yard : State :=
  { mode := .run, straps := 1
    columns := [(5, { configured := true, x := 4200, mask := 0x3FF, maxWidth := 1800, maxDiameter := 2200
                      lowerLimit := 3000, upperLimit := 2400 })]
    rowY := [100, 300, 500, 700, 900, 1100, 1300, 1500, 1700, 1900, 2100, 2300]
    slots := [(120, { state := .free }), (123, { state := .held, coil := some 0 }),
      (124, { state := .held, coil := some 1 }), (135, { state := .free })]
    stations := [(0, { configured := true, x := 1000, y := 500, state := .held, coil := some 2 }),
      (1, { configured := true, x := 1500, y := 500 })]
    coils := coils
    runway := { configured := true, lo := 0, hi := 20000 }
    cranes := [(0, standing 4000), (1, standing 9000)]
    channels := [(0, hookChannel), (1, hookChannel), (4, hookChannel), (5, hookChannel)]
    bays := [(0, { state := .empty, bxLo := 12000, bxHi := 12800, centre := 12400, frontLine := 800 })] }

/-- The yard in SETUP. -/
def setupYard : State := { yard with mode := .setup }

/-- A test on the next state. -/
def next (r : Host.Outcome State Fault Refusal) (p : State → Bool) : Bool :=
  match r with
  | .next t => p t
  | _ => false

/-- The code and the first bytes of the answer in cell 0. -/
def answered (code : Nat) (area : List Byte) (t : State) : Bool :=
  t.readByte 0x1000 == 4 && t.readByte 0x1002 == byte code && t.readBytes 0x1080 area.length == area

/-! ## Worked examples of the specification -/

theorem test_primary_weight_rounds_half_away :
    Channel.primary { wref := 20000, span := 2500000 } (-310) = -2 ∧
      Channel.primary { wref := 20000, span := 2500000 } (-313) = -3 := by decide

theorem test_worked_hook_sample :
    hookChannel.primary 3214500 = 25618 ∧ hookChannel.correction 25618 = 15 ∧ hookChannel.corrected 3214500 = 25633 := by
  decide

theorem test_report_is_limited_to_cap : reportOf 8008 8006 = .weight 800 ∧ reportOf 60000 25632 = .weight 2563 := by decide

theorem test_window_average_of_the_settling_case :
    windowAverage [25630, 25628, 25633, 25631, 25634, 25636, 25633, 25632] = 25632 ∧
      spread [25630, 25628, 25633, 25631, 25634, 25636, 25633, 25632] = 8 := by decide

theorem test_tolerance_of_the_settling_case : yard.weighTolerance 2550 = 38 := by decide

theorem test_braking_distance :
    State.braking { yard with cranes := [(0, { standing 7200 with speed := 200 })] } 0 = 500 ∧
      State.stopping { yard with cranes := [(0, { standing 7200 with speed := 200 })] } 0 = { lo := 7150, hi := 7750 } := by
  decide

theorem test_upper_slot_of_section_1_4_fits :
    yard.slotFits { id := 80311207, declared := 2150, width := 1200, diameter := 1800, group := 2, place := .station 0 }
      2150 135 = true := by decide

theorem test_slot_indices_of_section_1_2 :
    slotExists 0x3FF 20 = true ∧ slotExists 0x3FF 21 = false ∧ leftSupport 135 = 123 ∧ rightSupport 135 = 124 ∧
      uppersOver 124 = [135, 136] := by decide

theorem test_take_counter_passes_over_zero : nextTake 4294967295 = 1 := by decide

theorem test_step_number_passes_over_the_done_sequence :
    Crane.nextNumber { lastSeq := 255, doneSeq := 0 } = 1 ∧ Crane.nextNumber { lastSeq := 6, doneSeq := 9 } = 7 := by decide

/-! ## Single steps -/

theorem test_post_range :
    next (exec (.post 0x0000017F) setupYard) (fun t => t.posts == [{ first := 127, count := 1 }]) = true ∧
      next (exec (.post 0x00000180) setupYard) (fun t => t.posts.isEmpty && t.lastRefused.cause == 3 && t.raised .postref) =
        true := by decide +kernel

theorem test_column_out_sets_the_flag :
    next (exec .columnOut (taken .su (order 0x18 (body [(1, 5)])) yard))
      (fun t => (t.column 5).out && answered 1 [0] t) = true := by decide +kernel

theorem test_column_in_of_a_disabled_column_is_bad_field :
    next (exec .columnIn (taken .su (order 0x19 (body [(1, 6)])) yard)) (answered 17 [1, 0]) = true := by decide +kernel

theorem test_store_coil_to_the_upper_slot :
    next (exec .storeCoil (taken .su (order 0x1A (body [(4, 80311207), (2, 135), (1, 0xFF)])) yard))
      (fun t => (t.slot 135).state == .targeted && (t.station 0).state == .leaving && t.readByte 0x1000 == 3
        && t.readByte 0x1003 == 1 && (t.crane 0).queue == [0]) = true := by decide +kernel

theorem test_query_coil_shows_the_record :
    next (exec .queryCoil (taken .su (order 0x17 (body [(4, 80311207)])) yard))
      (answered 1 [2, 0, 0, 0, 2, 0, 0, 0x66, 0x08, 0xFF, 0xFF]) = true := by decide +kernel

theorem test_hold_coil_publishes_the_image :
    next (exec .holdCoil (taken .su (order 0x16 (body [(4, 80311207), (1, 1)])) yard))
      (fun t => t.readByte 0x10040 == 1 && t.readByte 0x10042 == 1 && t.readByte 0x1005F == 1) = true := by decide +kernel

theorem test_zero_set_needs_an_eligible_sample :
    next (exec .zeroSet (taken .wu (order 0x41 (body [(1, 0)])) yard)) (answered 67 [0]) = true := by decide +kernel

theorem test_crane_out_is_journaled :
    next (exec .craneOut (taken .cu (order 0x31 (body [(1, 1)])) yard))
      (fun t => (t.crane 1).state == .out && t.readByte 0x9004 == 4 && t.readByte 0x9005 == 1 && t.readByte 0x900C == 9
        && answered 1 [0] t) = true := by decide +kernel

theorem test_status_narrows_an_eastward_leg :
    next (exec (.status 0
        { doneSeq := 1, xEncoder := 6400, xLaser := 6400, y := 500, hook := 900, tong := 0, speed := 180, load := 0
          faultCode := 0 })
      { yard with
        cranes :=
          [(0, { standing 6000 with
              state := .busy, grant := { lo := 5950, hi := 8050 }
              leg := some { kind := .move, targetX := 8000, targetY := 500, seq := 1, direction := .east } }),
            (1, standing 14000)] })
      (fun t => (t.crane 0).grant == { lo := 6350, hi := 8050 }) = true := by decide +kernel

theorem test_fourth_bad_telegram_faults_the_crane :
    next (exec (.badTelegram 0) { yard with cranes := [(0, { standing 4000 with badCount := 3 }), (1, standing 9000)] })
      (fun t => (t.crane 0).link == .lost && (t.crane 0).state == .fault && (t.crane 0).reason == .link) = true := by
  decide +kernel

theorem test_part_reset_sends_stops :
    next (exec (.partReset 0 1) yard)
      (fun t => t.mode == .resetting && t.sent == [(0, .stop 0 false), (1, .stop 0 false)] && t.resetCause == .part) =
        true := by decide +kernel

theorem test_status_telegram_bytes :
    frame 0 0x42 (tagBody { seq := 3, present := 1, id := 0x04C97C07 }) =
      [0x7E, 0x00, 0x42, 0x06, 0x03, 0x01, 0x07, 0x7C, 0xC9, 0x04, 0x64] := by decide

/-! ## Every statement with hypotheses has a case that meets them -/

theorem witness_StepRunsTheFrontCommand :
    ({ yard with pending := [.intake] } : State).pending = .intake :: [] ∧ State.reset.pending = [] ∧
      State.reset.mode = .resetting ∧ State.reset.clearedTo < 0x20000 ∧ State.reset.outgoingTo 0 ≠ [] := by decide +kernel

theorem witness_ClearingCompleteEntersSetup :
    ∀ s ∈ [State.reset, { State.reset with clearedTo := 0x20000 }], s.mode = .resetting ∧ s.holding = [] ∧
      s.writeCount = 0 ∧ ∀ a, 8 ≤ a → a < 12 → a < s.clearedTo → s.readByte a = 0 := by
  intro s hs
  simp only [List.mem_cons, List.not_mem_nil, or_false] at hs
  rcases hs with rfl | rfl <;> exact ⟨rfl, rfl, rfl, fun _ _ _ _ => rfl⟩

def heldEntry : JournalEntry := craneStateEntry 0 9 0 0

/-- A full journal: 512 entries not yet read. -/
def fullYard : State := { yard with writeCount := 512, holding := [heldEntry] }

theorem witness_JfullWriteFlushes :
    fullYard.mode ≠ .resetting ∧ (4 : Word32).getLsbD 2 = true ∧ fullYard.holding = heldEntry :: [] ∧
      fullYard.journalRoom = false ∧ { fullYard with writeCount := 511 }.journalRoom = true := by decide +kernel

theorem witness_RegistersReadAndReset :
    yard.straps < 4 ∧ ({ yard with posts := List.replicate 8 { first := 127, count := 1 } } : State).postLaw = true ∧
      (0x80000000 : Word32).getLsbD 31 = true ∧ (0x7FFFFFFF : Word32).getLsbD 31 = false := by decide +kernel

theorem witness_BurstWritesExactlyItsBytes :
    0x1FFFE + ([1, 2] : List Byte).length ≤ 0x20000 ∧ 0x20000 < 0x1FFFF + ([1, 2] : List Byte).length ∧
      ∃ t, exec (.registerWriteIgnored [{ offset := 0x1FFFE, bytes := [1, 2] }] (.ident 0)) yard = .next t :=
  ⟨by decide, by decide, _, rfl⟩

/-- The last cell holds an order of a kind, not yet taken, and a post names it. -/
def filledYard (kind : Byte) (stateByte : Byte) : State :=
  { yard with
    posts := [{ first := 127, count := 1 }]
    mem := [(0x8F00, stateByte), (0x8F01, kind)] }

theorem witness_IntakeTakesAFilledCell :
    let s := filledYard 0x17 1
    s.mode ≠ .resetting ∧ s.modeOrder = none ∧ s.posts = { first := 127, count := 1 } :: [] ∧ 127 + 0 < 128 ∧
      s.readByte (cellOffset 127) = 1 ∧ kindRow (s.readNat (cellOffset 127 + 1) 1) = some ⟨0x17, .su, true, true, true⟩ ∧
      (KindRow.allowed ⟨0x17, .su, true, true, true⟩ s.mode) = true := by decide +kernel

theorem witness_IntakeTakesAModeOrder :
    let s := filledYard 0x61 1
    s.readByte (cellOffset 127) = 1 ∧ (kindRow (s.readNat (cellOffset 127 + 1) 1)).map KindRow.owner = some .xp ∧
      (kindRow (s.readNat (cellOffset 127 + 1) 1)).map (·.allowed s.mode) = some true := by decide +kernel

theorem witness_IntakeSkipsOrRefuses :
    let s := filledYard 0x17 4
    s.mode ≠ .resetting ∧ s.modeOrder = none ∧ s.posts = { first := 127, count := 1 } :: [] ∧
      s.readByte (cellOffset 127) ≠ 1 ∧ (filledYard 0x63 1).readByte (cellOffset 127) = 1 ∧
      kindRow ((filledYard 0x63 1).readNat (cellOffset 127 + 1) 1) = none ∧
      ((kindRow ((filledYard 0x10 1).readNat (cellOffset 127 + 1) 1)).map (·.allowed (filledYard 0x10 1).mode)) =
        some false ∧ yard.takeCounter < 4294967296 := by decide +kernel

theorem witness_HoldCoilWorkStandsWithoutItsAnswer :
    let o := order 0x16 (body [(4, 80311207), (1, 0)])
    let s : State := { taken .su o yard with mem := [(0x1000, 1)] }
    s.inbound .su = o :: [] ∧ o.kind = 0x16 ∧ o.cell < 128 ∧ s.cellIsOf o.cell o.take = false ∧ s.mode ≠ .resetting ∧
      fieldNat o.body 4 1 = 0 ∧ s.recordOf (fieldNat o.body 0 4) = some 2 ∧ (s.coil? 2).isSome = true := by decide +kernel

/-- The check numbered `n`, from 0, is the first that does not hold. -/
def FirstFails (checks : List Prop) (n : Nat) : Prop :=
  (∀ i < n, ∀ q, checks[i]? = some q → q) ∧ ∃ q, checks[n]? = some q ∧ ¬q

theorem firstFails_head {p : Prop} {l : List Prop} (h : ¬p) : FirstFails (p :: l) 0 :=
  ⟨fun _ hi => absurd hi (Nat.not_lt_zero _), p, rfl, h⟩

theorem firstFails_later {p : Prop} {l : List Prop} {n : Nat} (hp : p) (h : FirstFails l n) : FirstFails (p :: l) (n + 1) :=
  ⟨fun i hi q hq => match i, hi, hq with
    | 0, _, hq => (Option.some.inj hq) ▸ hp
    | i + 1, hi, hq => h.1 i (Nat.lt_of_succ_lt_succ hi) q hq, h.2⟩

/-- Fields one past their ranges: a column, a HOLD_COIL value, the half width of a fitted crane, the channel of a hook that
is not fitted, and two positions of a plan 119 cm apart. -/
theorem witness_BadFieldChangesOnlyItsCell :
    let column := order 0x10 (body [(1, 64)])
    let hold := order 0x16 (body [(4, 0), (1, 2)])
    let crane := order 0x21 (body [(1, 1), (1, 0), (2, 0), (2, 60000), (2, 1501)])
    let channel := order 0x40 (body [(1, 2)])
    let plan := order 0x52 (body [(1, 0), (1, 2), (2, 0), (4, 0), (4, 5), (2, 100), (2, 0), (4, 6), (2, 219)])
    let s : State := { yard with bays := [(0, { state := .arrived, spacing := 300 })] }
    TakenUp (taken .su column yard) .su 0x10 column [] ∧ ¬fieldNat column.body 0 1 ≤ 63 ∧
      TakenUp (taken .su hold yard) .su 0x16 hold [] ∧ FirstFails [True, fieldNat hold.body 4 1 ≤ 1] 1 ∧
      TakenUp (taken .ru crane yard) .ru 0x21 crane [] ∧
      FirstFails [fieldNat crane.body 0 1 ≤ 3, 3 < fieldNat crane.body 0 1 ∨ yard.straps < fieldNat crane.body 0 1 ∨
          fieldNat crane.body 2 2 ≤ 60000,
        3 < fieldNat crane.body 0 1 ∨ yard.straps < fieldNat crane.body 0 1 ∨ fieldNat crane.body 4 2 ≤ 60000,
        3 < fieldNat crane.body 0 1 ∨ yard.straps < fieldNat crane.body 0 1 ∨
          300 ≤ fieldNat crane.body 6 2 ∧ fieldNat crane.body 6 2 ≤ 1500] 3 ∧
      TakenUp (taken .wu channel yard) .wu 0x40 channel [] ∧
      ¬(fieldNat channel.body 0 1 ≤ 9 ∧ (fieldNat channel.body 0 1 ≤ yard.straps ∨ 4 ≤ fieldNat channel.body 0 1)) ∧
      TakenUp (taken .lu plan s) .lu 0x52 plan [] ∧ fieldNat plan.body 0 1 = 0 ∧ (s.bay 0).state = .arrived ∧
      (s.bay 0).plan = [] ∧ fieldNat plan.body 1 1 = 2 ∧ fieldNat plan.body 12 2 ≤ (s.bay 0).spacing ∧
      fieldNat plan.body 20 2 < fieldNat plan.body 12 2 + 120 :=
  ⟨taken_takenUp _ _ _ _, by decide +kernel, taken_takenUp _ _ _ _,
    firstFails_later trivial (firstFails_head (by decide +kernel)), taken_takenUp _ _ _ _,
    firstFails_later (by decide +kernel) (firstFails_later (by decide +kernel)
      (firstFails_later (by decide +kernel) (firstFails_head (by decide +kernel)))),
    taken_takenUp _ _ _ _, by decide +kernel, taken_takenUp _ _ _ _, by decide +kernel⟩

theorem witness_UnknownCoilChangesOnlyItsCell :
    let o := order 0x1A (body [(4, 99), (2, 0xFFFF), (1, 0xFF)])
    TakenUp (taken .su o yard) .su 0x1A o [] ∧ 1 ≤ fieldNat o.body 0 4 ∧ fieldNat o.body 4 2 = 0xFFFF ∧
      fieldNat o.body 6 1 = 0xFF ∧ yard.recordOf (fieldNat o.body 0 4) = none ∧ fieldNat (body [(4, 99), (1, 1)]) 4 1 ≤ 1 :=
  ⟨taken_takenUp _ _ _ _, by decide +kernel⟩

def columnBody : List Byte :=
  body ([(1, 5), (1, 0), (2, 4200), (2, 0x3FF), (2, 1800), (2, 2200), (2, 3000), (2, 2400)]
    ++ (List.range 12).map fun r => (2, 100 + 200 * r))

theorem witness_SetColumnFollowsTheOrder :
    let o := order 0x10 columnBody
    TakenUp (taken .su o setupYard) .su 0x10 o [] ∧ fieldNat o.body 0 1 = 5 ∧ fieldNat o.body 2 2 ≤ 60000 ∧
      BitVec.ofNat 12 (fieldNat o.body 4 2) = 0x3FF ∧ 600 ≤ fieldNat o.body 6 2 ∧ fieldNat o.body 6 2 ≤ 2200 ∧
      800 ≤ fieldNat o.body 8 2 ∧ fieldNat o.body 8 2 ≤ 2500 ∧ 1 ≤ fieldNat o.body 10 2 ∧
      fieldNat o.body 10 2 ≤ 4500 ∧ 1 ≤ fieldNat o.body 12 2 ∧ fieldNat o.body 12 2 ≤ 4500 ∧
      (∀ r < 12, fieldNat o.body (14 + 2 * r) 2 ≤ 4000) ∧
      (∀ r < 11, fieldNat o.body (14 + 2 * r) 2 < fieldNat o.body (14 + 2 * (r + 1)) 2) ∧
      (∀ p < 24, (setupYard.slot (24 * 5 + p)).state = .held → slotExists 0x3FF p = true) ∧
      (setupYard.slot (24 * 5 + 3)).state = .held ∧ slotExists 0x007 3 = false ∧
      (∀ q < 3, (setupYard.slot (24 * 5 + q)).state = .held → slotExists 0x007 q = true) ∧
      (setupYard.slot (24 * 5 + 3)).coil = some 0 ∧ (setupYard.coil? 0).isSome = true ∧
      setupYard.mode ≠ .resetting ∧ setupYard.tablesLaw = true :=
  ⟨taken_takenUp _ _ _ _, by decide +kernel⟩

/-- A SET_COLUMN that changes no slot writes its column's counts all the same, 0 and 0
under edition 1 (R1). -/
theorem test_set_column_writes_its_counts_in_any_case :
    next (exec .setColumn (taken .su (order 0x10 (body ([(1, 6), (1, 0), (2, 4200), (2, 0), (2, 1800), (2, 2200), (2, 3000),
        (2, 2400)] ++ (List.range 12).map fun r => (2, 100 + 200 * r)))) setupYard))
      (fun t => t.slots == setupYard.slots && t.readBytes 0x218 4 == [1, 0, 0, 1]) = true := by decide +kernel

theorem witness_PlaceCoilRecordsACoil :
    let o := order 0x12 (body [(4, 5), (2, 4500), (2, 600), (2, 800), (1, 9), (1, 1), (2, 135)])
    TakenUp (taken .su o setupYard) .su 0x12 o [] ∧ 1 ≤ fieldNat o.body 0 4 ∧ fieldNat o.body 4 2 ≤ 4500 ∧
      600 ≤ fieldNat o.body 6 2 ∧ 800 ≤ fieldNat o.body 8 2 ∧ (Place.slot 135).kindCode = fieldNat o.body 11 1 ∧
      (Place.slot 135).valueCode = fieldNat o.body 12 2 ∧ (setupYard.slot 135).state = .free ∧
      (setupYard.slot (135 - 12)).state = .held ∧ (setupYard.slot (135 - 11)).state = .held ∧
      setupYard.recordOf (fieldNat o.body 0 4) = none ∧ setupYard.coil? 3 = none ∧
      (∀ q < 3, (setupYard.coil? q).isSome = true) ∧ setupYard.fitted 1 = true ∧
      setupYard.recordAt (.hook 1) = none ∧ (setupYard.station 1).configured = true ∧
      (setupYard.station 1).state ≠ .held :=
  ⟨taken_takenUp _ _ _ _, by decide +kernel⟩

theorem witness_AnnounceCoilRecordsACoil :
    let o := order 0x14 (body [(1, 1), (1, 0), (2, 0), (4, 5), (2, 1), (2, 2200), (2, 2500), (1, 9)])
    TakenUp (taken .su o yard) .su 0x14 o [] ∧ fieldNat o.body 0 1 = 1 ∧ 1 ≤ fieldNat o.body 4 4 ∧
      1 ≤ fieldNat o.body 8 2 ∧ fieldNat o.body 8 2 ≤ 4500 ∧ 600 ≤ fieldNat o.body 10 2 ∧
      fieldNat o.body 10 2 ≤ 2200 ∧ 800 ≤ fieldNat o.body 12 2 ∧ fieldNat o.body 12 2 ≤ 2500 ∧
      (yard.station 1).configured = true ∧ (yard.station 1).state = .empty ∧
      yard.recordOf (fieldNat o.body 4 4) = none ∧ yard.coil? 3 = none ∧ ∀ q < 3, (yard.coil? q).isSome = true :=
  ⟨taken_takenUp _ _ _ _, by decide +kernel⟩

theorem witness_StationPolicyAndRunwayTakeTheirValues :
    let n := order 0x11 (body [(1, 1), (1, 0), (2, 60000), (2, 4000)])
    let o := order 0x13 (body [(2, 500), (1, 20), (1, 15), (1, 5), (1, 40), (2, 500), (1, 100)])
    let q := order 0x20 (body [(2, 0), (2, 60000), (2, 10), (2, 1000), (2, 10), (2, 5), (2, 100), (2, 1000)])
    TakenUp (taken .su n setupYard) .su 0x11 n [] ∧ TakenUp (taken .su o yard) .su 0x13 o [] ∧
      TakenUp (taken .ru q setupYard) .ru 0x20 q [] ∧ fieldNat n.body 0 1 = 1 ∧ fieldNat n.body 2 2 ≤ 60000 ∧
      fieldNat n.body 4 2 ≤ 4000 ∧ fieldNat o.body 0 2 ≤ 500 ∧ fieldNat o.body 6 2 ≤ 500 ∧ fieldNat o.body 8 1 ≤ 100 ∧
      fieldNat q.body 0 2 < fieldNat q.body 2 2 ∧ fieldNat q.body 2 2 ≤ 60000 ∧ 10 ≤ fieldNat q.body 4 2 ∧
      fieldNat q.body 4 2 ≤ 500 ∧ 100 ≤ fieldNat q.body 6 2 ∧ fieldNat q.body 6 2 ≤ 1000 ∧ 10 ≤ fieldNat q.body 8 2 ∧
      fieldNat q.body 8 2 ≤ 200 ∧ 5 ≤ fieldNat q.body 10 2 ∧ fieldNat q.body 10 2 ≤ 200 ∧
      100 ≤ fieldNat q.body 12 2 ∧ fieldNat q.body 12 2 ≤ 2000 ∧ fieldNat q.body 14 2 ≤ 1000 :=
  ⟨taken_takenUp _ _ _ _, taken_takenUp _ _ _ _, taken_takenUp _ _ _ _, by decide +kernel⟩

theorem witness_RemoveCoilGivesUpItsPlace :
    let o := order 0x15 (body [(4, 80311207)])
    let p := order 0x15 (body [(4, 80311201)])
    TakenUp (taken .su o yard) .su 0x15 o [] ∧ TakenUp (taken .su p setupYard) .su 0x15 p [] ∧
      yard.recordOf (fieldNat o.body 0 4) = some 2 ∧ (yard.coil? 2).map Coil.place = some (.station 0) ∧
      (yard.coil? 2).map Coil.move = some none ∧ (yard.coil? 2).map Coil.outbound = some false ∧
      setupYard.recordOf (fieldNat p.body 0 4) = some 0 ∧ (setupYard.coil? 0).map Coil.place = some (.slot 123) ∧
      ∀ u ∈ uppersOver 123, (setupYard.slot u).state = .off ∨ (setupYard.slot u).state = .free :=
  ⟨taken_takenUp _ _ _ _, taken_takenUp _ _ _ _, by decide +kernel⟩

theorem witness_HoldCoilSetsAndClears :
    let o := order 0x16 (body [(4, 80311207), (1, 1)])
    TakenUp (taken .su o yard) .su 0x16 o [] ∧ yard.recordOf (fieldNat o.body 0 4) = some 2 ∧
      (yard.coil? 2).isSome = true ∧ fieldNat o.body 4 1 ≤ 1 :=
  ⟨taken_takenUp _ _ _ _, by decide +kernel⟩

theorem witness_QueryCoilShowsTheRecord :
    let o := order 0x17 (body [(4, 80311207)])
    TakenUp (taken .su o yard) .su 0x17 o [] ∧ yard.recordOf (fieldNat o.body 0 4) = some 2 ∧
      (yard.coil? 2).isSome = true :=
  ⟨taken_takenUp _ _ _ _, by decide +kernel⟩

theorem witness_ColumnFlagFollowsTheOrder :
    let o := order 0x18 (body [(1, 5)])
    TakenUp (taken .su o yard) .su 0x18 o [] ∧ 5 ≤ 63 ∧ (yard.column 5).configured = true ∧
      (yard.column 63).configured = false :=
  ⟨taken_takenUp _ _ _ _, by decide +kernel⟩

/-- The coil at station 0. -/
def stationCoil : Coil :=
  { id := 80311207, declared := 2150, width := 1200, diameter := 1800, group := 2, place := .station 0 }

theorem witness_MoveOrderCreatesAMove :
    let o := order 0x1A (body [(4, 80311207), (2, 135), (1, 0xFF)])
    TakenUp (taken .su o yard) .su 0x1A o [] ∧ 1 ≤ fieldNat o.body 0 4 ∧ fieldNat o.body 4 2 = 135 ∧
      fieldNat o.body 6 1 = 0xFF ∧ yard.recordOf (fieldNat o.body 0 4) = some 2 ∧ yard.coil? 2 = some stationCoil ∧
      yard.choose 2 stationCoil (some 135) none = .ok (135, 0) ∧ (yard.crane 0).queue.length < 8 ∧ yard.move? 0 = none :=
  ⟨taken_takenUp _ _ _ _, by decide +kernel⟩

theorem witness_MoveOrderRelocatesAHookCoil :
    let o := order 0x1B (body [(4, 5), (2, 120), (1, 0)])
    let c : Coil := { id := 5, declared := 1000, width := 700, diameter := 900, group := 0, place := .hook 0 }
    let s : State := { yard with coils := [(0, c)] }
    TakenUp (taken .su o s) .su 0x1B o [] ∧ s.recordOf (fieldNat o.body 0 4) = some 0 ∧ s.coil? 0 = some c ∧
      s.choose 0 c (Body.target o.body) (Body.craneNamed o.body) = .ok (120, 0) :=
  ⟨taken_takenUp _ _ _ _, by decide +kernel, rfl, rfl⟩

theorem witness_CradleRulesDecideTargets :
    120 % 24 < 12 ∧ 12 ≤ 135 % 24 ∧ 135 % 24 < 23 ∧ 12 ≤ (142 : Nat) % 24 ∧ (142 : Nat) % 24 < 23 ∧
      yard.coil? 2 = some stationCoil ∧ yard.slotFits stationCoil 2150 120 = true ∧
      yard.slotFits stationCoil 2150 135 = true ∧ yard.slotFits stationCoil 2150 123 = false := by decide +kernel

/-- Slot 123 is HELD; crane 1 is OUT; no slot is FREE. -/
theorem witness_CradleRulesAnswerAFailedChoice :
    let named := order 0x1A (body [(4, 80311207), (2, 123), (1, 1)])
    let auto := order 0x1A (body [(4, 80311207), (2, 0xFFFF), (1, 0xFF)])
    TakenUp (taken .su named yard) .su 0x1A named [] ∧ TakenUp (taken .su auto yard) .su 0x1A auto [] ∧
      yard.recordOf (fieldNat named.body 0 4) = some 2 ∧ yard.coil? 2 = some stationCoil ∧ stationCoil.move = none ∧
      stationCoil.place = .station 0 ∧ stationCoil.outbound = false ∧ fieldNat named.body 4 2 = 123 ∧
      fieldNat named.body 6 1 = 1 ∧ fieldNat auto.body 4 2 = 0xFFFF ∧ fieldNat auto.body 6 1 = 0xFF ∧
      yard.choose 2 stationCoil (some 123) (some 1) = .error .slotUnfit ∧
      ({ yard with cranes := [(0, standing 4000), (1, { standing 9000 with state := .out })] } : State).choose 2 stationCoil
        (some 135) (some 1) = .error .noCrane ∧
      ({ yard with slots := [] } : State).choose 2 stationCoil none none = .error .noSlot :=
  ⟨taken_takenUp _ _ _ _, taken_takenUp _ _ _ _, by decide +kernel⟩

/-- Only slots 120 and 135 are FREE. Crane 0 goes before crane 1 by its number, and 120 scores 32 + 15 against 32 + 20 + 15. -/
theorem witness_ChoicesTakeTheBestSlot :
    yard.tablesLaw = true ∧ (∀ q, (yard.slot q).state = .free → q = 120 ∨ q = 135) ∧
      yard.slotFits stationCoil 2150 120 = true ∧ yard.slotFits stationCoil 2150 135 = true ∧
      yard.placeX stationCoil.place = 1000 ∧ (∀ k ≤ yard.straps, (yard.crane k).svcLo ≤ 1000 ∧
        4200 ≤ (yard.crane k).svcHi ∧ (yard.crane k).state = .idle ∧ (yard.crane k).queue = []) ∧
      yard.choose 2 stationCoil none none = .ok (120, 0) ∧
      ({ yard with cranes := [] } : State).choose 2 stationCoil none none = .error .noCrane ∧
      ({ yard with slots := [] } : State).choose 2 stationCoil none none = .error .noSlot := by
  refine ⟨by decide, fun q h => ?_, by decide +kernel⟩
  simp only [State.slot, yard, Tab.get, Tab.find] at h
  by_cases h0 : 120 = q
  · exact .inl h0.symm
  · by_cases h3 : 135 = q
    · exact .inr h3.symm
    · by_cases h1 : 123 = q <;> by_cases h2 : 124 = q <;> simp [h0, h1, h2, h3] at h

theorem witness_SetCraneConfiguresTheCrane :
    let o := order 0x21 (body [(1, 1), (1, 0), (2, 0), (2, 60000), (2, 300)])
    let p := order 0x21 (body [(1, 3)])
    TakenUp (taken .ru o setupYard) .ru 0x21 o [] ∧ TakenUp (taken .ru p setupYard) .ru 0x21 p [] ∧
      fieldNat o.body 0 1 = 1 ∧ 1 ≤ setupYard.straps ∧ fieldNat o.body 2 2 ≤ 60000 ∧ fieldNat o.body 4 2 ≤ 60000 ∧
      300 ≤ fieldNat o.body 6 2 ∧ fieldNat o.body 6 2 ≤ 1500 ∧ fieldNat p.body 0 1 = 3 ∧ setupYard.straps < 3 :=
  ⟨taken_takenUp _ _ _ _, taken_takenUp _ _ _ _, by decide +kernel⟩

theorem quiet_of_default {s : State} (hr : s.requests = []) (hs : s.stalled = [])
    (hc : ∀ p ∈ s.cranes, p.2.yield = none ∧ p.2.deferral = none) : s.runwayQuiet := by
  refine ⟨hr, hs, fun c => ?_⟩
  have key : ∀ t : Tab Crane, (∀ p ∈ t, p.2.yield = none ∧ p.2.deferral = none) →
      (Tab.get {} t c).yield = none ∧ (Tab.get {} t c).deferral = none := by
    intro t ht
    induction t with
    | nil => exact ⟨rfl, rfl⟩
    | cons p rest ih =>
      simp only [Tab.get, Tab.find]
      split
      · exact ht p (by simp)
      · exact ih fun q hq => ht q (by simp [hq])
  exact key _ hc

theorem yard_quiet : yard.runwayQuiet := quiet_of_default rfl rfl (by decide +kernel)

/-- A move from slot 123 to slot 120, ordered by cell 1. -/
def moveHome : Move :=
  { seq := 1, origin := .cell 1 2, coil := 0, source := .slot 123, dest := .slot 120, auto := false, crane := 0
    sourceX := 4200, sourceY := 700, destX := 4200, destY := 100 }

/-- The yard with that move queued, its cell WORKING, and an order in cell 0. -/
def movingYard (w : Owner) (o : Order) (v : Move) : State :=
  { yard.setInbound w [o] with
    mem := [(0x1000, 2), (0x1008, 1), (0x1100, 3), (0x1108, 2)]
    moves := [(0, v)], nextSeq := 2
    cranes := [(0, { standing 4000 with queue := [0] }), (1, standing 9000)]
    slots := [(120, { state := .targeted, coil := some 0, move := some 0 }),
      (123, { state := .leaving, coil := some 0, move := some 0 }), (124, { state := .held, coil := some 1 })]
    coils := coils.map fun p => if p.1 = 0 then (0, { p.2 with move := some 0 }) else p }

theorem movingYard_takenUp (w : Owner) (k : Nat) (b : List Byte) (v : Move) :
    TakenUp (movingYard w (order k b) v) w k (order k b) [] where
  head := by cases w <;> rfl
  kind := rfl
  cell := Nat.zero_lt_succ _
  current :=
    (cellIsOf_of_mem (t := { mem := [(0x1000, 2), (0x1008, 1), (0x1100, 3), (0x1108, 2)] }) rfl 0 1).trans
      (by decide +kernel)

theorem movingYard_quiet (w : Owner) (o : Order) (v : Move) : (movingYard w o v).runwayQuiet := by
  have h : ∀ p ∈ ([(0, { standing 4000 with queue := [0] }), (1, standing 9000)] : Tab Crane),
      p.2.yield = none ∧ p.2.deferral = none := by decide +kernel
  cases w <;> exact quiet_of_default rfl rfl h

theorem witness_AbortRecordsOrEnds :
    let o := order 0x30 (body [(2, 0), (1, 0), (1, 2)])
    let p := order 0x30 (body [(2, 0), (1, 0), (1, 3)])
    let v : Move := { moveHome with phase := .pickVerify }
    let s := movingYard .cu p moveHome
    TakenUp (movingYard .cu o v) .cu 0x30 o [] ∧ (movingYard .cu o v).runwayQuiet ∧ TakenUp s .cu 0x30 p [] ∧
      s.runwayQuiet ∧
      fieldNat o.body 0 2 = 0 ∧ fieldNat o.body 2 1 = 0 ∧ fieldNat o.body 3 1 = 2 ∧
      (movingYard .cu o v).move? 0 = some v ∧ v.abort = none ∧ v.withdrawal = none ∧
      fieldNat p.body 3 1 = 3 ∧ s.move? 0 = some moveHome ∧ moveHome.origin = .cell 1 2 ∧ s.cellIsOf 1 2 = true ∧
      (s.coil? moveHome.coil).isSome = true ∧
      s.slot 123 = { state := .leaving, coil := some moveHome.coil, move := some 0 } ∧
      s.slot 120 = { state := .targeted, coil := some moveHome.coil, move := some 0 } ∧
      ∀ b < 3, (s.bay b).plan = [] :=
  ⟨movingYard_takenUp _ _ _ _, movingYard_quiet _ _ _, movingYard_takenUp _ _ _ _, movingYard_quiet _ _ _,
    by decide +kernel⟩

theorem witness_CranesLeaveAndReturn :
    let o := order 0x31 (body [(1, 1)])
    let s := taken .cu o yard
    TakenUp s .cu 0x31 o [] ∧ fieldNat o.body 0 1 = 1 ∧ 1 ≤ s.straps ∧ (s.crane 1).state = .idle ∧
      (s.crane 1).queue = [] ∧ (s.channel 1).zeroSet = none ∧ s.journalTakes 1 = true ∧ ¬3 ≤ s.straps :=
  ⟨taken_takenUp _ _ _ _, by decide +kernel⟩

theorem witness_CranesReturn :
    let o := order 0x32 (body [(1, 1)])
    let s := taken .cu o { yard with mode := .halted, cranes := [(0, standing 4000), (1, { standing 9000 with state := .out })] }
    TakenUp s .cu 0x32 o [] ∧ s.runwayQuiet ∧ fieldNat o.body 0 1 = 1 ∧ 1 ≤ s.straps ∧ (s.crane 1).state = .out ∧
      (s.crane 1).link = .up ∧ (s.crane 1).lock = .locked ∧ s.journalTakes 2 = true ∧ (s.crane 0).state ≠ .out :=
  ⟨taken_takenUp _ _ _ _, quiet_of_default rfl rfl (by decide +kernel), by decide +kernel⟩

/-- A report with every position beyond its range, the tong closed and empty. -/
def report : StatusReport :=
  { doneSeq := 1, xEncoder := 65535, xLaser := 65535, y := 65535, hook := 65535, tong := 1, speed := 0, load := 100
    faultCode := 0 }

theorem witness_StatusStoresItsValues :
    let k := setupYard.crane 0
    let h := setupYard.channel 0
    k.link ≠ .lost ∧ k.lock = .locked ∧ min report.xLaser.toNat 60000 ≤ min report.xEncoder.toNat 60000 + 30 ∧
      k.step = none ∧ h.session = none ∧ h.zeroSet = none ∧ setupYard.mode = .setup ∧
      (let s : State := { yard with cranes := [(0, { standing 60000 with grant := { lo := 59950, hi := 60000 } })] }
       (s.mode = .run ∧ (s.crane 0).state ≠ .fault ∧ report.faultCode = 0 ∧
          (s.crane 0).grant.lo ≤ 60000 + s.runway.lockWindow ∧ (60000 : Int) ≤ (s.crane 0).grant.hi + s.runway.lockWindow ∧
          (s.crane 0).leg = none ∧ (s.crane 0).narrowDue = false ∧ (∀ b < 3, 0 ∉ (s.bay b).breach) ∧
          report.tong = 1 ∧ (s.crane 0).step = none)) := by decide +kernel

/-- A report of position `x` and laser position `l`, speed 0, the tong open and low, under done sequence 1. -/
def reportAt (x l : BitVec 16) (fault : Byte) : StatusReport :=
  { doneSeq := 1, xEncoder := x, xLaser := l, y := 500, hook := 100, tong := 0, speed := 0, load := 3214500
    faultCode := fault }

/-- The yard with crane 0 as given, a move of cell 1 at the head of its queue. -/
def workingYard (v : Move) (k : Crane) : State :=
  { movingYard .su (order 0x17 []) v with cranes := [(0, k), (1, standing 9000)] }

/-- The end of a LEG1, the crane at its target and standing; and a TAGREAD that read the coil's own tag. -/
theorem witness_StatusCompletesAStep :
    let k : Crane :=
      { standing 4200 with
        state := .busy, queue := [0], step := some { seq := 1, kind := .goto 4200 700 }
        leg := some { kind := .move, targetX := 4200, targetY := 700, seq := 1, direction := .east } }
    let v : Move := { moveHome with phase := .leg1 }
    let s := workingYard v k
    let u := k.took (reportAt 4200 4200 0)
    s.runwayQuiet ∧ s.mode = .run ∧ k.link ≠ .lost ∧ k.lock = .locked ∧ u.xLaser = u.xEncoder ∧ k.state = .busy ∧
      u.faultCode = 0 ∧ k.grant.lo ≤ 4200 + 30 ∧ (4200 : Int) ≤ k.grant.hi + 30 ∧ k.heldWide = false ∧
      (∀ b < 3, 0 ∉ (s.bay b).breach) ∧ s.closedBays = [] ∧ (s.channel 0).session = none ∧
      (s.channel 0).zeroSet = none ∧ k.queue = 0 :: [] ∧ s.move? 0 = some v ∧ v.crane = 0 ∧ v.withdrawal = none ∧
      v.abort = none ∧ v.origin = .cell 1 2 ∧ s.cellIsOf 1 2 = true ∧ (s.coil? v.coil).map Coil.id = some 80311201 ∧
      k.step.map Step.seq = some u.doneSeq ∧ k.leg.map Leg.kind = some .move ∧ u.speed = 0 ∧
      (s.runway.lo : Int) ≤ 4150 ∧ (4250 : Int) ≤ s.runway.hi ∧ s.hasRoom 0 { lo := 4150, hi := 4250 } :=
  ⟨quiet_of_default rfl rfl (by decide +kernel), by unfold State.hasRoom; decide +kernel⟩

theorem witness_StatusCompletesATagRead :
    let k : Crane :=
      { standing 4200 with
        state := .busy, queue := [0], step := some { seq := 1, kind := .tagread }, tagRead := some (some 80311201) }
    let v : Move := { moveHome with phase := .pickVerify }
    let s := workingYard v k
    s.runwayQuiet ∧ s.mode = .run ∧ s.move? 0 = some v ∧ k.tagRead = some ((s.coil? v.coil).map Coil.id) ∧
      k.leg = none ∧ k.narrowDue = false ∧ k.step.map Step.seq = some (k.took (reportAt 4200 4200 0)).doneSeq :=
  ⟨quiet_of_default rfl rfl (by decide +kernel), by decide +kernel⟩

/-- The third miss, 31 cm apart under a lock window of 30, and the eighth hit, 30 cm apart. -/
theorem witness_StatusLosesAndRegainsLock :
    let k := { standing 4000 with missCount := 2 }
    let u := k.took (reportAt 4000 4031 0)
    let l : Crane :=
      { standing 4000 with
        lock := .lost, hitCount := 7, state := .stopped, causes := { lockLost := true }, heldWide := true
        grant := { lo := 3900, hi := 4150 } }
    let w := l.took (reportAt 4000 4030 0)
    let s : State := { yard with cranes := [(0, k), (1, standing 9000)] }
    s.runwayQuiet ∧ s.mode = .run ∧ k.step = none ∧ k.leg = none ∧ k.narrowDue = false ∧ k.queue = [] ∧
      u.faultCode = 0 ∧ s.closedBays = [] ∧ (∀ b < 3, 0 ∉ (s.bay b).breach) ∧ (s.channel 0).session = none ∧
      (s.channel 0).zeroSet = none ∧ s.journalTakes 2 = true ∧ k.lock = .locked ∧ u.xLaser - u.xEncoder = 31 ∧
      s.runway.lockWindow = 30 ∧ k.state = .idle ∧ k.causes = {} ∧ k.heldWide = false ∧
      s.hasRoom 0 (s.widened k.grant { lo := 4000, hi := 4031 } 0) ∧ w.xLaser - w.xEncoder = 30 ∧
      l.resume = .idle ∧ l.waiting = none ∧ l.placedWest = false ∧ l.placedEast = false ∧ l.grant.lo ≤ 3980 ∧
      4080 ≤ l.grant.hi ∧ ¬(w.tong = .open_ ∧ s.runway.clearHeight ≤ w.hook) :=
  ⟨quiet_of_default rfl rfl (by decide +kernel), by unfold State.hasRoom; decide +kernel⟩

/-- A drive fault code; a laser position 31 cm past the grant's end, the window being 30; and a FAULT that ends. -/
theorem witness_StatusEntersAndLeavesFault :
    let k := standing 4000
    let u := k.took (reportAt 4000 4000 9)
    let o := k.took (reportAt 4081 4081 0)
    let f : Crane := { standing 4000 with state := .fault, heldWide := true, grant := { lo := 3900, hi := 4100 } }
    yard.runwayQuiet ∧ yard.mode = .run ∧ k.link ≠ .lost ∧ k.lock = .locked ∧ u.xLaser = u.xEncoder ∧ k.step = none ∧
      k.leg = none ∧ k.narrowDue = false ∧ k.queue = [] ∧ yard.closedBays = [] ∧ (∀ b < 3, 0 ∉ (yard.bay b).breach) ∧
      (yard.channel 0).session = none ∧ (yard.channel 0).zeroSet = none ∧ yard.journalTakes 1 = true ∧
      k.state = .idle ∧ k.heldWide = false ∧ u.faultCode ≠ 0 ∧
      yard.hasRoom 0 (yard.widened k.grant { lo := 4000, hi := 4000 } 0) ∧ o.faultCode = 0 ∧
      k.grant.hi + yard.runway.lockWindow < o.xLaser ∧
      yard.hasRoom 0 (yard.widened k.grant { lo := 4081, hi := 4081 } 0) ∧ f.reason = .drive ∧
      (f.took (reportAt 4000 4000 0)).speed = 0 ∧ f.placedWest = false ∧ f.placedEast = false ∧
      f.grant.lo ≤ 3950 ∧ 4050 ≤ f.grant.hi :=
  ⟨yard_quiet, by unfold State.hasRoom; decide +kernel⟩

/-- The ninth and the tenth report of a recovery, and the 39th sample of a session that has not settled, of a crane that holds
the coil and is on no leg. -/
theorem witness_StatusRecoversALinkAndFeedsASession :
    let k : Crane :=
      { standing 4000 with
        link := .lost, recoveryCount := 9, state := .fault, reason := .link, heldWide := true
        grant := { lo := 3900, hi := 4100 } }
    let b := { standing 4000 with state := .busy, tong := .closedLoaded, wholeTong := .closedLoaded }
    let u := b.took { reportAt 4000 4000 0 with tong := 2 }
    let w : HookSession := { window := { entries := List.replicate 8 none }, count := 38 }
    let h := { hookChannel with session := some w }
    let s : State := { yard with cranes := [(0, k), (1, standing 9000)] }
    s.runwayQuiet ∧ s.mode = .run ∧ k.lock = .locked ∧ k.step = none ∧ k.leg = none ∧ k.narrowDue = false ∧
      (∀ b < 3, 0 ∉ (s.bay b).breach) ∧ (s.channel 0).zeroSet = none ∧ (s.channel 0).session = none ∧
      s.journalTakes 2 = true ∧ k.placedWest = false ∧ k.placedEast = false ∧ k.grant.lo ≤ 3950 ∧
      4050 ≤ k.grant.hi ∧ (8 < k.recoveryCount) ∧ s.closedBays = [] ∧ u.tong = .closedLoaded ∧
      b.wholeTong = .closedLoaded ∧ b.link ≠ .lost ∧ b.leg = none ∧ b.grant.lo ≤ u.xLaser ∧ b.heldWide = false ∧ h.zeroSet = none ∧
      (0 : Nat) ≠ h.settleCount ∧ w.count + 1 < 40 :=
  ⟨quiet_of_default rfl rfl (by decide +kernel), by decide +kernel⟩

theorem witness_TagsAndBadTelegramsAreTaken :
    (0 : Nat) ≤ yard.straps ∧ (yard.crane 0).badCount ≠ 3 ∧ yard.straps < (3 : Fin 4).val ∧
      ({ standing 4000 with step := some { seq := 5, kind := .tagread } } : Crane).step =
        some { seq := (5 : BitVec 8).toNat, kind := .tagread } ∧
      ({ standing 4000 with step := some { seq := 5, kind := .tagread } } : Crane).tagRead = none := by decide +kernel

theorem witness_LinksAreLost :
    let s : State := { setupYard with cranes := [(0, { standing 4000 with badCount := 3 }), (1, { standing 9000 with link := .lost })] }
    s.mode = .setup ∧ (s.crane 0).link ≠ .lost ∧ (s.crane 0).badCount = 3 ∧ (s.channel 0).session = none ∧
      (s.channel 0).zeroSet = none ∧ s.journalTakes 1 = true ∧ (s.crane 1).link = .lost := by decide +kernel

theorem witness_LinksAreLostInService :
    let k := yard.crane 0
    let u := k.positionUsed
    let b : Int := yard.braking 0
    let want : Span := { lo := max (min k.grant.lo (u.lo - b - 50)) 0, hi := min (max k.grant.hi (u.hi + b + 50)) 20000 }
    yard.runwayQuiet ∧ yard.mode = .run ∧ k.link ≠ .lost ∧ k.state = .idle ∧ k.queue = [] ∧ k.step = none ∧
      yard.closedBays = [] ∧ k.heldWide = false ∧ (yard.roomOf 0).lo ≤ want.lo ∧ want.hi ≤ (yard.roomOf 0).hi ∧
      (yard.channel 0).session = none ∧ (yard.channel 0).zeroSet = none ∧ yard.journalTakes 2 = true :=
  ⟨yard_quiet, by decide +kernel⟩

theorem witness_MoveBeginStartsLegOne :
    let s := movingYard .su (order 0x17 []) moveHome
    s.runwayQuiet ∧ s.mode = .run ∧ (s.crane 0).state = .idle ∧ (s.crane 0).queue = 0 :: [] ∧
      s.move? 0 = some moveHome ∧ moveHome.phase = .queued ∧ moveHome.crane = 0 ∧ s.recordAt (.hook 0) = none ∧
      moveHome.abort = none ∧ moveHome.origin = .cell 1 2 ∧ s.cellIsOf 1 2 = true ∧ (s.crane 0).heldWide = false ∧
      (s.channel 0).zeroSet = none ∧
      s.compatible { crane := 0, kind := .move, targetX := 4200, targetY := 700, seq := 1 } = true ∧
      (s.crane 1).queue = [] :=
  ⟨movingYard_quiet _ _ _, by decide +kernel⟩

theorem witness_BrakingAndRequestSpans :
    0 < yard.runway.decel ∧ yard.fitted 0 = true ∧ yard.fitted 1 = true ∧
      yard.compatible { crane := 0, kind := .move, targetX := 7300, targetY := 0, seq := 1 } = true ∧
      yard.compatible { crane := 0, kind := .move, targetX := 7301, targetY := 0, seq := 1 } = false ∧
      yard.blockers 0 (yard.requestSpan 0 7301) = [1] := by decide +kernel

theorem witness_WeightsAreCorrectedAndReported :
    0 < hookChannel.span ∧ 0 < hookChannel.cap ∧ hookChannel.cap % 8 = 0 ∧
      (0 < (59999 : Int) ∧ (59999 : Int) < hookChannel.cap) ∧
      ({ wref := 20000, span := 2500000 } : Channel).zero = 0 := by decide

def channelBody : List Byte :=
  body [(1, 0), (1, 0), (2, 60000), (4, 12300), (4, 2500000), (2, 20000), (2, 0xFE0C), (2, 0), (2, 0), (2, 12), (2, 20),
    (2, 0), (2, 0), (2, 0), (2, 500)]

theorem witness_SetChannelCalibrates :
    let o := order 0x40 channelBody
    let s := taken .wu o yard
    TakenUp s .wu 0x40 o [] ∧ fieldNat o.body 0 1 = 0 ∧ 8000 ≤ fieldNat o.body 2 2 ∧ fieldNat o.body 2 2 ≤ 60000 ∧
      fieldNat o.body 2 2 % 8 = 0 ∧ -8000000 ≤ fieldInt o.body 4 4 ∧ fieldInt o.body 4 4 ≤ 8000000 ∧
      1 ≤ fieldNat o.body 8 4 ∧ fieldNat o.body 8 4 ≤ 8000000 ∧ 1 ≤ fieldNat o.body 12 2 ∧
      fieldNat o.body 12 2 ≤ 60000 ∧
      (∀ i < 9, -500 ≤ fieldInt o.body (14 + 2 * i) 2 ∧ fieldInt o.body (14 + 2 * i) 2 ≤ 500) ∧
      fieldNat o.body 32 2 = 0 ∧ fieldNat o.body 34 1 = 0 ∧ fieldNat o.body 35 1 ≤ 31 ∧ fieldNat o.body 36 2 = 0 ∧
      fieldNat o.body 38 1 ≤ 4 ∧ fieldNat o.body 39 1 ≤ 1 ∧ (s.channel 0).zeroSet = none ∧ s.currentMove 0 = none ∧
      ({ s with channels := [(0, { hookChannel with zeroSet := some { cell := 1, take := 2 } })] }.channel 0).zeroSet ≠
        none :=
  ⟨taken_takenUp _ _ _ _, by decide +kernel⟩

theorem witness_ZeroSetStartsAndRearmClears :
    let o := order 0x41 (body [(1, 9)])
    let p := order 0x42 (body [(1, 9)])
    let s := taken .wu o { yard with channels := [(9, { hookChannel with lastEligible := true })] }
    TakenUp s .wu 0x41 o [] ∧ TakenUp (taken .wu p yard) .wu 0x42 p [] ∧ fieldNat o.body 0 1 = 9 ∧
      (s.channel 9).configured = true ∧ (s.channel 9).data = true ∧ (s.bay ((9 - 4) / 2)).session = none ∧
      (s.channel 9).zeroSet = none ∧ (s.channel 9).lastEligible = true ∧ (yard.channel 9).configured = false :=
  ⟨taken_takenUp _ _ _ _, taken_takenUp _ _ _ _, by decide +kernel⟩

theorem witness_SamplesReachTheirChannels :
    (setupYard.bay 2).session = none ∧ (setupYard.channel 8).zeroSet = none ∧ (setupYard.channel 9).zeroSet = none ∧
      ¬(setupYard.mode = .run ∨ setupYard.mode = .halted) ∧ (yard.channel 0).expiryRunning = true ∧
      (yard.channel 0).session = none ∧ (yard.channel 0).zeroSet = none ∧ (yard.channel 9).expiryRunning = false ∧
      (yard.channel 5).expiryRunning = true ∧ (yard.bay ((5 - 4) / 2)).session = none := by decide +kernel

/-- 16 samples of 12,300 but the last, which arrives. -/
def batchYard (sum : Int) : State :=
  { yard with
    channels := [(4, { hookChannel with batchSet := some { sum := sum, inBatch := 15, batches := 0 } })] }

theorem witness_CompleteBatchSetIsEvaluated :
    let s := batchYard (15 * 12300)
    let h := s.channel 4
    s.mode = .run ∧ (s.bay 0).state = .empty ∧ (s.bay 0).session = none ∧ h.configured = true ∧ h.fault = false ∧
      h.latched = false ∧ h.zeroSet = none ∧ h.batchSet = some { sum := 15 * 12300, inBatch := 15, batches := 0 } ∧
      0 + 1 = h.batches ∧ 0 < h.span ∧ h.alarm ≤ 4 ∧ (s.channel 5).configured = false ∧ (s.channel 5).zeroSet = none ∧
      s.journalTakes 1 = true ∧
      RoundedHalfAway (15 * 12300 + (12300 : BitVec 24).toInt) (16 * h.batches) 12300 ∧
      RoundedHalfAway ((12300 - h.zero).natAbs * h.wref) h.span (0 : Nat) := by
  unfold RoundedHalfAway
  decide +kernel

/-- The drifts at the ends of the three cases: 20 kg, 150 kg and 151 kg for a track band of 20 and an alarm limit of 150. -/
theorem witness_CompleteBatchSetAtItsBounds :
    let h := (batchYard 0).channel 4
    h.drift (12300 + 2500) = 20 ∧ h.alarmLimit = 150 ∧ h.drift (12300 + 18750) = 150 ∧ h.drift (12300 + 18875) = 151 ∧
      RoundedHalfAway ((12300 + 18875 - h.zero).natAbs * h.wref) h.span (151 : Nat) ∧
      h.batchMean (16 * (12300 + 18875)) = 12300 + 18875 := by
  unfold RoundedHalfAway
  decide +kernel

/-- A truck weighed on arrival, 99 samples in, its order in cell 0. -/
def arrivalYard : State :=
  { yard with
    mem := [(0x1000, 3), (0x1008, 1)]
    bays := [(0, { state := .arriving, waitingCell := some (0, 1), session := some { purpose := .arrival, count := 99 } })] }

theorem witness_SessionExpiryEndsTheArrival :
    let p : PlatformSession := { purpose := .arrival, count := 99 }
    (arrivalYard.bay 0).state = .arriving ∧ (arrivalYard.bay 0).session = some p ∧ p.purpose = .arrival ∧ p.count = 99 ∧
      (arrivalYard.bay 0).waitingCell = some (0, 1) ∧ arrivalYard.cellIsOf 0 1 = true ∧
      (arrivalYard.channel 4).zeroSet = none ∧ (arrivalYard.channel 5).zeroSet = none ∧
      ((p.front.take (arrivalYard.channel 4) 5).settled (arrivalYard.channel 4)
        && (p.rear.take (arrivalYard.channel 5) 5).settled (arrivalYard.channel 5)) = false := by decide +kernel

theorem witness_SetBayConfiguresTheBay :
    let o := order 0x50 (body [(1, 2), (1, 0), (2, 0), (2, 60000), (2, 60000), (2, 4000), (2, 500), (2, 100)])
    TakenUp (taken .lu o setupYard) .lu 0x50 o [] ∧ fieldNat o.body 0 1 = 2 ∧ fieldNat o.body 2 2 < fieldNat o.body 4 2 ∧
      fieldNat o.body 4 2 ≤ 60000 ∧ fieldNat o.body 2 2 ≤ fieldNat o.body 6 2 ∧
      fieldNat o.body 6 2 ≤ fieldNat o.body 4 2 ∧ fieldNat o.body 8 2 ≤ 4000 ∧ fieldNat o.body 10 2 ≤ 500 ∧
      fieldNat o.body 12 2 ≤ 100 :=
  ⟨taken_takenUp _ _ _ _, by decide +kernel⟩

theorem witness_AreaChangeFollowsTheInput :
    yard.runwayQuiet ∧ (yard.bay 0).state ≠ .unconfigured ∧ (yard.bay 0).occupied ≠ true ∧
      (yard.bay 1).state = .unconfigured ∧
      ∀ c ≤ yard.straps, c < 4 → (yard.crane c).wholeTong ≠ .closedLoaded ∧ yard.workBed c ≠ some 0 :=
  ⟨yard_quiet, by decide +kernel⟩

/-- Crane 0 of the yard carries a coil at `x` with speed `v`, on a leg to 12400 with its GOTO in progress. -/
def carrying (x : Nat) (v : Int) : State :=
  { yard with
    cranes := [(0, { standing x with
        state := .busy, tong := .closedLoaded, wholeTong := .closedLoaded, speed := v
        grant := { lo := x - 50, hi := 12450 }
        leg := some { kind := .move, targetX := 12400, targetY := 900, seq := 3, direction := .east }
        step := some { seq := 4, kind := .goto 12400 900 }, lastSeq := 4 }),
      (1, standing 18000)] }

/-- The extent of bay 0 is [11700, 13100]. At 12000 the crane is inside; at 11000 it stops short of it at rest, at 200 cm/s
(braking 500 cm) it does not. -/
theorem witness_AreaChangeTestsALoadedCrane :
    (∀ p ∈ [(12000, 0), (11000, 0), (11500, 200)],
      let s := carrying p.1 p.2
      let c := s.crane 0
      s.mode = .run ∧ (s.bay 0).state = .empty ∧ (s.bay 0).occupied = false ∧ c.wholeTong = .closedLoaded ∧
        0 ∉ (s.bay 0).breach ∧ s.extent 0 = { lo := 11700, hi := 13100 } ∧ c.grant.hi = 12450 ∧ c.heldWide = false ∧
        (∀ j ≤ s.straps, j < 4 → s.workBed j ≠ some 0) ∧ (s.crane 1).wholeTong ≠ .closedLoaded ∧
        s.journalTakes 1 = true ∧ s.runwayQuiet) ∧
      (carrying 11000 0).stopping 0 = { lo := 10950, hi := 11050 } ∧
      (carrying 11500 200).stopping 0 = { lo := 11450, hi := 12050 } ∧
      (carrying 11000 0).blockers 0 { lo := 10950, hi := 12450 } = [] ∧
      (carrying 11500 200).blockers 0 { lo := 11450, hi := 12450 } = [] := by
  have q : ∀ x v, (carrying x v).runwayQuiet := fun _ _ => quiet_of_default rfl rfl (by simp [carrying, standing])
  refine ⟨?_, by decide +kernel⟩
  simp only [List.mem_cons, List.not_mem_nil, or_false, forall_eq_or_imp, forall_eq, q, and_true]
  decide +kernel

def arriveBody : List Byte :=
  body [(1, 0), (1, 0), (2, 0), (4, 555), (2, 1400), (2, 6000), (2, 6000), (2, 12000)]

theorem witness_TruckArriveOpensTheArrival :
    let o := order 0x51 arriveBody
    let s := taken .lu o yard
    TakenUp s .lu 0x51 o [] ∧ fieldNat o.body 0 1 = 0 ∧ 300 ≤ fieldNat o.body 8 2 ∧ fieldNat o.body 8 2 ≤ 1400 ∧
      1 ≤ fieldNat o.body 10 2 ∧ fieldNat o.body 10 2 ≤ 6000 ∧ 1 ≤ fieldNat o.body 12 2 ∧
      fieldNat o.body 12 2 ≤ 6000 ∧ 1 ≤ fieldNat o.body 14 2 ∧ fieldNat o.body 14 2 ≤ 12000 ∧ (s.bay 0).state = .empty ∧
      (∀ q ∈ [4 + 2 * 0, 5 + 2 * 0], (s.channel q).configured = true ∧ (s.channel q).data = true ∧
        (s.channel q).fault = false ∧ (s.channel q).zeroSet = none) ∧ (s.bay 1).state ≠ .empty :=
  ⟨taken_takenUp _ _ _ _, by decide +kernel⟩

/-- An ARRIVED truck of 5 t on each platform. -/
def arrivedBay : Bay :=
  { state := .arrived, centre := 12400, frontLine := 800, truckRef := 555, spacing := 1000, frontLimit := 3000
    rearLimit := 3000, grossLimit := 6000, tareFront := 500, tareRear := 500, front := 500, rear := 500 }

theorem witness_LoadPlanStartsTheFirstEntry :
    let o := order 0x52 (body [(1, 0), (1, 1), (2, 0), (4, 0), (4, 80311207), (2, 400)])
    let s := taken .lu o { yard with bays := [(0, arrivedBay)] }
    let y := s.bay 0
    let c : Coil := { id := 80311207, declared := 2150, width := 1200, diameter := 1800, group := 2, place := .station 0 }
    TakenUp s .lu 0x52 o [] ∧ y.state = .arrived ∧ y.plan = [] ∧ fieldNat o.body 1 1 = 1 ∧ 1 ≤ fieldNat o.body 8 4 ∧
      fieldNat o.body 12 2 = 400 ∧ 400 ≤ y.spacing ∧ s.recordOf (fieldNat o.body 8 4) = some 2 ∧ s.coil? 2 = some c ∧
      s.eligible (s.station 0).x y.centre 0 = true ∧ s.chooseCrane (s.choiceFor 2 c []) none y.centre = some 0 ∧
      y.tareFront + (2150 - (2150 * 400 + 500) / 1000) ≤ y.frontLimit ∧
      y.tareRear + (2150 * 400 + 500) / 1000 ≤ y.rearLimit ∧
      y.tareFront + (2150 - (2150 * 400 + 500) / 1000) + (y.tareRear + (2150 * 400 + 500) / 1000) ≤ y.grossLimit ∧
      (s.crane 0).queue.length < 8 ∧ s.move? 0 = none ∧ s.journalTakes 1 = true ∧ (s.bay 2).state ≠ .arrived ∧
      (s.bay 2).state ≠ .planHold :=
  ⟨taken_takenUp _ _ _ _, by decide +kernel⟩

theorem witness_TrucksLeave :
    let o := order 0x53 (body [(1, 0)])
    let s := taken .lu o { yard with bays := [(0, { arrivedBay with state := .ready })] }
    TakenUp s .lu 0x53 o [] ∧ fieldNat o.body 0 1 = 0 ∧ (s.bay 0).state = .ready ∧ s.moves = [] ∧
      s.journalTakes 1 = true ∧ (yard.bay 0).state ≠ .ready ∧ (yard.bay 0).state ≠ .discrepant :=
  ⟨taken_takenUp _ _ _ _, by decide +kernel⟩

theorem witness_TrucksLeaveCancelled :
    let o := order 0x54 (body [(1, 0)])
    let s := taken .lu o { yard with bays := [(0, arrivedBay)] }
    TakenUp s .lu 0x54 o [] ∧ fieldNat o.body 0 1 = 0 ∧ (s.bay 0).state = .arrived ∧ s.journalTakes 1 = true ∧
      (yard.bay 0).state ≠ .arrived ∧ (yard.bay 0).state ≠ .planHold :=
  ⟨taken_takenUp _ _ _ _, by decide +kernel⟩

/-- A mode order in cell 0 that XP holds. -/
def modeYard (kind : Nat) (s : State) : State :=
  { s with mem := [(0x1000, 2), (0x1008, 1)], modeOrder := some (order kind []) }

theorem modeYard_due (kind : Nat) (s : State) (h : s.allTakenUp = true) :
    ModeOrderDue (modeYard kind s) kind (order kind []) where
  held := rfl
  kind := rfl
  owners := h
  cell := Nat.zero_lt_succ _
  current :=
    (cellIsOf_of_mem (t := { mem := [(0x1000, 2), (0x1008, 1)] }) rfl 0 1).trans (by decide +kernel)

theorem witness_StartIsCheckedFirst :
    ModeOrderDue (modeYard 0x60 { setupYard with cranes := [] }) 0x60 (order 0x60 []) ∧
      (modeYard 0x60 { setupYard with cranes := [] }).startRefusal = some { code := .layout, area := [2, 0, 1] } ∧
      setupYard.tablesLaw = true ∧ ({ setupYard with runway := {} } : State).runway.configured = false :=
  ⟨modeYard_due _ _ rfl, by decide +kernel⟩

/-- The first failure of each of the checks 2 to 7: a hook channel, both kinds of check 3, two columns at one x, a column at an end
of bay 0's extent [11700, 13100], a link in DOUBT, and both kinds of check 7 (5699 is 1 cm less than 4050 + 1600 + 50). -/
theorem witness_StartNamesTheFirstFailure :
    let two := fun k : Crane => ({ setupYard with cranes := [(0, standing 4000), (1, k)] } : State)
    let columns := fun (l : Tab Column) => ({ setupYard with columns := l } : State)
    let at_ := fun x : Nat => ({ configured := true, x := x } : Column)
    ({ setupYard with channels := [(0, hookChannel)] } : State).startRefusal = some { code := .layout, area := [2, 1, 2] } ∧
      (two { standing 9000 with svcHi := 20001 }).startRefusal = some { code := .layout, area := [3, 1, 0] } ∧
      (two { standing 9000 with svcHi := 19999 }).startRefusal = some { code := .layout, area := [3, 1, 0] } ∧
      (columns [(5, at_ 4200), (6, { x := 1 }), (7, at_ 4200)]).startRefusal = some { code := .layout, area := [4, 7, 0] } ∧
      (columns [(5, at_ 4200), (7, at_ 13100)]).startRefusal = some { code := .layout, area := [5, 7, 0] } ∧
      (two { standing 9000 with link := .doubt }).startRefusal = some { code := .layout, area := [6, 1, 0] } ∧
      (two { standing 20001 with svcHi := 20000 }).startRefusal = some { code := .layout, area := [7, 1, 0] } ∧
      (two (standing 5699)).startRefusal = some { code := .layout, area := [7, 0, 0] } ∧
      (two (standing 5700)).startRefusal = none := by decide +kernel

theorem witness_StartEntersRun :
    let s := modeYard 0x60 setupYard
    ModeOrderDue s 0x60 (order 0x60 []) ∧ s.mode = .setup ∧ s.startRefusal = none ∧ s.closedBays = [] ∧
      s.journalTakes 1 = true :=
  ⟨modeYard_due _ _ rfl, by decide +kernel⟩

theorem witness_HaltAllStopsEveryCrane :
    let s := modeYard 0x61 yard
    ModeOrderDue s 0x61 (order 0x61 []) ∧ s.mode = .run ∧ (∀ c < 4, (s.channel c).zeroSet = none) ∧
      s.journalTakes 5 = true :=
  ⟨modeYard_due _ _ rfl, by decide +kernel⟩

theorem witness_ResumeRemovesHaltAll :
    let s := modeYard 0x62
      { yard with
        mode := .halted
        cranes := [(0, { standing 4000 with
            state := .stopped, resume := .busy, causes := { haltAll := true }, givenUp := .stop
            step := some { seq := 0, kind := .lower 100 } }),
          (1, { standing 9000 with
            state := .stopped, resume := .busy, causes := { haltAll := true, lockLost := true }
            waiting := some .grip })] }
    ModeOrderDue s 0x62 (order 0x62 []) ∧ s.runwayQuiet ∧ s.mode = .halted ∧ s.bedHeld 0 = false ∧
      s.journalTakes 5 = true ∧ (s.crane 0).numberAfter (s.crane 0).doneSeq = 2 ∧
      next (exec .resume s) (fun t => t.sent == [(0, .lower 2 100)] && (t.crane 1).state == .stopped) = true :=
  ⟨modeYard_due _ _ rfl, quiet_of_default rfl rfl (by decide +kernel), by decide +kernel⟩

/-- Slot 5 was touched, and every table lists its numbers once and in range. -/
theorem witness_PublicationWritesWhatChanged :
    let new : State := { yard with touched := { groups := [3, 84], slots := [5], coils := [2047] } }
    new.mode ≠ .resetting ∧ (∀ l ∈ [setupYard.slots.keys, new.slots.keys, new.touched.slots], l.Nodup ∧ ∀ i ∈ l, i < 1536) ∧
      (∀ l ∈ [setupYard.coils.keys, new.coils.keys, new.touched.coils], l.Nodup ∧ ∀ r ∈ l, r < 2048) ∧
      (∀ l ∈ [setupYard.columns.keys, new.columns.keys], l.Nodup ∧ ∀ c ∈ l, c < 64) ∧ 5 ∈ new.columns.keys := by
  decide +kernel

/-- A STORE_COIL writes the entries of its slot and coil, the group of its crane, and that of its column. -/
theorem witness_PublicationOfAStoreOrder :
    let s := taken .su (order 0x1A (body [(4, 80311207), (2, 135), (1, 0xFF)])) yard
    s.tablesLaw = true ∧ (∀ k ∈ s.columns.keys, k < 64) ∧
      next (exec .storeCoil s) (fun t => t.mode == .run && slotImageBody s 135 != slotImageBody t 135
        && coilImageBody s 2 != coilImageBody t 2 && (t.crane 0).queue != (s.crane 0).queue
        && groupBody s 25 != groupBody t 25 && t.columns.keys == [5]
        && t.readBytes (0xD000 + 8 * 135) 8 == 1 :: slotImageBody t 135 ++ [1]) = true := by decide +kernel

theorem witness_ImagesAndGroupsShowTheirFields :
    (yard.coil? 2).isSome = true ∧ (yard.crane 0).state ≠ .absent ∧ (yard.crane 3).state = .absent ∧
      yard.tablesLaw = true := by decide +kernel

/-- An arrival that ends in the handling that opened it writes its bay's group all the same (R140, R195). -/
theorem test_arrival_without_weight_writes_the_bay_group :
    next (exec .truckArrive (taken .lu (order 0x51 (body [(1, 0), (1, 0), (2, 0), (4, 555), (2, 1400), (2, 6000), (2, 6000),
        (2, 12000)])) { yard with channels := [] }))
      (fun t => t.readByte 0xC0 == 1 && t.readByte 0xC1 == 1 && t.readByte 0xDF == 1 && (t.bay 0).state == .empty) =
        true := by decide +kernel

/-- Zero tracking has ended when the session looks at the channels, even of an arrival that ends at once (R139). -/
theorem test_arrival_discards_a_partial_batch_set :
    next (exec .truckArrive (taken .lu (order 0x51 (body [(1, 0), (1, 0), (2, 0), (4, 555), (2, 1400), (2, 6000), (2, 6000),
        (2, 12000)])) { yard with channels := [(5, { hookChannel with batchSet := some { sum := 7, inBatch := 1 } })] }))
      (fun t => (t.bay 0).state == .empty && (t.channel 5).batchSet == none) = true := by decide +kernel

/-- A replacement that names a blocked entry's coil again, its move finding the queue full, leaves the coil's record and its
image as they are (R153, R22). -/
theorem test_coil_named_again_keeps_its_image :
    next (exec .loadPlan (taken .lu (order 0x52 (body [(1, 0), (1, 1), (2, 0), (4, 0), (4, 80311207), (2, 500)]))
        { yard with
          cranes := [(0, { standing 4000 with queue := [1, 2, 3, 4, 5, 6, 7, 8] })], straps := 0
          coils := coils.map fun p => (p.1, { p.2 with outbound := p.1 == 2 })
          bays := [(0,
            { state := .planHold, centre := 12400, frontLine := 800, spacing := 1000, frontLimit := 3000, rearLimit := 3000
              grossLimit := 6000, remaining := 1
              plan := [(0, { coil := 2, position := 400, state := .blocked, started := true })] })] }))
      (fun t => (t.bay 0).state == .loading && (t.coil? 2).any Coil.outbound && t.readByte 0x10040 == 0) = true := by
  decide +kernel

/-- The trailing edge moves on a leg whose GOTO HALT_ALL gave up: the new span goes out in a LIMIT all the same (R44, R57, R68). -/
theorem test_shrink_sends_a_limit_to_a_stopped_crane :
    next (exec (.status 0
        { doneSeq := 1, xEncoder := 6400, xLaser := 6400, y := 500, hook := 900, tong := 0, speed := 20, load := 0
          faultCode := 0 })
      { yard with
        mode := .halted
        cranes :=
          [(0, { standing 6000 with
              state := .stopped, resume := .busy, causes := { haltAll := true }, givenUp := .stop
              step := some { seq := 3, kind := .goto 8000 500 }, grant := { lo := 5950, hi := 8050 }
              leg := some { kind := .move, targetX := 8000, targetY := 500, seq := 1, direction := .east } }),
            (1, standing 14000)] })
      (fun t => t.sent == [(0, .limit 3 6350 8050)]) = true := by decide +kernel

/-- Crane 1 yields to 9700 for the leg of crane 0 to 8000, which needs its grant to begin at 9650; its GOTO is complete. -/
def yieldYard : State :=
  { yard with
    cranes :=
      [(0, { standing 4000 with state := .busy, queue := [0] }),
        (1, { standing 9600 with
          state := .yielding, grant := { lo := 9550, hi := 9750 }, lastSeq := 2
          step := some { seq := 2, kind := .goto 9700 500 }
          leg := some { kind := .yield, targetX := 9700, targetY := 500, seq := 1, direction := .east }
          yield := some { granted := true, cycle := false, serves := 0, back := .idle } })]
    requests := [{ crane := 0, kind := .move, targetX := 8000, targetY := 500, seq := 1 }] }

/-- The last report of the yield of `yieldYard`, at a speed. -/
def yieldReport (speed : BitVec 16) : StatusReport :=
  { doneSeq := 2, xEncoder := 9700, xLaser := 9700, y := 500, hook := 900, tong := 0, speed := speed, load := 0
    faultCode := 0 }

/-- The yield ends with the crane standing: the narrowing's scan grants the leg (R71, the worked case of section 4.5). -/
theorem test_yield_that_ends_standing_is_narrowed_first :
    next (exec (.status 1 (yieldReport 0)) yieldYard) (fun t =>
      (t.crane 1).state == .idle && (t.crane 1).grant == { lo := 9650, hi := 9750 } && t.requests == []
        && (t.crane 0).grant == { lo := 3950, hi := 8050 }) = true := by decide +kernel

/-- The yield ends with the crane not yet standing: it is IDLE with an empty queue, RU looks at its list, and the leg it still
blocks gives it a yield again (R70). -/
theorem test_yield_that_ends_moving_is_looked_at :
    next (exec (.status 1 (yieldReport 5)) yieldYard) (fun t =>
      (t.crane 1).state == .yielding && t.sent == [(1, .goto 3 9700 500 9550 9750)]) = true := by decide +kernel

/-- A request of a crane whose grant is held widened joins the list, and RU looks at its list (R66, R70). -/
theorem test_held_request_joins_and_is_looked_at :
    let s := { yard with cranes := [(0, { standing 4000 with heldWide := true }), (1, standing 9000)] }
    let r : Request := { crane := 0, kind := .move, targetX := 4000, targetY := 500, seq := 1 }
    (s.grantOrJoin r).1.requests = [r] ∧ (s.grantOrJoin r).2 = true := by decide +kernel

/-- The extent of bay 0 is [11700, 13100]: a loaded crane that ends its leg 20 cm west of it is narrowed to its edge (R69, R79). -/
theorem test_narrowing_keeps_off_a_closed_extent :
    next (exec (.status 0
        { doneSeq := 1, xEncoder := 11680, xLaser := 11680, y := 500, hook := 900, tong := 2, speed := 0, load := 0
          faultCode := 0 })
      { yard with
        cranes :=
          [(0, { standing 11680 with
              state := .busy, tong := .closedLoaded, wholeTong := .closedLoaded, narrowDue := true
              grant := { lo := 11000, hi := 11700 } }),
            (1, standing 15000)]
        bays := [(0, { state := .loading, bxLo := 12000, bxHi := 12800, occupied := true })] })
      (fun t => (t.crane 0).grant == { lo := 11630, hi := 11700 } && (t.bay 0).breach == []) = true := by decide +kernel

/-- A report that leaves the link LOST is not handed to RU: the area closes on a crane whose tong RU was last told is loaded,
whatever such a report said since, and lists it, its grant being held widened (R45, R79). -/
theorem test_closing_tests_the_tong_last_handed_to_ru :
    next (exec (.areaChange 0 true)
      { yard with
        cranes :=
          [(0, { standing 12000 with
              link := .lost, state := .fault, reason := .link, heldWide := true, tong := .open_
              wholeTong := .closedLoaded }),
            (1, standing 15000)] })
      (fun t => (t.bay 0).breach == [0] && t.readByte 0x9004 == 6) = true := by decide +kernel

/-- A telegram received in halves is judged when its check character arrives, and a reset drops the first half (R42, R171). -/
theorem test_half_a_telegram_is_kept_and_dropped_by_a_reset :
    let halves := (frame 0 0x42 (tagBody { seq := 3, present := 1, id := 0x04C97C07 })).splitAt 5
    let feed := fun (s : State) (l : List Byte) => l.foldl (fun s b => s.craneCharacter 0 { data := b }) s
    let s := feed yard halves.1
    s.pending = [] ∧ (feed s halves.2).pending = [.tag 0 { seq := 3, present := 1, id := 0x04C97C07 }] ∧
      next (exec (.partReset 0 1) s) (fun t => (feed t halves.2).pending == []) = true := by decide +kernel

/-- A step from a yard in service, which meets every law. -/
theorem witness_StepsKeepTheLaws :
    yard.memoryLaw = true ∧ yard.tablesLaw = true ∧ yard.postLaw = true ∧ yard.holdingLaw = true ∧
      yard.waitingLaw = true ∧ yard.grantLaw = true ∧ ∃ t, step { yard with pending := [.moveBegin 0] } = .next t := by
  refine ⟨?_, ?_, ?_, ?_, ?_, ?_, _, rfl⟩ <;> decide +kernel

theorem witness_ModesChangeOnlyByTheTable :
    (modeYard 0x60 setupYard).waitingLaw = true ∧
      next (exec .start (modeYard 0x60 setupYard)) (fun t => t.mode == .run) = true := by decide +kernel

theorem witness_TelegramsAreReadBack :
    ∃ r : TagReport, tagBody r = [3, 1, 7, 0x7C, 0xC9, 4] ∧ (0 : Byte) ≠ -(sum8 (frameCore 0 0x42 (tagBody r))) :=
  ⟨{ seq := 3, present := 1, id := 0x04C97C07 }, by decide, by decide⟩

end Sys2Proof.Tests
end

section
/-! PROOF. An order that is answered and does nothing else: the answer's bytes and the ANSWER flag are all its handling
changes, and its publication writes nothing. -/

namespace Sys2Proof.Machine

/-! ## What an answer writes -/

theorem State.writeBytes_eq_mem (bs : List Byte) : ∀ (s : State) (a : Nat),
    s.writeBytes a bs = { s with mem := (s.writeBytes a bs).mem } := by
  induction bs with
  | nil => exact fun _ _ => rfl
  | cons b rest ih => exact fun s a => ih (s.writeByte a b) (a + 1)

/-- An answer written with its notice changes exchange memory and the flags alone (R187). -/
theorem State.writeAnswer_raise_eq (s : State) (n : Nat) (a : Answer) :
    (s.writeAnswer n a).raise .answer =
      { s with mem := (s.writeAnswer n a).mem, flags := s.flags ||| Notice.answer.mask } := by
  rw [State.writeAnswer, State.writeBytes_eq_mem]
  rfl

/-! ## Publication after no change of a record (R195) -/

/-- The state without what no image entry and no directory group shows: exchange memory, the flags, the orders that
wait and the telegrams sent. -/
def State.shown (s : State) : State :=
  { s.records with
    sent := [], inboundSU := [], inboundRU := [], inboundCU := [], inboundWU := [], inboundLU := [], modeOrder := none }

theorem groupChanged_shown (old new : State) (g : Nat) : groupChanged old.shown new.shown g = groupChanged old new g := rfl

theorem slotImageBody_shown (s : State) (i : Nat) : slotImageBody s.shown i = slotImageBody s i := rfl

theorem coilImageBody_shown (s : State) (r : Nat) : coilImageBody s.shown r = coilImageBody s r := rfl

theorem groupChanged_self (s : State) (g : Nat) : groupChanged s s g = false := by
  simp [groupChanged]

/-- A handling that changed and noted nothing that is shown publishes nothing. -/
theorem publish_of_shown_eq {old new : State} (h : new.shown = old.shown) (ht : new.touched = {}) :
    publish old new = new := by
  have hslots : slotsWritten old new = [] :=
    List.filter_eq_nil_iff.mpr fun i _ => by
      rw [ht, ← slotImageBody_shown old, ← slotImageBody_shown new, h]; simp
  have hcoils : coilsWritten old new = [] :=
    List.filter_eq_nil_iff.mpr fun r _ => by
      rw [ht, ← coilImageBody_shown old, ← coilImageBody_shown new, h]; simp
  have hgroups : groupsWritten old new = [] :=
    List.filter_eq_nil_iff.mpr fun g _ => by
      rw [ht, ← groupChanged_shown, h, groupChanged_self]; simp
  have hself : { new with touched := {} } = new := by rw [← ht]
  simp only [publish, hslots, hcoils, hgroups, List.foldl_nil, hself, ite_self]

/-! ## The order as a whole -/

theorem State.shown_setInbound (s : State) (w : Owner) (l : List Order) : (s.setInbound w l).shown = s.shown := by
  cases w <;> rfl

/-- The handling of an order that its owner takes up and only answers leaves its cell answered and nothing else changed. -/
theorem handle_takeOrder_reply {s : State} {w : Owner} {k : Nat} {o : Order} {rest : List Order} {a : Answer}
    {f : State → Order → State} (h : TakenUp s w k o rest)
    (hf : f (s.begin.setInbound w rest) o = (s.begin.setInbound w rest).reply o a) :
    handle (takeOrder w k f) s = .next (answeredAlone s w rest o a) := by
  have hlist : s.begin.inbound w = s.inbound w := by cases w <;> rfl
  have hcell : (s.begin.setInbound w rest).cellIsOf o.cell o.take = s.cellIsOf o.cell o.take := by cases w <;> rfl
  have htaken : { s.setInbound w rest with sent := [], touched := {} } = s.begin.setInbound w rest := by cases w <;> rfl
  have hstate : takeOrder w k f s.begin = answeredAlone s w rest o a := by
    rw [← h.kind, takeOrder_head (hlist.trans h.head), hf, State.reply, State.answer_written (hcell.trans h.current),
      answeredAlone, htaken]
  have hshown : (answeredAlone s w rest o a).shown = s.begin.shown := by
    rw [answeredAlone, htaken, State.writeAnswer_raise_eq, ← State.shown_setInbound s.begin w rest]; rfl
  have htouched : (answeredAlone s w rest o a).touched = {} := by
    rw [answeredAlone, State.writeAnswer_raise_eq]
  rw [handle_next, hstate, publish_of_shown_eq hshown htouched]

end Sys2Proof.Machine
end

section
/-! PROOF. The cradle rules R10 and R11, and the move orders whose choice of a slot and a crane fails (R28, R29, R41). -/

namespace Sys2Proof.Machine

variable {s : State} {c : Coil}

/-! ## The cradle rules -/

theorem absDiff_le_iff (a b n : Nat) : absDiff a b ≤ n ↔ a ≤ b + n ∧ b ≤ a + n := by
  unfold absDiff; omega

theorem State.heldCoil_eq_some_iff {i : Nat} :
    s.heldCoil i = some c ↔ (s.slot i).state = .held ∧ (s.slot i).coil.bind s.coil? = some c := by
  unfold State.heldCoil; split <;> simp [*]

theorem State.slotFits_of_lower {weight i : Nat} (h : i % 24 < 12) :
    s.slotFits c weight i = s.lowerFits c weight i := if_pos (decide_eq_true h)

theorem State.slotFits_of_upper {weight i : Nat} (hlo : 12 ≤ i % 24) (hhi : i % 24 < 23) :
    s.slotFits c weight i = s.upperFits c weight i := by
  have hlower : isLower i = false := decide_eq_false (Nat.not_lt.mpr hlo)
  have hupper : isUpper i = true := decide_eq_true ⟨hlo, hhi⟩
  simp [State.slotFits, hlower, hupper]

/-- R10, condition by condition. -/
theorem State.lowerFits_iff {weight i : Nat} :
    s.lowerFits c weight i = true ↔
      (s.slot i).state = .free ∧ (s.column (slotColumn i)).out = false ∧ c.width ≤ (s.column (slotColumn i)).maxWidth ∧
        c.diameter ≤ (s.column (slotColumn i)).maxDiameter ∧ weight ≤ (s.column (slotColumn i)).lowerLimit := by
  simp [State.lowerFits, and_assoc]

/-- R11, condition by condition. -/
theorem State.upperFits_iff {weight i : Nat} :
    s.upperFits c weight i = true ↔
      (s.slot i).state = .free ∧ (s.column (slotColumn i)).out = false ∧
        weight ≤ (s.column (slotColumn i)).upperLimit ∧
        ∃ l r, s.heldCoil (leftSupport i) = some l ∧ s.heldCoil (rightSupport i) = some r ∧
          absDiff l.diameter r.diameter ≤ s.policy.cradleTolerance ∧ c.width ≤ min l.width r.width ∧
          l.outbound = false ∧ r.outbound = false := by
  unfold State.upperFits
  cases s.heldCoil (leftSupport i) <;> cases s.heldCoil (rightSupport i) <;> simp [and_assoc]

/-! ## Slots that fail the rules -/

/-- A slot that fails the rules is no candidate (R10, R29). -/
theorem State.candidate_of_unfit {r k i : Nat} {ex : List Nat} (h : s.slotFits c c.weightUsed i = false) :
    s.candidate (s.choiceFor r c ex) k i = false := by
  simp [State.candidate, State.choiceFor, h]

/-- A slot that fails the rules is no choice where software names it (R28). -/
theorem State.choose_of_unfit {r i : Nat} {named : Option Nat} (h : s.slotFits c c.weightUsed i = false) :
    s.choose r c (some i) named = .error .slotUnfit := by
  simp [State.choose, State.chooseNamed, State.choiceFor, h]

/-! ## Choices that fail -/

theorem State.searchCranes_ne_slotUnfit (ch : Choice) (l : List Nat) : s.searchCranes ch l ≠ .error .slotUnfit := by
  induction l with
  | nil => simp [State.searchCranes]
  | cons k rest ih => unfold State.searchCranes; split <;> simp [ih]

/-- A choice with an AUTO target never ends in SLOT_UNFIT (R29). -/
theorem State.choose_auto_ne_slotUnfit {r : Nat} {named : Option Nat} :
    s.choose r c none named ≠ .error .slotUnfit := by
  simp only [State.choose, State.chooseAuto]
  split
  · simp
  · exact State.searchCranes_ne_slotUnfit _ _

/-- The ranking rests on the cranes' queues alone (R27). -/
theorem State.ranked_congr {t : State} (h : t.load = s.load) : t.ranked = s.ranked := by
  have hrank : t.rankIn = s.rankIn := by
    funext k l
    induction l with
    | nil => rfl
    | cons d rest ih => simp only [State.rankIn, h, ih]
  funext l
  rw [State.ranked, State.ranked, hrank]

/-- The search rests on each crane's best slot alone (R29). -/
theorem State.searchCranes_congr {t : State} (h : t.bestSlot = s.bestSlot) : t.searchCranes = s.searchCranes := by
  funext ch l
  induction l with
  | nil => rfl
  | cons k rest ih => simp only [State.searchCranes, h, ih]

/-- The choice rests on nothing that beginning a command and taking an order up change. -/
theorem State.choose_taken (r : Nat) (target named : Option Nat) (l : List Order) :
    (s.begin.setInbound .su l).choose r c target named = s.choose r c target named := by
  have hranked : (s.begin.setInbound .su l).ranked = s.ranked := State.ranked_congr rfl
  have hsearch : (s.begin.setInbound .su l).searchCranes = s.searchCranes := State.searchCranes_congr rfl
  cases target with
  | none =>
    simp only [State.choose, State.chooseAuto, hranked, hsearch]
    rfl
  | some i =>
    simp only [State.choose, State.chooseNamed, State.chooseCrane, hranked]
    rfl

/-! ## Move orders whose choice fails (R86) -/

/-- What RELOCATE_COIL asks of a place rests on nothing that taking the order up changes. -/
theorem State.relocatable_taken (p : Place) (l : List Order) :
    (s.begin.setInbound .su l).relocatable p = s.relocatable p := by
  cases p <;> rfl

/-- Fields in range pass the checks of a move order (R86, step 1). -/
theorem Body.moveOrderBad_eq_none {b : Body} (hid : 1 ≤ fieldNat b 0 4)
    (hslot : fieldNat b 4 2 ≤ 1535 ∨ fieldNat b 4 2 = 0xFFFF) (hcrane : fieldNat b 6 1 ≤ 3 ∨ fieldNat b 6 1 = 0xFF) :
    b.moveOrderBad = none := by
  have htarget : b.target.all (fun i => decide (i < 1536)) = true := by
    by_cases h : fieldNat b 4 2 = 0xFFFF
    · simp [Body.target, h]
    · simp only [Body.target, h, if_false, Option.all_some, decide_eq_true_eq]; omega
  have hnamed : b.craneNamed.all (fun k => decide (k < 4)) = true := by
    by_cases h : fieldNat b 6 1 = 0xFF
    · simp [Body.craneNamed, h]
    · simp only [Body.craneNamed, h, if_false, Option.all_some, decide_eq_true_eq]; omega
  simp [Body.moveOrderBad, firstBad, Body.coilId, hid, htarget, hnamed]

/-- A move order whose coil may be moved goes on to its choice (R86, steps 2 to 5). -/
theorem State.moveOrder_of_movable {suits : State → Place → Bool} {o : Order} {r : Nat}
    (hr : s.recordOf (fieldNat o.body 0 4) = some r) (hc : s.coil? r = some c) (hmove : c.move = none)
    (hsuits : suits s c.place = true) (hout : c.outbound = false ∨ c.place.isBed = true) :
    s.moveOrder suits o = s.orderMove o r c := by
  simp only [State.moveOrder, State.withCoil, Body.coilId, hr, hc, hmove, hsuits]
  rcases hout with h | h <;> simp [h]

/-- A failed choice is answered (R86, step 6). -/
theorem State.orderMove_of_error {o : Order} {r : Nat} {e : ChoiceFail}
    (h : s.choose r c (Body.target o.body) (Body.craneNamed o.body) = .error e) :
    s.orderMove o r c = s.reply o (e.answer (Body.target o.body) (Body.craneNamed o.body)) := by
  simp only [State.orderMove, h]

/-- NO_CRANE carries the order's crane field, 0xFF for AUTO (R29, R41). -/
theorem ChoiceFail.answer_noCrane (b : Body) :
    ChoiceFail.noCrane.answer b.target b.craneNamed = { code := .noCrane, area := [byte (fieldNat b 6 1)] } := by
  by_cases hcrane : fieldNat b 6 1 = 0xFF <;>
    simp [ChoiceFail.answer, Answer.numbered, Body.craneNamed, hcrane, absent8]

/-- SLOT_UNFIT carries the slot software named (R28): an AUTO choice does not end in it. -/
theorem ChoiceFail.answer_slotUnfit {b : Body} {r : Nat}
    (h : s.choose r c b.target b.craneNamed = .error .slotUnfit) :
    ChoiceFail.slotUnfit.answer b.target b.craneNamed = { code := .slotUnfit, area := leBytes 2 (fieldNat b 4 2) } := by
  by_cases hslot : fieldNat b 4 2 = 0xFFFF
  · rw [Body.target, if_pos hslot] at h
    exact absurd h State.choose_auto_ne_slotUnfit
  · simp [ChoiceFail.answer, Answer.slotUnfit, Body.target, hslot]

/-- A move order whose coil may be moved and whose choice fails is answered, and nothing but its cell changes. -/
theorem handle_moveOrder_of_failed_choice {suits : State → Place → Bool} {k r : Nat} {o : Order} {rest : List Order}
    {e : ChoiceFail} (h : TakenUp s .su k o rest) (hgood : Body.moveOrderBad o.body = none)
    (hr : s.recordOf (fieldNat o.body 0 4) = some r) (hc : s.coil? r = some c) (hmove : c.move = none)
    (hsuits : suits (s.begin.setInbound .su rest) c.place = true) (hout : c.outbound = false ∨ c.place.isBed = true)
    (hchoice : s.choose r c (Body.target o.body) (Body.craneNamed o.body) = .error e) :
    handle (takeOrder .su k fun s o => s.checked o (Body.moveOrderBad o.body) (State.moveOrder suits)) s =
      .next (answeredAlone s .su rest o (e.answer (Body.target o.body) (Body.craneNamed o.body))) := by
  have hchosen := (State.choose_taken r _ _ rest).trans hchoice
  refine handle_takeOrder_reply h ?_
  calc (s.begin.setInbound .su rest).checked o (Body.moveOrderBad o.body) (State.moveOrder suits)
      = (s.begin.setInbound .su rest).moveOrder suits o := by rw [hgood, State.checked_good]
    _ = (s.begin.setInbound .su rest).orderMove o r c := State.moveOrder_of_movable hr hc hmove hsuits hout
    _ = _ := State.orderMove_of_error hchosen

/-- Settles O23: R10 and R11 condition by condition, the slots that fail them, and the move orders whose choice fails. -/
theorem cradleRulesDecideTargets : Obligations.CradleRulesDecideTargets := by
  refine ⟨fun s c i hi => ?_, fun s c i hlo hhi => ?_, fun s r c ex k i h => State.candidate_of_unfit h,
    fun s r c i named h => ⟨State.choose_of_unfit h, rfl⟩, ?_⟩
  · rw [State.slotFits_of_lower hi]
    exact State.lowerFits_iff
  · rw [State.slotFits_of_upper hlo hhi, State.upperFits_iff]
    simp only [State.heldCoil_eq_some_iff, absDiff_le_iff, le_min_iff]
    constructor
    · rintro ⟨hfree, hin, hweight, l, r, ⟨hl, hcl⟩, ⟨hr, hcr⟩, ⟨hlr, hrl⟩, ⟨hwl, hwr⟩, hol, hor⟩
      exact ⟨hfree, hin, hweight, _, _, l, r, rfl, rfl, hl, hr, hcl, hcr, hlr, hrl, hwl, hwr, hol, hor⟩
    · rintro ⟨hfree, hin, hweight, _, _, l, r, rfl, rfl, hl, hr, hcl, hcr, hlr, hrl, hwl, hwr, hol, hor⟩
      exact ⟨hfree, hin, hweight, l, r, ⟨hl, hcl⟩, ⟨hr, hcr⟩, ⟨hlr, hrl⟩, ⟨hwl, hwr⟩, hol, hor⟩
  · intro store s o rest r c e slot crane h hid hslot hcrane hr hc hmove hsuits hout hchoice
    have hgood := Body.moveOrderBad_eq_none hid hslot hcrane
    have hbed : c.outbound = false ∨ c.place.isBed = true :=
      hout.imp_right fun ⟨b, e, hp⟩ => by rw [hp]; rfl
    have hanswer : exec (if store then .storeCoil else .relocateCoil) s =
        .next (answeredAlone s .su rest o (e.answer (Body.target o.body) (Body.craneNamed o.body))) := by
      cases store with
      | true =>
        obtain ⟨n, hp⟩ := hsuits
        exact handle_moveOrder_of_failed_choice h hgood hr hc hmove (by rw [hp]; rfl) hbed hchoice
      | false =>
        refine handle_moveOrder_of_failed_choice h hgood hr hc hmove ?_ hbed hchoice
        rw [State.relocatable_taken]
        cases hp : c.place with
        | station n => simp [hp] at hsuits
        | slot j => simpa [State.relocatable, hp] using hsuits
        | hook k => rfl
        | bed b e => simpa [State.relocatable, hp] using hsuits
    rw [hanswer]
    cases e with
    | slotUnfit => rw [ChoiceFail.answer_slotUnfit hchoice]
    | noCrane => rw [ChoiceFail.answer_noCrane]
    | noSlot => rfl

end Sys2Proof.Machine
end

section
/-! PROOF. The runway's numbers: the braking distance, what separates a request's span from its neighbours' grants, what a
bay admits, and the request's compatibility (R62, R64, R65). -/

namespace Sys2Proof.Machine

/-! ## The braking distance (R64) -/

/-- Division rounded up gives the least multiple of the divisor that reaches the dividend. -/
theorem divUp_spec (n d : Nat) (hd : 0 < d) : n ≤ d * divUp n d ∧ d * divUp n d < n + d := by
  have hsplit := Nat.div_add_mod (n + d - 1) d
  have hrest := Nat.mod_lt (n + d - 1) hd
  unfold divUp
  omega

/-! ## Neighbours that block a span (R62, R65) -/

variable {s : State}

theorem State.mem_neighbours_iff {k j : Nat} :
    j ∈ s.neighbours k ↔ (0 < k ∧ j = k - 1) ∨ (s.fitted (k + 1) = true ∧ j = k + 1) := by
  simp only [State.neighbours, List.mem_append, List.mem_ite_nil_right, List.mem_singleton]

/-- The span of a crane is east of its western neighbour's. -/
theorem State.separated_west_iff {k : Nat} {r g : Span} (hk : 0 < k) :
    s.separated k r (k - 1) g = true ↔ g.hi + s.clearance (k - 1) k ≤ r.lo := by
  have hswap : s.clearance k (k - 1) = s.clearance (k - 1) k := by unfold State.clearance; omega
  rw [State.separated, if_neg (by omega), hswap, decide_eq_true_iff]

/-- The span of a crane is west of its eastern neighbour's. -/
theorem State.separated_east_iff {k : Nat} {r g : Span} :
    s.separated k r (k + 1) g = true ↔ r.hi + s.clearance k (k + 1) ≤ g.lo := by
  rw [State.separated, if_pos k.lt_succ_self, decide_eq_true_iff]

theorem State.mem_blockers_iff {k j : Nat} {r : Span} :
    j ∈ s.blockers k r ↔
      (0 < k ∧ j = k - 1 ∧ ¬(s.crane (k - 1)).grant.hi + s.clearance (k - 1) k ≤ r.lo) ∨
        (s.fitted (k + 1) = true ∧ j = k + 1 ∧ ¬r.hi + s.clearance k (k + 1) ≤ (s.crane (k + 1)).grant.lo) := by
  rw [State.blockers, List.mem_filter, State.mem_neighbours_iff, Bool.not_eq_true', ← Bool.not_eq_true]
  constructor
  · rintro ⟨⟨hk, rfl⟩ | ⟨hfit, rfl⟩, hsep⟩
    · exact .inl ⟨hk, rfl, mt (State.separated_west_iff hk).mpr hsep⟩
    · exact .inr ⟨hfit, rfl, mt State.separated_east_iff.mpr hsep⟩
  · rintro (⟨hk, rfl, hwest⟩ | ⟨hfit, rfl, heast⟩)
    · exact ⟨.inl ⟨hk, rfl⟩, mt (State.separated_west_iff hk).mp hwest⟩
    · exact ⟨.inr ⟨hfit, rfl⟩, mt State.separated_east_iff.mp heast⟩

/-- Nothing blocks a span that is free on both sides. -/
theorem State.blockers_isEmpty_iff {k : Nat} {r : Span} :
    (s.blockers k r).isEmpty = true ↔
      (0 < k → (s.crane (k - 1)).grant.hi + s.clearance (k - 1) k ≤ r.lo) ∧
        (s.fitted (k + 1) = true → r.hi + s.clearance k (k + 1) ≤ (s.crane (k + 1)).grant.lo) := by
  rw [List.isEmpty_iff, List.eq_nil_iff_forall_not_mem]
  constructor
  · intro h
    exact ⟨fun hk => by_contra fun hwest => h _ (State.mem_blockers_iff.mpr (.inl ⟨hk, rfl, hwest⟩)),
      fun hfit => by_contra fun heast => h _ (State.mem_blockers_iff.mpr (.inr ⟨hfit, rfl, heast⟩))⟩
  · intro ⟨hwest, heast⟩ j hj
    rcases State.mem_blockers_iff.mp hj with ⟨hk, -, hblocked⟩ | ⟨hfit, -, hblocked⟩
    · exact hblocked (hwest hk)
    · exact hblocked (heast hfit)

/-! ## Bays that admit a span (R65, R78) -/

theorem State.closed_eq_true_iff {b : Nat} :
    s.closed b = true ↔ (s.bay b).state ≠ .unconfigured ∧ (s.bay b).occupied = true := by
  rw [State.closed, Bool.and_eq_true, bne_iff_ne]

/-- A closed bay admits a span that overlaps its extent only for a crane on its breach list, and no further in than the
crane's grant. -/
theorem State.bayAdmits_eq_true_iff {k b : Nat} {r : Span} :
    s.bayAdmits k r b = true ↔
      ((s.bay b).state ≠ .unconfigured → (s.bay b).occupied = true →
        (r.meet (s.extent b)).lo < (r.meet (s.extent b)).hi →
          k ∈ (s.bay b).breach ∧ (s.crane k).grant.lo ≤ (r.meet (s.extent b)).lo ∧
            (r.meet (s.extent b)).hi ≤ (s.crane k).grant.hi) := by
  rw [← and_imp, ← State.closed_eq_true_iff]
  rw [State.bayAdmits, Bool.or_eq_true, Bool.or_eq_true, Bool.not_eq_true', Bool.not_eq_true', ← Bool.not_eq_true,
    ← Bool.not_eq_true, or_assoc, ← imp_iff_not_or, ← imp_iff_not_or, Bool.and_eq_true, List.contains_iff_mem,
    Span.overlaps, Span.within, decide_eq_true_iff, decide_eq_true_iff]

/-! ## Compatibility (R65) -/

/-- R65, condition by condition. -/
theorem State.compatible_iff {r : Request} :
    s.compatible r = true ↔
      (s.blockers r.crane (s.requestSpan r.crane r.targetX)).isEmpty = true ∧
        ((s.crane r.crane).wholeTong = .closedLoaded →
          ∀ b < 3, s.bayAdmits r.crane (s.requestSpan r.crane r.targetX) b = true) := by
  have hbays : ∀ p : Nat → Bool, [0, 1, 2].all p = true ↔ ∀ b < 3, p b = true := fun p => by
    rw [show [0, 1, 2] = List.range 3 from rfl, List.all_eq_true]
    simp only [List.mem_range]
  rw [State.compatible, Bool.and_eq_true, Bool.or_eq_true, Bool.not_eq_true', hbays, ← Bool.not_eq_true,
    ← imp_iff_not_or, Crane.loaded, beq_iff_eq]

/-- Settles O36: the braking distance and the stopping extent, the span of a request, its compatibility and its blockers. -/
theorem brakingAndRequestSpans : Obligations.BrakingAndRequestSpans := by
  refine ⟨fun s k hdecel => ?_, fun s r _ => ⟨rfl, rfl, fun _ => ?_, fun j => State.mem_blockers_iff⟩⟩
  · obtain ⟨hreach, hleast⟩ := divUp_spec _ (2 * s.runway.decel) (Nat.mul_pos Nat.two_pos hdecel)
    refine ⟨hreach, hleast, fun heast => if_pos heast, fun hwest => ?_, fun hstill => ?_⟩
    · rw [State.stopping, if_neg hwest.not_gt, if_pos hwest]
    · rw [State.stopping, if_neg hstill.not_gt, if_neg hstill.not_lt]
  · rw [State.compatible_iff, State.blockers_isEmpty_iff, and_assoc]
    simp only [State.bayAdmits_eq_true_iff]
    rfl

end Sys2Proof.Machine
end

section
/-! PROOF. WU's arithmetic: rounding half away from zero, the primary weight, its correction between and beyond the nine
points, and the report of an average (R117, R118, R121). -/

namespace Sys2Proof.Machine

/-! ## Rounding half away from zero (spec 00) -/

/-- A Euclidean quotient brackets its dividend between two neighbouring multiples of the divisor. -/
theorem mul_ediv_bracket (m : Int) {d : Int} (hd : 0 < d) : d * (m / d) ≤ m ∧ m < d * (m / d + 1) := by
  have hlow := Int.mul_ediv_self_le (x := m) (k := d) hd.ne'
  have hhigh := Int.lt_mul_ediv_self_add (x := m) hd
  exact ⟨hlow, by rwa [mul_add, mul_one]⟩

/-- The model's division meets the rounding rule: the quotient of 2n + d by 2d above zero, and its mirror image below. -/
theorem divHalfAway_spec (n : Int) {d : Nat} (hd : 0 < d) : RoundedHalfAway n d (divHalfAway n d) := by
  have hd2 : (0 : Int) < 2 * d := by omega
  constructor
  · intro hn
    rw [divHalfAway, if_pos hn]
    exact mul_ediv_bracket _ hd2
  · intro hn
    rw [divHalfAway, if_neg hn.not_ge, neg_neg]
    exact mul_ediv_bracket _ hd2

/-! ## The correction (R118) -/

namespace Channel

variable {k : Channel} {w : Int}

theorem correction_of_nonpos (hw : w ≤ 0) : k.correction w = k.point 0 := if_pos hw

theorem correction_of_cap_le (hcap : 0 < k.cap) (hw : (k.cap : Int) ≤ w) : k.correction w = k.point 8 := by
  rw [correction, if_neg (by omega), if_pos hw]

/-- Between the points: the lower neighbour's value and the rounded share of the difference to the upper one. -/
theorem correction_of_between {i : Nat} (hi : i = w.toNat / (k.cap / 8)) (hpos : 0 < w) (hcap : w < k.cap) :
    k.correction w =
      k.point i + divHalfAway ((k.point (i + 1) - k.point i) * (w - i * (k.cap / 8 : Nat))) (k.cap / 8) := by
  rw [correction, if_neg hpos.not_ge, if_neg hcap.not_ge, ← hi, ← Nat.cast_mul]

/-- A weight below the cap lies in one of the eight intervals. -/
theorem interval_le_seven (hdiv : k.cap % 8 = 0) (hpos : 0 < w) (hcap : w < k.cap) : w.toNat / (k.cap / 8) ≤ 7 := by
  have hbelow : w.toNat < 8 * (k.cap / 8) := by omega
  exact Nat.le_of_lt_succ (Nat.div_lt_of_lt_mul (by rwa [mul_comm]))

end Channel

/-! ## The report (R121) -/

section
variable {cap : Nat} {wf : Int}

theorem reportOf_of_cap_lt (hover : (cap : Int) < wf) : reportOf cap wf = .over := if_pos hover

theorem reportOf_of_no_load (hin : wf ≤ cap) (hlow : wf < -100) : reportOf cap wf = .noLoad := by
  rw [reportOf, if_neg hin.not_gt, if_pos hlow]

theorem reportOf_of_slightly_negative (hin : wf ≤ cap) (hlow : -100 ≤ wf) (hneg : wf < 0) :
    reportOf cap wf = .weight 0 := by
  rw [reportOf, if_neg hin.not_gt, if_neg hlow.not_gt, if_pos hneg]

/-- Tens of kilograms, rounded half up, and no more than the cap. -/
theorem reportOf_of_nonneg (hin : wf ≤ cap) (hpos : 0 ≤ wf) :
    reportOf cap wf = .weight (min ((wf.toNat + 5) / 10) (cap / 10)) := by
  rw [reportOf, if_neg hin.not_gt, if_neg (by omega), if_neg hpos.not_gt]

end

/-- Settles O37: the rounded primary weight, the correction below, between and beyond the points, and the report's cases. -/
theorem weightsAreCorrectedAndReported : Obligations.WeightsAreCorrectedAndReported := by
  refine ⟨fun k count hspan => divHalfAway_spec _ hspan, fun k hzero hwref hspan => ?_, fun k w hcap hdiv => ?_,
    fun _ _ => rfl, fun cap wf => ⟨reportOf_of_cap_lt, reportOf_of_no_load, reportOf_of_slightly_negative,
      fun hin hpos => ⟨_, reportOf_of_nonneg hin hpos, rfl⟩⟩⟩
  · simp only [Channel.primary, hzero, hwref, hspan]
    decide
  · have hstep : 0 < k.cap / 8 := by omega
    exact ⟨Channel.correction_of_nonpos, Channel.correction_of_cap_le hcap, fun hpos hbelow =>
      ⟨Channel.interval_le_seven hdiv hpos hbelow, _, divHalfAway_spec _ hstep,
        Channel.correction_of_between rfl hpos hbelow⟩⟩

end Sys2Proof.Machine
end

section
/-! PROOF. The register window: what reads return, the notice registers, POST and the directory's intake group (R179 to
R181, R198, R201). -/

namespace Sys2Proof.Machine

/-! ## Publication shows nothing of XP's port alone (R195) -/

/-- The state without what the host port alone changes of the registers, the posting and the journal's counts: no image
shows it, and no directory group but XP's own three, General, Journal and Intake (11.4, 11.5). -/
def State.withoutPort (s : State) : State :=
  { s.shown with
    enables := 0, posts := [], takeCounter := 0, lastSkip := {}, lastRefused := {}, writeCount := 0, holding := [] }

variable {s old new : State} {f : State → State}

theorem State.withoutPort_records (s : State) : s.records.withoutPort = s.withoutPort := rfl

/-- XP's groups come first: the others show nothing of its port. -/
theorem groupBody_withoutPort {g : Nat} (hg : 3 ≤ g) : groupBody s.withoutPort g = groupBody s g := by
  have hgeneral : g ≠ 0 := by omega
  have hjournal : g ≠ 1 := by omega
  have hintake : g ≠ 2 := by omega
  simp only [groupBody, if_neg hgeneral, if_neg hjournal, if_neg hintake]
  rfl

theorem groupChanged_withoutPort {g : Nat} (hg : 3 ≤ g) :
    groupChanged old.withoutPort new g = groupChanged old new g := by
  rw [groupChanged, groupBody_withoutPort hg]
  rfl

/-- XP's three groups are not published at the end of a handling: XP writes them as it goes. -/
theorem three_le_of_mem_recordGroups {g : Nat} (h : g ∈ recordGroups old new) : 3 ≤ g := by
  simp only [recordGroups, List.mem_append, List.mem_map, List.mem_singleton, Group.column, Group.totals] at h
  obtain (⟨k, -, rfl⟩ | ⟨k, -, rfl⟩) | rfl := h <;> omega

/-- Publication asks the state before a handling for nothing of XP's port. -/
theorem publish_withoutPort (old new : State) : publish old.withoutPort new = publish old new := by
  have hgroups : groupsWritten old.withoutPort new = groupsWritten old new :=
    List.filter_congr fun g hg => by rw [groupChanged_withoutPort (three_le_of_mem_recordGroups hg)]
  rw [publish, publish, hgroups]
  rfl

/-- A handling that changed nothing but XP's port, and noted nothing, publishes nothing. -/
theorem handle_of_withoutPort_eq (hport : (f s.begin).withoutPort = s.begin.withoutPort)
    (hnoted : (f s.begin).touched = {}) : handle f s = .next (f s.begin) := by
  rw [handle_next, ← publish_withoutPort, ← hport, publish_withoutPort, publish_of_shown_eq rfl hnoted]

/-! ## One write of a group (R195), and a notice raised -/

theorem State.raise_records (s : State) (n : Notice) : (s.raise n).records = s.records := rfl

theorem State.writeGroup_records (s : State) (g : Nat) : (s.writeGroup g).records = s.records := by
  rw [State.writeGroup, State.writeBytes_eq_mem]
  rfl

theorem State.writeGroup_touched (s : State) (g : Nat) : (s.writeGroup g).touched = s.touched := by
  rw [State.writeGroup, State.writeBytes_eq_mem]

theorem groupBody_length (s : State) (g : Nat) : (groupBody s g).length = groupBodySize g := by
  simp [groupBody, padTo, zeros]

/-- The bytes of a group are its body between its two editions. -/
theorem State.readByte_writeGroup_body {g i : Nat} (hi : i < groupBodySize g) :
    (s.writeGroup g).readByte (groupOffset g + 1 + i) = (groupBody s g).getD i 0 := by
  have hlen := groupBody_length s g
  rw [State.writeGroup, State.readByte_writeBytes, if_pos (by simp [hlen]; omega),
    show groupOffset g + 1 + i - groupOffset g = i + 1 by omega, List.cons_append, List.getD_cons_succ,
    List.getD_append _ _ _ _ (hlen ▸ hi)]

theorem State.readByte_writeGroup_of_outside {g a : Nat}
    (h : a < groupOffset g ∨ groupOffset g + groupBodySize g + 2 ≤ a) :
    (s.writeGroup g).readByte a = s.readByte a :=
  State.readByte_writeBytes_of_outside _ _ _ _ (by simp [groupBody_length]; omega)

/-! ## What leaves the flags alone -/

theorem State.writeBytes_flags (s : State) (o : Nat) (bs : List Byte) : (s.writeBytes o bs).flags = s.flags := by
  rw [State.writeBytes_eq_mem]

theorem State.writeGroup_flags (s : State) (g : Nat) : (s.writeGroup g).flags = s.flags := by
  rw [State.writeGroup, State.writeBytes_flags]

theorem State.writeSlotImage_flags (s : State) (i : Nat) : (s.writeSlotImage i).flags = s.flags := by
  rw [State.writeSlotImage, State.writeBytes_flags]

theorem State.writeCoilImage_flags (s : State) (r : Nat) : (s.writeCoilImage r).flags = s.flags := by
  rw [State.writeCoilImage, State.writeBytes_flags]

theorem foldl_flags {α : Type} {f : State → α → State} (h : ∀ s a, (f s a).flags = s.flags) (l : List α) (s : State) :
    (l.foldl f s).flags = s.flags :=
  List.foldlRecOn l f (motive := fun t => t.flags = s.flags) rfl fun t ht a _ => (h t a).trans ht

/-- Publication raises no notice. -/
theorem publish_flags (old new : State) : (publish old new).flags = new.flags := by
  unfold publish
  split
  · rfl
  · exact (foldl_flags State.writeGroup_flags _ _).trans
      ((foldl_flags State.writeCoilImage_flags _ _).trans (foldl_flags State.writeSlotImage_flags _ _))

/-! ## The notice registers (R180) -/

/-- Writing a held entry raises ENTRY and no other notice. -/
theorem State.writeEntry_flags (s : State) (e : JournalEntry) :
    (s.writeEntry e).flags = s.flags ||| Notice.entry.mask := by
  simp only [State.writeEntry, State.raise, State.writeGroup_flags, State.writeBytes_flags]

/-- A flag other than the one raised stands as it did. -/
theorem State.raise_flags_of_ne {n : Notice} {i : Nat} (hi : i < 10) (hn : i ≠ n.bit) :
    (s.raise n).flags.getLsbD i = s.flags.getLsbD i := by
  rw [State.raise_flags s n i hi, decide_eq_false hn, Bool.or_false]

/-- A flush attempt leaves every flag but ENTRY alone. -/
theorem State.flushHeld_flags {i : Nat} (hi : i < 10) (hentry : i ≠ Notice.entry.bit) (l : List JournalEntry) :
    ∀ s : State, (State.flushHeld l s).flags.getLsbD i = s.flags.getLsbD i := by
  induction l with
  | nil => exact fun _ => rfl
  | cons e rest ih =>
    intro s
    unfold State.flushHeld
    split
    · rw [ih, State.writeEntry_flags]
      exact State.raise_flags_of_ne (s := { s with holding := rest }) hi hentry
    · rfl

/-- The flush attempt of a NOTICE write leaves every flag but ENTRY and JFULL alone. -/
theorem State.flushForNotice_flags {i : Nat} (hi : i < 10) (hentry : i ≠ Notice.entry.bit)
    (hjfull : i ≠ Notice.jfull.bit) : s.flushForNotice.flags.getLsbD i = s.flags.getLsbD i := by
  have hflush : (if s.mode = .resetting then s else s.flush).flags.getLsbD i = s.flags.getLsbD i := by
    split
    · rfl
    · exact State.flushHeld_flags hi hentry _ s
  have hraise (t : State) :
      (if t.holding.isEmpty then t else t.raise .jfull).flags.getLsbD i = t.flags.getLsbD i := by
    split
    · rfl
    · exact State.raise_flags_of_ne hi hjfull
  exact (hraise _).trans hflush

/-- With nothing held a flush attempt does nothing. -/
theorem State.flushForNotice_of_nil (h : s.holding = []) : s.flushForNotice = s := by
  have hflush : s.flush = s := by
    rw [State.flush, h, State.flushHeld, ← h]
  rw [State.flushForNotice, hflush, ite_self, h, List.isEmpty_nil, if_pos rfl]

/-- A NOTICE write clears the flags whose bits are 1, and of the other flags only a flush attempt raises any. -/
theorem State.takeNotice_flags {v : Word32} {i : Nat} (hi : i < 10) (hentry : i ≠ Notice.entry.bit)
    (hjfull : i ≠ Notice.jfull.bit) :
    (s.takeNotice v).flags.getLsbD i = (s.flags.getLsbD i && !v.getLsbD i) := by
  have hcleared : (clearFlags s.flags (noticeBits v)).getLsbD i = (s.flags.getLsbD i && !v.getLsbD i) := by
    simp [clearFlags, noticeBits, hi]
  unfold State.takeNotice
  dsimp only
  split
  · rw [State.flushForNotice_flags hi hentry hjfull, hcleared]
  · exact hcleared

/-- A NOTICE write without the JFULL bit, or with nothing held, does no more than clear flags. -/
theorem State.takeNotice_of_nothing_to_flush {v : Word32} (h : v.getLsbD 2 = false ∨ s.holding = []) :
    s.takeNotice v = { s with flags := clearFlags s.flags (noticeBits v) } := by
  unfold State.takeNotice
  dsimp only
  split
  · next hjfull => exact State.flushForNotice_of_nil (h.resolve_left (Bool.ne_false_iff.mpr hjfull))
  · rfl

theorem exec_notice (v : Word32) (s : State) : exec (.notice v) s = handle (State.takeNotice v) s := rfl

theorem exec_noticeOn (v : Word32) (s : State) : exec (.noticeOn v) s = handle (State.takeNoticeOn v) s := rfl

theorem exec_noticeOff (v : Word32) (s : State) : exec (.noticeOff v) s = handle (State.takeNoticeOff v) s := rfl

/-- The notice line is asserted while some flag is set together with its enable. -/
theorem State.noticeLine_iff :
    s.noticeLine = true ↔ ∃ i < 10, s.flags.getLsbD i = true ∧ s.enables.getLsbD i = true := by
  rw [State.noticeLine, bne_iff_ne, Ne, BitVec.eq_of_getLsbD_eq_iff]
  simp

/-- Settles O5: a NOTICE write through its flush attempt, the enables bit by bit, the reads and the line. -/
theorem noticeRegistersClearAndSet : Obligations.NoticeRegistersClearAndSet := by
  refine ⟨fun s v => ⟨_, (exec_notice v s).trans (handle_next _ s), fun i hi hentry hjfull => ?_, fun hquiet => ?_⟩,
    fun s v => ?_, fun s v => ?_, fun s => ⟨rfl, rfl, rfl⟩, fun s => State.noticeLine_iff, rfl, rfl⟩
  · rw [publish_flags]
    exact State.takeNotice_flags hi hentry hjfull
  · have hclears := State.takeNotice_of_nothing_to_flush (s := s.begin) (v := v) hquiet
    rw [hclears]
    exact publish_of_shown_eq rfl rfl
  · rw [exec_noticeOn]
    exact handle_of_withoutPort_eq rfl rfl
  · rw [exec_noticeOff]
    exact handle_of_withoutPort_eq rfl rfl

/-! ## POST (R181) -/

theorem postFirst_eq (v : Word32) : postFirst v = v.toNat % 256 := by
  simp [postFirst]

theorem postCount_eq (v : Word32) : postCount v = v.toNat / 256 % 256 := by
  simp [postCount, Nat.shiftRight_eq_div_pow]

/-- The tests of R181 in their order, 0 standing for a post that passes them all. -/
theorem State.postCause_getD (s : State) (first count : Nat) :
    (s.postCause first count).getD 0 =
      if s.mode = .resetting then 1 else if count = 0 then 2 else if 128 < first + count then 3
      else if 8 ≤ s.posts.length then 4 else 0 := by
  rw [State.postCause, show Config.postPlaces = 8 from rfl]
  split_ifs <;> rfl

theorem State.postCause_ne_zero (s : State) (first count : Nat) : s.postCause first count ≠ some 0 := by
  unfold State.postCause
  split_ifs <;> simp

theorem exec_post (v : Word32) (s : State) : exec (.post v) s = handle (State.takePost v) s := rfl

/-- A post that passes every test joins the queue, and nothing else happens. -/
theorem exec_post_of_none {v : Word32} (h : s.postCause (postFirst v) (postCount v) = none) :
    exec (.post v) s =
      .next { s.begin with posts := s.posts ++ [{ first := postFirst v, count := postCount v }] } := by
  have htaken : s.begin.takePost v =
      { s.begin with posts := s.posts ++ [{ first := postFirst v, count := postCount v }] } := by
    have hpass : s.begin.postCause (postFirst v) (postCount v) = none := h
    rw [State.takePost, hpass]
    rfl
  rw [exec_post, handle_of_withoutPort_eq (by rw [htaken]; rfl) (by rw [htaken]; rfl), htaken]

/-- A post refused during RESETTING is recorded with POSTREF, and the directory is left alone. -/
theorem State.refusePost_of_resetting {first count cause : Nat} (h : s.mode = .resetting) :
    s.refusePost first count cause =
      { s with
        lastRefused := { first := first, count := count, cause := cause }
        flags := s.flags ||| Notice.postref.mask } := by
  simp only [State.refusePost, if_pos h, State.raise]

/-- A post refused later is shown in the intake group besides. -/
theorem State.refusePost_of_not_resetting {first count cause : Nat} (h : s.mode ≠ .resetting) :
    s.refusePost first count cause =
      ({ s with lastRefused := { first := first, count := count, cause := cause } }.writeGroup Group.intake).raise
        .postref := by
  simp only [State.refusePost, if_neg h]

/-- Of the records a refused post changes the last refused post alone. -/
theorem State.refusePost_records (s : State) (first count cause : Nat) :
    (s.refusePost first count cause).records =
      State.records { s with lastRefused := { first := first, count := count, cause := cause } } := by
  by_cases h : s.mode = .resetting
  · rw [State.refusePost_of_resetting h]
    rfl
  · rw [State.refusePost_of_not_resetting h, State.raise_records, State.writeGroup_records]

theorem State.refusePost_flags (s : State) (first count cause : Nat) :
    (s.refusePost first count cause).flags = s.flags ||| Notice.postref.mask := by
  by_cases h : s.mode = .resetting
  · rw [State.refusePost_of_resetting h]
  · rw [State.refusePost_of_not_resetting h, State.raise, State.writeGroup_flags]

theorem State.refusePost_touched (s : State) (first count cause : Nat) :
    (s.refusePost first count cause).touched = s.touched := by
  by_cases h : s.mode = .resetting
  · rw [State.refusePost_of_resetting h]
  · rw [State.refusePost_of_not_resetting h, State.raise, State.writeGroup_touched]

/-- The intake group shows a refused post outside RESETTING. -/
theorem State.readByte_refusePost {first count cause i : Nat} (h : s.mode ≠ .resetting) (hi : i < 14) :
    (s.refusePost first count cause).readByte (0x21 + i) =
      (groupBody { s with lastRefused := { first := first, count := count, cause := cause } } Group.intake).getD i 0 := by
  rw [State.refusePost_of_not_resetting h, State.readByte_raise]
  exact State.readByte_writeGroup_body (g := Group.intake) hi

/-- The intake group's last fields are the refused post's (11.5). -/
theorem State.refusePost_shows {first count cause : Nat} (h : s.mode ≠ .resetting) :
    (s.refusePost first count cause).readByte 0x24 = byte first ∧
      (s.refusePost first count cause).readByte 0x25 = byte count ∧
      (s.refusePost first count cause).readByte 0x26 = byte cause :=
  ⟨State.readByte_refusePost (i := 3) h (by omega), State.readByte_refusePost (i := 4) h (by omega),
    State.readByte_refusePost (i := 5) h (by omega)⟩

/-- A refused post writes no byte outside the intake group. -/
theorem State.refusePost_onlyWrites (s : State) (first count cause : Nat) :
    OnlyWrites s (s.refusePost first count cause) fun _ => false := by
  intro a hpublished _
  by_cases h : s.mode = .resetting
  · rw [State.refusePost_of_resetting h]
    rfl
  · have hoffset : groupOffset Group.intake = 0x20 := rfl
    have hsize : groupBodySize Group.intake = 14 := rfl
    simp only [publishedOffset, Bool.or_eq_false_iff, Bool.and_eq_false_iff, Bool.not_eq_false', decide_eq_false_iff_not,
      decide_eq_true_iff] at hpublished
    rw [State.refusePost_of_not_resetting h, State.readByte_raise, State.readByte_writeGroup_of_outside (by omega)]
    rfl

/-- A post that fails a test is refused, and nothing is published beside the intake group. -/
theorem exec_post_of_some {v : Word32} {cause : Nat} (h : s.postCause (postFirst v) (postCount v) = some cause) :
    exec (.post v) s = .next (s.begin.refusePost (postFirst v) (postCount v) cause) := by
  have htaken : s.begin.takePost v = s.begin.refusePost (postFirst v) (postCount v) cause := by
    have hfail : s.begin.postCause (postFirst v) (postCount v) = some cause := h
    rw [State.takePost, hfail]
  have hport : (s.begin.takePost v).withoutPort = s.begin.withoutPort := by
    rw [htaken, ← State.withoutPort_records, State.refusePost_records]
    rfl
  have hnoted : (s.begin.takePost v).touched = {} := by
    rw [htaken, State.refusePost_touched]
    rfl
  rw [exec_post, handle_of_withoutPort_eq hport hnoted, htaken]

/-- Settles O4: the tests in their order, and what a post that passes and a post that fails leave. -/
theorem postIsTestedInOrder : Obligations.PostIsTestedInOrder := by
  refine ⟨rfl, fun s v => ?_⟩
  rw [← postFirst_eq, ← postCount_eq]
  intro first count cause
  have hcause : cause = (s.postCause first count).getD 0 := (s.postCause_getD first count).symm
  cases htest : s.postCause first count with
  | none =>
    rw [htest, Option.getD_none] at hcause
    rw [if_pos hcause]
    exact exec_post_of_none htest
  | some n =>
    rw [htest, Option.getD_some] at hcause
    have hnonzero : cause ≠ 0 := fun hzero => s.postCause_ne_zero first count (htest.trans (by rw [← hcause, hzero]))
    rw [if_neg hnonzero, hcause]
    refine ⟨_, exec_post_of_some htest, ?_, ?_, State.refusePost_onlyWrites s.begin _ _ _, fun hreset a => ?_,
      fun hmode => State.refusePost_shows (s := s.begin) hmode⟩
    · exact State.refusePost_records s.begin _ _ _
    · exact State.refusePost_flags s.begin _ _ _
    · rw [State.refusePost_of_resetting (s := s.begin) hreset]
      rfl

/-! ## IDENT, CONTROL and the reads (R179) -/

/-- IDENT spells the identification, the version and the number of cranes fitted. -/
theorem State.readRegister_ident_fields (h : s.straps < 4) :
    (s.readRegister .ident).extractLsb' 0 16 = 0x4160 ∧ (s.readRegister .ident).extractLsb' 16 8 = 1 ∧
      (s.readRegister .ident).extractLsb' 24 8 = BitVec.ofNat 8 (s.straps + 1) := by
  unfold State.readRegister
  dsimp only
  generalize s.straps = straps at h
  interval_cases straps <;> decide

theorem State.postLaw_length (h : s.postLaw = true) : s.posts.length ≤ 8 := by
  obtain ⟨hlength, -⟩ := Bool.and_eq_true_iff.mp h
  exact of_decide_eq_true hlength

/-- A register write without effect, and without software writes made with it. -/
theorem exec_registerWriteIgnored_nil (w : IgnoredWrite) (s : State) :
    exec (.registerWriteIgnored [] w) s = .next s.begin := rfl

/-- A part reset asks only for the straps: the low bits of the CONTROL write are not examined. -/
theorem exec_partReset (low : BitVec 31) (pins : Fin 4) (s : State) :
    exec (.partReset low pins) s = .next { s.afterReset (State.atReset pins.val .part) with mem := s.mem } := rfl

theorem busWrite_ident (pins : Fin 4) (v : Word32) : busWrite pins 0 v = .registerWriteIgnored [] (.ident v) := rfl

theorem busWrite_control_of_clear {pins : Fin 4} {v : Word32} (h : v.getLsbD 31 = false) :
    busWrite pins 4 v = .registerWriteIgnored [] (.controlResetClear (v.extractLsb' 0 31)) := by
  rw [busWrite, h]
  rfl

theorem busWrite_control_of_set {pins : Fin 4} {v : Word32} (h : v.getLsbD 31 = true) :
    busWrite pins 4 v = .partReset (v.extractLsb' 0 31) pins := by
  rw [busWrite, h]
  rfl

/-- Settles O7: the reads field by field, and writes of IDENT and CONTROL as the commands they are. -/
theorem registersReadAndReset : Obligations.RegistersReadAndReset := by
  refine ⟨fun s hstraps => State.readRegister_ident_fields hstraps, fun s => ?_, fun s hlaw => ?_, fun pins v s => ?_,
    fun pins v s => ⟨fun hclear => ?_, fun hset => ?_⟩⟩
  · cases h : s.mode <;> rw [State.readRegister, h] <;> rfl
  · have hlength := State.postLaw_length hlaw
    have hread : (s.readRegister .post).toNat = s.posts.length % 2 ^ 32 := BitVec.toNat_ofNat ..
    omega
  · rw [busWrite_ident]
    exact exec_registerWriteIgnored_nil _ s
  · rw [busWrite_control_of_clear hclear]
    exact exec_registerWriteIgnored_nil _ s
  · rw [busWrite_control_of_set hset]
    exact ⟨by rw [exec_partReset, exec_partReset], _, exec_partReset _ pins s, rfl, rfl, rfl⟩

end Sys2Proof.Machine
end

section
/-! PROOF. The order handlings keep what every operation keeps: one lemma for each handling that changes none of the kept
records. -/

namespace Sys2Proof.Machine

variable {s : State} {o : Order}

/-! ## Taking orders up -/

/-- A handling that keeps, kept also where a field out of range is answered first. -/
theorem State.checked_keeps {bad : Option Nat} {f : State → Order → State} (h : Keeps s (f s o)) :
    Keeps s (s.checked o bad f) := by
  cases bad with
  | none => exact h
  | some n => exact s.reply_keeps ..

/-- A handling that keeps for every coil, kept also where the id names none. -/
theorem State.withCoil_keeps {f : Nat → Coil → State} (h : ∀ r c, Keeps s (f r c)) : Keeps s (s.withCoil o f) := by
  unfold State.withCoil
  dsimp only
  split
  · exact s.reply_keeps ..
  · split
    · exact s.reply_keeps ..
    · exact h ..

/-! ## Store orders -/

theorem State.setStationOrder_keeps (s : State) (o : Order) : Keeps s (s.setStationOrder o) :=
  .after (State.reply_keeps ..) (s.setStation_keeps ..)

theorem State.registerCoil_keeps (s : State) (o : Order) (c : Coil) : Keeps s (s.registerCoil o c) := by
  unfold State.registerCoil
  split
  · exact s.reply_keeps ..
  · split
    · exact s.reply_keeps ..
    · refine .after (State.reply_keeps ..) ?_
      dsimp only
      split
      · exact .after (State.setSlot_keeps ..) (s.setCoil_keeps ..)
      · exact .after (State.setStation_keeps ..) (s.setCoil_keeps ..)
      · exact s.setCoil_keeps ..

theorem State.placeCoilOrder_keeps (s : State) (o : Order) : Keeps s (s.placeCoilOrder o) := by
  unfold State.placeCoilOrder
  dsimp only
  split
  · exact s.reply_keeps ..
  · split
    · exact s.reply_keeps ..
    · exact s.registerCoil_keeps ..

theorem State.announceOrder_keeps (s : State) (o : Order) : Keeps s (s.announceOrder o) := by
  unfold State.announceOrder
  dsimp only
  split
  · exact s.reply_keeps ..
  · split
    · exact s.reply_keeps ..
    · exact s.registerCoil_keeps ..

theorem State.giveUpPlace_keeps (s : State) (p : Place) : Keeps s (s.giveUpPlace p) := by
  unfold State.giveUpPlace
  split
  · exact s.setSlot_keeps ..
  · exact s.setStation_keeps ..
  · exact .refl

theorem State.removeOrder_keeps (s : State) (o : Order) : Keeps s (s.removeOrder o) := by
  refine State.withCoil_keeps fun r c => ?_
  split
  · exact s.reply_keeps ..
  · exact .after (State.reply_keeps ..) (.after (State.giveUpPlace_keeps ..) (s.removeCoil_keeps ..))

theorem State.holdOrder_keeps (s : State) (o : Order) : Keeps s (s.holdOrder o) := by
  unfold State.holdOrder
  dsimp only
  split
  · exact s.reply_keeps ..
  · refine State.withCoil_keeps fun r c => ?_
    split
    · exact s.reply_keeps ..
    · exact .after (State.reply_keeps ..) (s.setCoil_keeps ..)

theorem State.queryOrder_keeps (s : State) (o : Order) : Keeps s (s.queryOrder o) :=
  State.withCoil_keeps fun _ _ => s.reply_keeps ..

theorem State.orderMove_keeps (s : State) (o : Order) (r : Nat) (c : Coil) : Keeps s (s.orderMove o r c) := by
  unfold State.orderMove
  dsimp only
  split
  · exact s.reply_keeps ..
  · split
    · exact s.reply_keeps ..
    · next h => exact .after (State.working_keeps ..) (State.createMove_keeps h)

theorem State.moveOrder_keeps (suits : State → Place → Bool) (s : State) (o : Order) : Keeps s (s.moveOrder suits o) := by
  refine State.withCoil_keeps fun r c => ?_
  split
  · exact s.reply_keeps ..
  · exact s.orderMove_keeps ..

/-! ## Crane orders -/

theorem State.craneOrder_keeps {test : Crane → Bool} {f : State → Nat → State} (h : ∀ s c, Keeps s (f s c)) (s : State)
    (o : Order) : Keeps s (s.craneOrder test f o) := by
  unfold State.craneOrder
  dsimp only
  split
  · exact s.reply_keeps ..
  · split
    · exact .after (State.reply_keeps ..) (h ..)
    · exact s.reply_keeps ..

theorem State.takeOut_keeps (s : State) (c : Nat) : Keeps s (s.takeOut c) :=
  .after (State.craneEntry_keeps ..) (s.setCraneState_keeps ..)

theorem State.bringIn_keeps (s : State) (c : Nat) : Keeps s (s.bringIn c) := by
  have halted : Keeps s (if s.mode = .halted then s.addCause c .haltAll else s) := by
    split
    · exact s.addCause_keeps ..
    · exact .refl
  have returned : ∀ t, Keeps t (if (t.crane c).causes.isEmpty then t.setCraneState c .idle
      else (t.modCrane c fun k => { k with resume := .idle }).setCraneState c .stopped) := by
    intro t
    split
    · exact t.setCraneState_keeps ..
    · exact .after (State.setCraneState_keeps ..) (.modCrane (fun _ => rfl) fun _ => rfl)
  exact .after (State.afterCU_keeps ..) (.after (State.craneEntry_keeps ..) (.after (returned _) halted))

theorem State.abortMove_keeps (s : State) (o : Order) (m : Nat) (v : Move) (kind : AbortKind) :
    Keeps s (s.abortMove o m v kind) := by
  unfold State.abortMove
  split
  · exact .after (State.actAbort_keeps ..) (.after (State.working_keeps ..) (s.modMove_keeps ..))
  · dsimp only
    split
    · exact .after (State.actAbort_keeps ..) (.after (State.modMove_keeps ..) (s.reply_keeps ..))
    · exact s.reply_keeps ..

theorem State.abortOrder_keeps (s : State) (o : Order) : Keeps s (s.abortOrder o) := by
  unfold State.abortOrder
  dsimp only
  split
  · exact s.reply_keeps ..
  · exact s.reply_keeps ..
  · exact .after (State.afterCU_keeps ..) (s.abortMove_keeps ..)

/-! ## Channel orders -/

theorem State.setChannelOrder_keeps (s : State) (o : Order) : Keeps s (s.setChannelOrder o) := by
  unfold State.setChannelOrder
  dsimp only
  split
  · exact s.reply_keeps ..
  · exact .after (State.reply_keeps ..) (.after (State.touch_keeps ..) (s.modChannel_keeps ..))

theorem State.zeroSetOrder_keeps (s : State) (o : Order) : Keeps s (s.zeroSetOrder o) := by
  unfold State.zeroSetOrder
  dsimp only
  split
  · exact s.reply_keeps ..
  · split
    · exact s.reply_keeps ..
    · exact .after (State.working_keeps ..) (s.modChannel_keeps ..)

theorem State.zeroRearmOrder_keeps (s : State) (o : Order) : Keeps s (s.zeroRearmOrder o) := by
  unfold State.zeroRearmOrder
  dsimp only
  split
  · exact s.reply_keeps ..
  · exact .after (State.reply_keeps ..) (s.modChannel_keeps ..)

/-! ## Bay orders -/

theorem State.setBayOrder_keeps (s : State) (o : Order) : Keeps s (s.setBayOrder o) :=
  .after (State.reply_keeps ..) (.after (State.touch_keeps ..) (s.modBay_keeps ..))

theorem State.truckArriveOrder_keeps (s : State) (o : Order) : Keeps s (s.truckArriveOrder o) := by
  unfold State.truckArriveOrder
  dsimp only
  split
  · exact s.reply_keeps ..
  · have arriving : ∀ (t : State) (f g : Bay → Bay) (b : Nat),
        Keeps t ((((t.modBay b f).setBayState b .arriving).modBay b g).working o.cell o.take 0) := fun t f g b =>
      .after (State.working_keeps ..)
        (.after (State.modBay_keeps ..) (.after (State.setBayState_keeps ..) (t.modBay_keeps ..)))
    split
    · exact .after (State.openPlatform_keeps ..) (arriving ..)
    · exact .after (State.settleArrival_keeps ..) (.after (State.openPlatform_keeps ..) (arriving ..))

theorem State.setOutbound_keeps (s : State) (r : Nat) (v : Bool) : Keeps s (s.setOutbound r v) := s.modCoil_keeps ..

theorem State.acceptPlan_keeps (s : State) (o : Order) (b : Nat) (items : List PlanItem) (loads : Nat × Nat) :
    Keeps s (s.acceptPlan o b items loads) := by
  unfold State.acceptPlan
  refine .after (State.reply_keeps ..) ?_
  have outbound : ∀ (l : Tab Entry) (es : List Entry),
      Keeps s (es.foldl (fun t v => t.setOutbound v.coil true) (l.foldl (fun t p => t.setOutbound p.2.coil false) s)) :=
    fun l es => .after (Keeps.foldl (fun _ _ => State.setOutbound_keeps ..) ..)
      (Keeps.foldl (fun _ _ => State.setOutbound_keeps ..) ..)
  dsimp only
  split
  · exact .after (State.enterCheck_keeps ..) (.after (State.modBay_keeps ..) (outbound ..))
  · exact .after (State.startEntries_keeps ..) (.after (State.produce_keeps ..)
      (.after (State.setBayState_keeps ..) (.after (State.modBay_keeps ..) (outbound ..))))

theorem State.planOrder_keeps (s : State) (o : Order) (b least : Nat) : Keeps s (s.planOrder o b least) := by
  unfold State.planOrder
  dsimp only
  split
  · exact s.reply_keeps ..
  · exact s.acceptPlan_keeps ..

theorem State.loadPlanOrder_keeps (s : State) (o : Order) : Keeps s (s.loadPlanOrder o) := by
  unfold State.loadPlanOrder
  dsimp only
  split
  · exact s.reply_keeps ..
  · split
    · exact s.planOrder_keeps ..
    · split
      · exact s.reply_keeps ..
      · exact s.planOrder_keeps ..
    · exact s.reply_keeps ..

theorem State.emptyBay_keeps (s : State) (b : Nat) : Keeps s (s.emptyBay b) :=
  .after (State.produce_keeps ..) (.after (State.setBayState_keeps ..) (s.modBay_keeps ..))

theorem State.releaseOrder_keeps (s : State) (o : Order) : Keeps s (s.releaseOrder o) := by
  unfold State.releaseOrder
  dsimp only
  split
  · exact s.reply_keeps ..
  · split
    · exact .after (State.reply_keeps ..)
        (.after (State.emptyBay_keeps ..) (Keeps.foldl (fun _ _ => State.removeCoil_keeps ..) ..))
    · exact s.reply_keeps ..

theorem State.cancelOrder_keeps (s : State) (o : Order) : Keeps s (s.cancelOrder o) := by
  unfold State.cancelOrder
  dsimp only
  split
  · exact s.reply_keeps ..
  · split
    · exact .after (State.reply_keeps ..)
        (.after (State.emptyBay_keeps ..) (Keeps.foldl (fun _ _ => State.setOutbound_keeps ..) ..))
    · exact s.reply_keeps ..

/-! ## Field events -/

theorem State.setBedHold_keeps (s : State) (b : Nat) (v : Bool) : Keeps s (s.setBedHold b v) := by
  refine .after (Keeps.foldl (fun t c => ?_) ..) (s.modBay_keeps ..)
  split
  · split
    · exact t.sendStop_keeps ..
    · exact .refl
  · exact t.resumeSteps_keeps ..

theorem State.changeArea_keeps (s : State) (b : Nat) (low : Bool) : Keeps s (s.changeArea b low) := by
  unfold State.changeArea
  refine .after (State.setBedHold_keeps ..) ?_
  split
  · split
    · exact .after (State.closeExtent_keeps ..) (s.modBay_keeps ..)
    · exact s.modBay_keeps ..
  · exact .after (State.openExtent_keeps ..) (s.modBay_keeps ..)

end Sys2Proof.Machine
end

section
/-! PROOF. The invariants of every step: exchange memory and tables in order (R1, R13, R174), bounded queues (R181, R182, R193),
waiting orders allowed (R163), grants separated (R63), and the changes of mode (R161). -/

namespace Sys2Proof.Machine

variable {s t u : State} {o : Order}

/-! ## What a handling keeps -/

/-- What every handling keeps of memory, tables and queues, whatever the mode, and what publication finds after it. -/
structure KeepsLists (s t : State) : Prop where
  memory : s.memoryLaw = true → t.memoryLaw = true
  tables : s.tablesLaw = true → t.tablesLaw = true
  posts : s.postLaw = true → t.postLaw = true
  holding : s.holdingLaw = true → t.holdingLaw = true
  images : t.slotEditions = s.slotEditions ∧ t.coilEditions = s.coilEditions
  once : s.touched.once → t.touched.once
  columns : (∀ k ∈ s.columns.keys, k < 64) → ∀ k ∈ t.columns.keys, k < 64

/-- What the handling of an order by its owner keeps: the mode and the orders that wait too. -/
structure KeepsOrders (s t : State) : Prop extends KeepsLists s t where
  mode : t.mode = s.mode
  orders : ∀ w, t.inbound w = s.inbound w

/-- What the handling of a command keeps. -/
structure KeepsLaws (c : Instr) (s t : State) : Prop extends KeepsLists s t where
  waiting : s.waitingLaw = true → t.waitingLaw = true
  grants : s.waitingLaw = true → s.grantLaw = true → t.grantLaw = true
  mode : s.waitingLaw = true → modeChangeAllowed c s.mode t.mode = true

theorem KeepsLists.refl : KeepsLists s s := ⟨id, id, id, id, ⟨rfl, rfl⟩, id, id⟩

theorem KeepsLists.trans (h : KeepsLists s t) (g : KeepsLists t u) : KeepsLists s u :=
  ⟨g.memory ∘ h.memory, g.tables ∘ h.tables, g.posts ∘ h.posts, g.holding ∘ h.holding,
    ⟨g.images.1.trans h.images.1, g.images.2.trans h.images.2⟩, g.once ∘ h.once, g.columns ∘ h.columns⟩

theorem KeepsRecords.posts (h : KeepsRecords s t) : t.posts = s.posts := (congrArg State.posts h.state :)
theorem KeepsRecords.columns (h : KeepsRecords s t) : t.columns = s.columns := (congrArg State.columns h.state :)

theorem KeepsRecords.inbound (h : KeepsRecords s t) (w : Owner) : t.inbound w = s.inbound w := by
  have horders : t.kept.inbound w = s.kept.inbound w := by rw [h.state]
  cases w <;> exact horders

theorem State.postLaw_congr (h : t.posts = s.posts) : t.postLaw = s.postLaw := by
  simp only [State.postLaw, h]

theorem Keeps.lists (h : Keeps s t) : KeepsLists s t :=
  ⟨h.memory, h.tables, fun hs => (State.postLaw_congr h.posts).trans hs, h.holding, h.images, h.once,
    fun hs => h.columns ▸ hs⟩

theorem Keeps.orders (h : Keeps s t) : KeepsOrders s t := ⟨h.lists, h.mode, h.inbound⟩

theorem KeepsOrders.trans (h : KeepsOrders s t) (g : KeepsOrders t u) : KeepsOrders s u :=
  ⟨h.toKeepsLists.trans g.toKeepsLists, g.mode.trans h.mode, fun w => (g.orders w).trans (h.orders w)⟩

/-! ## The orders that wait -/

theorem State.waitingLaw_iff : s.waitingLaw = true ↔ ∀ w, ∀ o ∈ s.inbound w, s.orderAllowed w o = true := by
  simp only [State.waitingLaw, List.all_eq_true]
  exact ⟨fun h w => h w (by cases w <;> simp), fun h w _ => h w⟩

theorem State.orderAllowed_congr (h : t.mode = s.mode) : t.orderAllowed = s.orderAllowed := by
  funext w o
  simp only [State.orderAllowed, h]

/-- Fewer orders wait, in the same mode. -/
theorem State.waitingLaw_of_subset (hmode : t.mode = s.mode) (h : ∀ w, t.inbound w ⊆ s.inbound w)
    (hs : s.waitingLaw = true) : t.waitingLaw = true := by
  rw [State.waitingLaw_iff] at hs ⊢
  intro w o ho
  rw [State.orderAllowed_congr hmode]
  exact hs w o (h w ho)

/-- With no order waiting there is nothing to ask, in any mode. -/
theorem State.waitingLaw_of_nil (h : ∀ w, t.inbound w = []) : t.waitingLaw = true := by
  rw [State.waitingLaw_iff]
  intro w o ho
  rw [h w] at ho
  cases ho

/-- While RESETTING nothing waits (R172). -/
theorem State.inbound_of_resetting (h : s.mode = .resetting) (hs : s.waitingLaw = true) (w : Owner) : s.inbound w = [] := by
  rw [State.waitingLaw_iff] at hs
  refine List.eq_nil_iff_forall_not_mem.mpr fun o ho => ?_
  have hallowed := hs w o ho
  simp [State.orderAllowed, h, KindRow.allowed] at hallowed

/-- An order that waits with its owner says in which mode the block is. -/
theorem State.allowed_of_waiting (hs : s.waitingLaw = true) {w : Owner} {kind : Nat} (ho : o ∈ s.inbound w)
    (hk : o.kind = kind) : (kindRow kind).any (fun r => r.allowed s.mode) = true := by
  have hallowed := State.waitingLaw_iff.mp hs w o ho
  rw [State.orderAllowed, hk] at hallowed
  cases hrow : kindRow kind with
  | none => rw [hrow] at hallowed; exact hallowed
  | some r =>
    rw [hrow] at hallowed
    exact (Bool.and_eq_true_iff.mp hallowed).2

theorem State.inbound_of_allTakenUp (h : s.allTakenUp = true) (w : Owner) (hw : w ≠ .xp) : s.inbound w = [] := by
  simp only [State.allTakenUp, Bool.and_eq_true, List.isEmpty_iff] at h
  obtain ⟨⟨⟨⟨hsu, hru⟩, hcu⟩, hwu⟩, hlu⟩ := h
  cases w
  case xp => exact absurd rfl hw
  all_goals assumption

/-! ## The grants -/

/-- Out of service the law asks nothing. -/
theorem State.grantLaw_of_not_inService (h : s.inService = false) : s.grantLaw = true := by
  rw [State.grantLaw, h]; rfl

/-- The law speaks of mode, straps, runway and each crane's grant and half width. -/
theorem State.grantLaw_congr (hmode : t.inService = s.inService) (hstraps : t.straps = s.straps) (hrunway : t.runway = s.runway)
    (hgrant : ∀ c, (t.crane c).grant = (s.crane c).grant) (hwidth : ∀ c, (t.crane c).halfWidth = (s.crane c).halfWidth) :
    t.grantLaw = s.grantLaw := by
  have hfitted : t.fitted = s.fitted := by funext c; simp only [State.fitted, hstraps]
  have hin : t.grantInRunway = s.grantInRunway := by funext c; simp only [State.grantInRunway, hgrant, hrunway]
  simp only [State.grantLaw, fittedCranes, adjacentPairs, hmode, hfitted, hin, hgrant, hwidth, hrunway]

/-! ## From a handling to its command -/

/-- A mode that stays is no change of mode. -/
theorem modeChangeAllowed_self (c : Instr) (m : Mode) : modeChangeAllowed c m m = true := by
  cases m <;> rfl

/-- A handling that changes no mode and no waiting order, and keeps the law of the grants. -/
theorem KeepsLaws.of_orders {c : Instr} (h : KeepsOrders s t) (hg : s.grantLaw = true → t.grantLaw = true) :
    KeepsLaws c s t where
  toKeepsLists := h.toKeepsLists
  waiting := State.waitingLaw_of_subset h.mode fun w => by rw [h.orders w]; exact List.Subset.refl _
  grants := fun _ => hg
  mode := fun _ => by rw [h.mode, modeChangeAllowed_self]

theorem Keeps.laws {c : Instr} (h : Keeps s t) : KeepsLaws c s t := .of_orders h.orders h.grants

/-- An order taken up: its handling sees the mode as it is, and one order the less waiting. -/
theorem takeOrder_laws {c : Instr} {w : Owner} {kind : Nat} {f : State → Order → State} (hw : w ≠ .xp)
    (hf : ∀ s o, KeepsOrders s (f s o))
    (hg : ∀ s o, (kindRow kind).any (fun r => r.allowed s.mode) = true → s.grantLaw = true → (f s o).grantLaw = true)
    (s : State) : KeepsLaws c s (takeOrder w kind f s) := by
  obtain ⟨o, rest, hlist, hkind, htaken⟩ | hnothing := takeOrder_cases w kind f s
  · rw [htaken]
    have hset : KeepsLists s (s.setInbound w rest) := by
      cases w <;> exact ⟨id, id, id, id, ⟨rfl, rfl⟩, id, id⟩
    have hmode : (s.setInbound w rest).mode = s.mode := by cases w <;> rfl
    have hsub : ∀ v, (s.setInbound w rest).inbound v ⊆ s.inbound v := by
      intro v
      rw [State.inbound_setInbound s w v rest hw]
      split
      · next hv => rw [hv, hlist]; exact List.subset_cons_self ..
      · exact List.Subset.refl _
    have hgrants : (s.setInbound w rest).grantLaw = s.grantLaw := by cases w <;> rfl
    have h := hf (s.setInbound w rest) o
    refine ⟨hset.trans h.toKeepsLists, fun hs => ?_, fun hs hgrant => ?_, fun _ => ?_⟩
    · exact State.waitingLaw_of_subset (h.mode.trans hmode) (fun v => h.orders v ▸ hsub v) hs
    · refine hg _ o ?_ (hgrants.trans hgrant)
      rw [hmode]
      exact State.allowed_of_waiting hs (hlist ▸ List.mem_cons_self) hkind
    · rw [h.mode, hmode, modeChangeAllowed_self]
  · rw [hnothing]
    exact Keeps.refl.laws

/-- An order whose handling keeps. -/
theorem takeOrder_laws_of_keeps {c : Instr} {w : Owner} {kind : Nat} {f : State → Order → State} (hw : w ≠ .xp)
    (hf : ∀ s o, Keeps s (f s o)) (s : State) : KeepsLaws c s (takeOrder w kind f s) :=
  takeOrder_laws hw (fun s o => (hf s o).orders) (fun s o _ => (hf s o).grants) s

/-! ## The orders that change a table or a parameter -/

/-- A table, a row or a parameter changed where nothing waits on it. -/
theorem KeepsOrders.setColumn (s : State) (c : Nat) (v : Column) (hc : c < 64) : KeepsOrders s (s.setColumn c v) where
  memory := id
  tables := fun h => by
    rw [tablesLaw_iff] at h ⊢
    exact ⟨Tab.sorted_put _ _ _ h.1, h.2⟩
  posts := id
  holding := id
  images := ⟨rfl, rfl⟩
  once := id
  columns := fun h k hk => by
    simp only [State.setColumn, Tab.put, Tab.keys_place, Tab.keys_erase] at hk
    obtain rfl | ⟨-, hk⟩ := hk
    · exact hc
    · exact h k hk
  mode := rfl
  orders := fun w => by cases w <;> rfl

theorem Body.column_lt_of_good {b : Body} (h : b.setColumnBad = none) : b.column < 64 := by
  simp only [Body.setColumnBad, List.cons_append, firstBad] at h
  by_contra hc
  rw [if_neg (by simp [inRange]; omega)] at h
  cases h

theorem State.setColumnOrder_orders (s : State) (o : Order) (hc : Body.column o.body < 64) :
    KeepsOrders s (s.setColumnOrder o) := by
  unfold State.setColumnOrder
  dsimp only
  split
  · exact (s.reply_keeps ..).orders
  · have hrow : ∀ (t : State) (l : List Nat), KeepsOrders t { t with rowY := l } := fun t l =>
      ⟨⟨id, id, id, id, ⟨rfl, rfl⟩, id, id⟩, rfl, fun w => by cases w <;> rfl⟩
    have hslots : ∀ (t : State) (l : List Nat) (f : State → Nat → Slot),
        KeepsOrders t (l.foldl (fun t i => t.setSlot i (f t i)) t) := fun t l f =>
      (Keeps.foldl (fun _ _ => State.setSlot_keeps ..) ..).orders
    exact ((KeepsOrders.setColumn s _ _ hc).trans (hrow ..)).trans ((hslots ..).trans
      (Keeps.after (State.reply_keeps ..) (State.touch_keeps ..)).orders)

theorem State.columnFlagOrder_orders (out : Bool) (s : State) (o : Order) : KeepsOrders s (s.columnFlagOrder out o) := by
  unfold State.columnFlagOrder
  dsimp only
  split
  · next h =>
    have hc : Body.column o.body < 64 := by simp [inRange] at h; omega
    exact (KeepsOrders.setColumn s _ _ hc).trans (State.reply_keeps ..).orders
  · exact (s.reply_keeps ..).orders

theorem State.setPolicyOrder_orders (s : State) (o : Order) : KeepsOrders s (s.setPolicyOrder o) :=
  KeepsOrders.trans (t := { s with policy := Body.policy o.body })
    ⟨⟨id, id, id, id, ⟨rfl, rfl⟩, id, id⟩, rfl, fun w => by cases w <;> rfl⟩ (State.reply_keeps ..).orders

theorem State.setRunwayOrder_orders (s : State) (o : Order) : KeepsOrders s (s.setRunwayOrder o) :=
  KeepsOrders.trans (t := { s with runway := Body.runway o.body })
    ⟨⟨id, id, id, id, ⟨rfl, rfl⟩, id, id⟩, rfl, fun w => by cases w <;> rfl⟩ (State.reply_keeps ..).orders

/-- Any change of a crane's record. -/
theorem KeepsOrders.setCrane (s : State) (c : Nat) (v : Crane) : KeepsOrders s (s.setCrane c v) :=
  ⟨⟨id, id, id, id, ⟨rfl, rfl⟩, Touched.once_group_if _, id⟩, rfl, fun w => by cases w <;> rfl⟩

theorem State.checked_orders {bad : Option Nat} {f : State → Order → State} (h : bad = none → KeepsOrders s (f s o)) :
    KeepsOrders s (s.checked o bad f) := by
  cases bad with
  | none => exact h rfl
  | some n => exact (s.reply_keeps ..).orders

theorem State.setCraneOrder_orders (s : State) (o : Order) : KeepsOrders s (s.setCraneOrder o) := by
  unfold State.setCraneOrder
  dsimp only
  split
  · exact (s.reply_keeps ..).orders
  · split
    · exact (s.reply_keeps ..).orders
    · exact State.checked_orders fun _ => (KeepsOrders.setCrane ..).trans (State.reply_keeps ..).orders

end Sys2Proof.Machine
end

section
/-! PROOF. What every command keeps: the mode orders (R163 to R169), the host port (R170 to R184), and the table of commands. -/

namespace Sys2Proof.Machine

variable {s t : State} {o : Order}

/-! ## The post queue -/

theorem State.postLaw_iff :
    s.postLaw = true ↔ s.posts.length ≤ 8 ∧ ∀ d ∈ s.posts, 1 ≤ d.count ∧ d.first + d.count ≤ 128 := by
  simp only [State.postLaw, Bool.and_eq_true, decide_eq_true_eq, List.all_eq_true]
  rfl

/-- Intake goes on: the head descriptor leaves once its last cell is dealt with (R182). -/
theorem State.dropDealt_eq (s : State) : s.dropDealt = { s with posts := postsGoingOn s.posts } := by
  unfold State.dropDealt postsGoingOn
  split
  · next h => simp only [h]; rw [← h]
  · next d rest h =>
    simp only [h]
    split
    · rfl
    · rw [← h]

theorem postsGoingOn_subset (l : List Descriptor) : postsGoingOn l ⊆ l := by
  unfold postsGoingOn
  split
  · split
    · exact List.subset_cons_self ..
    · exact List.Subset.refl _
  · exact List.Subset.refl _

theorem postsGoingOn_length (l : List Descriptor) : (postsGoingOn l).length ≤ l.length := by
  unfold postsGoingOn
  split
  · split <;> simp
  · exact le_rfl

theorem State.postLaw_goingOn (h : s.postLaw = true) (ht : t.posts = postsGoingOn s.posts) : t.postLaw = true := by
  rw [State.postLaw_iff] at h ⊢
  obtain ⟨hlength, hcells⟩ := h
  rw [ht]
  exact ⟨(postsGoingOn_length _).trans hlength, fun d hd => hcells d (postsGoingOn_subset _ hd)⟩

/-! ## The mode orders -/

/-- A mode order handled: every other list is empty, and no order waits behind it. -/
theorem takeModeOrder_laws {c : Instr} {kind : Nat} {f : State → Order → State}
    (hf : ∀ s o, KeepsLists s (f s o) ∧ ∀ w, (f s o).inbound w = s.inbound w)
    (hmode : ∀ s o, (kindRow kind).any (fun r => r.allowed s.mode) = true →
      modeChangeAllowed c s.mode (f s o).mode = true)
    (hg : ∀ s o, (kindRow kind).any (fun r => r.allowed s.mode) = true → s.grantLaw = true → (f s o).grantLaw = true)
    (s : State) : KeepsLaws c s (takeModeOrder kind f s) := by
  obtain ⟨o, horder, hkind, hall, htaken⟩ | hnothing := takeModeOrder_cases kind f s
  · rw [htaken, State.dropDealt_eq]
    have hheld : o ∈ s.inbound .xp := by simp [State.inbound, horder]
    have hempty : ∀ w, ({ s with modeOrder := none, posts := postsGoingOn s.posts } : State).inbound w = [] := by
      intro w
      have howner := State.inbound_of_allTakenUp hall w
      cases w
      case xp => rfl
      all_goals exact howner (by decide)
    have hlists : KeepsLists s { s with modeOrder := none, posts := postsGoingOn s.posts } :=
      ⟨id, id, fun h => State.postLaw_goingOn h rfl, id, ⟨rfl, rfl⟩, id, id⟩
    obtain ⟨hkeeps, horders⟩ := hf { s with modeOrder := none, posts := postsGoingOn s.posts } o
    refine ⟨hlists.trans hkeeps, fun _ => ?_, fun hs hgrant => ?_, fun hs => ?_⟩
    · exact State.waitingLaw_of_nil fun w => (horders w).trans (hempty w)
    · exact hg _ o (State.allowed_of_waiting hs hheld hkind) hgrant
    · exact hmode _ o (State.allowed_of_waiting hs hheld hkind)
  · rw [hnothing]
    exact Keeps.refl.laws

/-- A change of mode keeps all but the mode. -/
theorem State.changeMode_keeps (s : State) (new : Mode) : Keeps { s with mode := new } (s.changeMode new) :=
  .after (State.raise_keeps ..) (.after (State.produce_keeps ..) (State.writeGroup_keeps ..))

theorem KeepsLists.mode (s : State) (new : Mode) : KeepsLists s { s with mode := new } :=
  ⟨id, id, id, id, ⟨rfl, rfl⟩, id, id⟩

theorem State.inbound_mode (s : State) (new : Mode) (w : Owner) : ({ s with mode := new } : State).inbound w = s.inbound w := by
  cases w <;> rfl

/-- What keeps after a change of mode, as far as the lists and the orders that wait go. -/
theorem KeepsLists.of_changeMode {new : Mode} (h : Keeps { s with mode := new } t) :
    KeepsLists s t ∧ ∀ w, t.inbound w = s.inbound w :=
  ⟨(KeepsLists.mode s new).trans h.lists, fun w => (h.inbound w).trans (s.inbound_mode new w)⟩

/-! ### HALT_ALL and RESUME -/

theorem State.haltCrane_keeps (s : State) (c : Nat) : Keeps s (s.haltCrane c) := by
  unfold State.haltCrane
  split
  · exact .refl
  · exact .after (State.addCause_keeps ..) (s.sendStop_keeps ..)

theorem State.haltOrder_keeps (s : State) (o : Order) : Keeps { s with mode := .halted } (s.haltOrder o) :=
  .after (State.reply_keeps ..) (.after (Keeps.foldl State.haltCrane_keeps ..) (s.changeMode_keeps ..))

theorem State.resumeOrder_keeps (s : State) (o : Order) : Keeps { s with mode := .run } (s.resumeOrder o) :=
  .after (State.reply_keeps ..) (.after (State.afterCU_keeps ..)
    (.after (Keeps.foldl (fun _ _ => State.removeCause_keeps ..) ..) (s.changeMode_keeps ..)))

theorem mode_of_haltAll {m : Mode} (h : (kindRow Kind.haltAll).any (fun r => r.allowed m) = true) : m = .run := by
  cases m with
  | run => rfl
  | _ => exact absurd h (by decide)

theorem mode_of_resume {m : Mode} (h : (kindRow Kind.resume).any (fun r => r.allowed m) = true) : m = .halted := by
  cases m with
  | halted => rfl
  | _ => exact absurd h (by decide)

theorem mode_of_start {m : Mode} (h : (kindRow Kind.start).any (fun r => r.allowed m) = true) : m = .setup := by
  cases m with
  | setup => rfl
  | _ => exact absurd h (by decide)

/-- A change between RUN and HALTED leaves the law of the grants as it is. -/
theorem State.grantLaw_of_service {new : Mode} (hold : s.inService = true) (hnew : new = .run ∨ new = .halted)
    (h : s.grantLaw = true) : ({ s with mode := new } : State).grantLaw = true := by
  refine (State.grantLaw_congr (s := s) (t := { s with mode := new }) ?_ rfl rfl (fun _ => rfl) fun _ => rfl).trans h
  obtain rfl | rfl := hnew <;> exact hold.symm

theorem haltAll_laws (s : State) : KeepsLaws .haltAll s (takeModeOrder Kind.haltAll State.haltOrder s) := by
  refine takeModeOrder_laws (fun s o => KeepsLists.of_changeMode (s.haltOrder_keeps o)) (fun s o h => ?_) (fun s o h hg => ?_) s
  · rw [(s.haltOrder_keeps o).mode, mode_of_haltAll h]; rfl
  · have hold : s.inService = true := by rw [State.inService, mode_of_haltAll h]; rfl
    exact (s.haltOrder_keeps o).grants (State.grantLaw_of_service hold (.inr rfl) hg)

theorem resume_laws (s : State) : KeepsLaws .resume s (takeModeOrder Kind.resume State.resumeOrder s) := by
  refine takeModeOrder_laws (fun s o => KeepsLists.of_changeMode (s.resumeOrder_keeps o)) (fun s o h => ?_) (fun s o h hg => ?_) s
  · rw [(s.resumeOrder_keeps o).mode, mode_of_resume h]; rfl
  · have hold : s.inService = true := by rw [State.inService, mode_of_resume h]; rfl
    exact (s.resumeOrder_keeps o).grants (State.grantLaw_of_service hold (.inl rfl) hg)

/-! ### START -/

/-- The crane's record with its starting grant (R63). -/
def State.startGranted (s : State) (c : Nat) : Crane := { s.crane c with grant := (s.startSpan c).meet s.runSpan }

/-- One starting grant made. -/
def State.grantStart (s : State) (c : Nat) : State := s.setCrane c (s.startGranted c)

theorem State.crane_grantStart (s : State) (a c : Nat) :
    (s.grantStart a).crane c = if c = a then s.startGranted c else s.crane c := by
  rw [State.grantStart, State.crane_setCrane]
  split
  · next h => rw [h]
  · rfl

theorem State.startGranted_grantStart {a c : Nat} (h : c ≠ a) : (s.grantStart a).startGranted c = s.startGranted c := by
  have hother : (s.grantStart a).crane c = s.crane c := by rw [State.crane_grantStart, if_neg h]
  simp only [State.startGranted, State.startSpan, hother]
  rfl

/-- Starting grants made one by one: each crane listed has its own, and the others are as before. -/
theorem foldl_grantStart_crane (l : List Nat) : ∀ s : State, l.Nodup → ∀ c,
    (l.foldl State.grantStart s).crane c = if c ∈ l then s.startGranted c else s.crane c := by
  induction l with
  | nil => intro s _ c; simp
  | cons a rest ih =>
    intro s hl c
    obtain ⟨ha, hrest⟩ := List.nodup_cons.mp hl
    rw [List.foldl_cons, ih _ hrest]
    by_cases hca : c = a
    · rw [if_neg (hca ▸ ha), if_pos (by simp [hca]), State.crane_grantStart, if_pos hca]
    · rw [State.startGranted_grantStart hca, State.crane_grantStart, if_neg hca]
      simp only [List.mem_cons, hca, false_or]

theorem fittedCranes_nodup (s : State) : (fittedCranes s).Nodup := List.Nodup.filter _ (by decide)

theorem State.makeGrants_crane (s : State) (c : Nat) :
    s.makeGrants.crane c = if s.fitted c then s.startGranted c else s.crane c := by
  have h := foldl_grantStart_crane (fittedCranes s) { s with requests := [] } (fittedCranes_nodup s) c
  simp only [mem_fittedCranes] at h
  exact h

/-- Nothing but the request list and the grants is changed (R63, R66). -/
theorem foldl_grantStart_eq (l : List Nat) : ∀ s : State, ∃ cranes touched,
    l.foldl State.grantStart s = { s with cranes := cranes, touched := touched } := by
  induction l with
  | nil => exact fun s => ⟨s.cranes, s.touched, rfl⟩
  | cons a rest ih =>
    intro s
    obtain ⟨cranes, touched, h⟩ := ih (s.grantStart a)
    exact ⟨cranes, touched, h⟩

theorem State.makeGrants_eq (s : State) : ∃ cranes touched,
    s.makeGrants = { s with requests := [], cranes := cranes, touched := touched } :=
  foldl_grantStart_eq (fittedCranes s) { s with requests := [] }

theorem State.makeGrants_straps (s : State) : s.makeGrants.straps = s.straps := by
  obtain ⟨_, _, h⟩ := s.makeGrants_eq
  rw [h]

theorem State.makeGrants_runway (s : State) : s.makeGrants.runway = s.runway := by
  obtain ⟨_, _, h⟩ := s.makeGrants_eq
  rw [h]

theorem State.makeGrants_orders (s : State) : KeepsOrders s s.makeGrants := by
  have hstep : ∀ (l : List Nat) (t : State), KeepsOrders s t → KeepsOrders s (l.foldl State.grantStart t) := by
    intro l
    induction l with
    | nil => exact fun _ h => h
    | cons a rest ih => exact fun t h => ih _ (h.trans (KeepsOrders.setCrane ..))
  exact hstep _ _ (Keeps.requests s []).orders

theorem State.startChecks_none (h : s.startRefusal = none) :
    s.check1 = none ∧ s.check2 = none ∧ s.check3 = none ∧ s.check4 = none ∧ s.check5 = none ∧ s.check6 = none ∧
      s.check7 = none := by
  simpa [State.startRefusal, State.startChecks, List.findSome?_eq_none_iff] using h

/-- Check 7 passed: every fitted crane stands on the runway, and the starting spans are separated (R165). -/
theorem State.check7_eq_none_iff :
    s.check7 = none ↔ (∀ c, s.fitted c = true → s.runway.lo ≤ (s.crane c).xLaser ∧ (s.crane c).xLaser ≤ s.runway.hi) ∧
      ∀ i, s.fitted (i + 1) = true → ((s.crane i).xLaser : Int) + s.runway.margin + s.clearance i (i + 1)
        ≤ (s.crane (i + 1)).xLaser - s.runway.margin := by
  have hpair : ∀ i, s.separated i (s.startSpan i) (i + 1) (s.startSpan (i + 1)) = true ↔
      ((s.crane i).xLaser : Int) + s.runway.margin + s.clearance i (i + 1) ≤ (s.crane (i + 1)).xLaser - s.runway.margin := by
    intro i
    rw [State.separated_east_iff]
    rfl
  unfold State.check7
  split
  · next c hfind =>
    have hbad := List.find?_some hfind
    have hmem := (mem_fittedCranes s c).mp (List.mem_of_find?_eq_some hfind)
    simp only [reduceCtorEq, false_iff, not_and]
    intro hall
    have hc := hall c hmem
    simp [hc.1, hc.2] at hbad
  · next hfind =>
    have hgood : ∀ c, s.fitted c = true → s.runway.lo ≤ (s.crane c).xLaser ∧ (s.crane c).xLaser ≤ s.runway.hi := by
      intro c hc
      simpa using List.find?_eq_none.mp hfind c ((mem_fittedCranes s c).mpr hc)
    simp only [Option.map_eq_none_iff, List.find?_eq_none, mem_adjacentPairs, Bool.not_eq_true', Bool.not_eq_false,
      hpair]
    exact ⟨fun h => ⟨hgood, h⟩, fun h => h.2⟩

/-- The starting grants obey the law, check 7 passed. -/
theorem State.grantLaw_of_startGranted (h : s.check7 = none) (hstraps : t.straps = s.straps) (hrunway : t.runway = s.runway)
    (hcrane : ∀ c, t.crane c = if s.fitted c then s.startGranted c else s.crane c) : t.grantLaw = true := by
  obtain ⟨hstand, hapart⟩ := State.check7_eq_none_iff.mp h
  have hfitted : t.fitted = s.fitted := by funext c; simp only [State.fitted, hstraps]
  have hwidth : ∀ c, (t.crane c).halfWidth = (s.crane c).halfWidth := by
    intro c; rw [hcrane]; split <;> rfl
  have hgrant : ∀ c, s.fitted c = true → (t.crane c).grant = (s.startSpan c).meet s.runSpan := by
    intro c hc; rw [hcrane, if_pos hc]; rfl
  have hpred : ∀ i, s.fitted (i + 1) = true → s.fitted i = true := by
    intro i; simp only [State.fitted, Bool.and_eq_true, decide_eq_true_eq]; omega
  simp only [State.grantLaw, Bool.or_eq_true, Bool.and_eq_true, List.all_eq_true, mem_fittedCranes, mem_adjacentPairs,
    decide_eq_true_eq, State.grantInRunway, hfitted, hrunway, hwidth]
  refine .inr ⟨fun c hc => ?_, fun i hi => ?_⟩
  · have hon := hstand c hc
    rw [hgrant c hc]
    simp only [Span.meet, State.startSpan, Span.around, State.runSpan]
    omega
  · have hsep := hapart i hi
    rw [hgrant _ hi, hgrant _ (hpred i hi)]
    simp only [State.clearance] at hsep
    simp only [Span.meet, State.startSpan, Span.around, State.runSpan]
    omega

theorem State.startOrder_of_refused {a : Answer} (h : s.startRefusal = some a) (o : Order) :
    s.startOrder o = s.reply o a := by
  rw [State.startOrder, h]

/-- START with every check passed keeps all but the mode and the starting grants. -/
theorem State.startOrder_keeps (h : s.startRefusal = none) (o : Order) :
    Keeps { s.makeGrants with mode := .run } (s.startOrder o) := by
  rw [State.startOrder, h]
  exact .after (State.reply_keeps ..)
    (.after (Keeps.foldl (fun _ _ => State.closureTests_keeps ..) ..) (State.changeMode_keeps ..))

theorem start_laws (s : State) : KeepsLaws .start s (takeModeOrder Kind.start State.startOrder s) := by
  refine takeModeOrder_laws (fun s o => ?_) (fun s o h => ?_) (fun s o h hg => ?_) s
  all_goals cases hcheck : s.startRefusal with
    | some a => ?_
    | none => ?_
  · rw [State.startOrder_of_refused hcheck]
    exact ⟨(s.reply_keeps ..).lists, (s.reply_keeps ..).inbound⟩
  · have hkeeps := KeepsLists.of_changeMode (State.startOrder_keeps hcheck o)
    exact ⟨s.makeGrants_orders.toKeepsLists.trans hkeeps.1, fun w => (hkeeps.2 w).trans (s.makeGrants_orders.orders w)⟩
  · rw [State.startOrder_of_refused hcheck, (s.reply_keeps ..).mode, modeChangeAllowed_self]
  · rw [(State.startOrder_keeps hcheck o).mode, mode_of_start h]; rfl
  · rw [State.startOrder_of_refused hcheck]
    exact (s.reply_keeps ..).grants hg
  · obtain ⟨-, -, -, -, -, -, hcheck7⟩ := State.startChecks_none hcheck
    refine (State.startOrder_keeps hcheck o).grants (State.grantLaw_of_startGranted hcheck7 s.makeGrants_straps s.makeGrants_runway
      s.makeGrants_crane)

end Sys2Proof.Machine
end

section
/-! PROOF. The laws of every command (R161 to R163, R174, R181, R193, R63): the host port, the field events, and the table of
commands. -/

namespace Sys2Proof.Machine

variable {s t u : State} {o : Order}

/-! ## The host port -/

theorem State.refusePost_keepsOrders (s : State) (first count cause : Nat) : KeepsOrders s (s.refusePost first count cause) := by
  have hnoted : KeepsOrders s { s with lastRefused := { first := first, count := count, cause := cause } } :=
    ⟨⟨id, id, id, id, ⟨rfl, rfl⟩, id, id⟩, rfl, fun w => by cases w <;> rfl⟩
  unfold State.refusePost
  dsimp only
  split
  · exact hnoted.trans (State.raise_keeps ..).orders
  · exact hnoted.trans (Keeps.after (State.raise_keeps ..) (State.writeGroup_keeps ..)).orders

theorem State.refusePost_grants (s : State) (first count cause : Nat) :
    (s.refusePost first count cause).grantLaw = s.grantLaw := by
  have h : (s.refusePost first count cause).records.grantLaw
      = (State.records { s with lastRefused := { first := first, count := count, cause := cause } }).grantLaw := by
    rw [State.refusePost_records]
  exact h

/-- A post that is not refused names cells of the window, and finds a place free (R181). -/
theorem State.postCause_eq_none {first count : Nat} (h : s.postCause first count = none) :
    1 ≤ count ∧ first + count ≤ 128 ∧ s.posts.length < 8 := by
  have hcause := s.postCause_getD first count
  rw [h] at hcause
  simp only [Option.getD_none] at hcause
  split at hcause
  · cases hcause
  · split at hcause
    · cases hcause
    · split at hcause
      · cases hcause
      · split at hcause
        · cases hcause
        · omega

theorem State.takePost_laws (v : Word32) (s : State) : KeepsLaws (.post v) s (s.takePost v) := by
  unfold State.takePost
  split
  · exact .of_orders (s.refusePost_keepsOrders ..) fun h => (s.refusePost_grants ..).trans h
  · next h =>
    obtain ⟨hcount, hcells, hplace⟩ := State.postCause_eq_none h
    refine .of_orders ⟨⟨id, id, fun hs => ?_, id, ⟨rfl, rfl⟩, id, id⟩, rfl, fun w => by cases w <;> rfl⟩ id
    rw [State.postLaw_iff] at hs ⊢
    refine ⟨by simp; omega, fun d hd => ?_⟩
    obtain hd | hd := List.mem_append.mp hd
    · exact hs.2 d hd
    · rw [List.mem_singleton.mp hd]
      exact ⟨hcount, hcells⟩

theorem State.flushForNotice_keeps (s : State) : Keeps s s.flushForNotice := by
  have hflush : Keeps s (if s.mode = .resetting then s else s.flush) := by
    split
    · exact .refl
    · exact s.flush_keeps
  have hraise : ∀ t : State, Keeps t (if t.holding.isEmpty then t else t.raise .jfull) := by
    intro t
    split
    · exact .refl
    · exact t.raise_keeps ..
  exact .after (hraise _) hflush

theorem State.takeNotice_keeps (v : Word32) (s : State) : Keeps s (s.takeNotice v) := by
  unfold State.takeNotice
  dsimp only
  split
  · exact .after (State.flushForNotice_keeps _) (Keeps.flags s _)
  · exact Keeps.flags s _

/-- The enables stand in no law. -/
theorem KeepsLaws.enables (c : Instr) (s : State) (v : BitVec 10) : KeepsLaws c s { s with enables := v } :=
  .of_orders ⟨⟨id, id, id, id, ⟨rfl, rfl⟩, id, id⟩, rfl, fun w => by cases w <;> rfl⟩ id

/-! ### INTAKE -/

/-- The head descriptor with one cell more dealt with. -/
theorem State.postLaw_deal {d : Descriptor} {rest : List Descriptor} (h : s.posts = d :: rest) (n : Nat)
    (hs : s.postLaw = true) : ({ s with posts := { d with dealt := n } :: rest } : State).postLaw = true := by
  rw [State.postLaw_iff, h] at hs
  rw [State.postLaw_iff]
  obtain ⟨hlength, hcells⟩ := hs
  exact ⟨hlength, List.forall_mem_cons.mpr (List.forall_mem_cons.mp hcells)⟩

/-- What the hand-over of an order leaves but its owner's list (R185). -/
theorem State.handOver_lists (s : State) (w : Owner) (o : Order) : KeepsLists s (s.handOver w o) := by
  cases w <;> exact ⟨id, id, id, id, ⟨rfl, rfl⟩, id, id⟩

theorem State.handOver_mode (s : State) (w : Owner) (o : Order) : (s.handOver w o).mode = s.mode := by cases w <;> rfl

theorem State.handOver_grants (s : State) (w : Owner) (o : Order) : (s.handOver w o).grantLaw = s.grantLaw := by
  cases w <;> rfl

theorem State.handOver_inbound_mem {w v : Owner} {p : Order} (h : p ∈ (s.handOver w o).inbound v) :
    p ∈ s.inbound v ∨ (v = w ∧ p = o) := by
  cases w <;> cases v <;> simp_all [State.handOver, State.inbound, State.setInbound]

/-- A taken order is answered, or handed to the owner its kind names in a mode that allows it (R184). -/
theorem State.dispatchOrder_laws (c : Instr) (s : State) (o : Order) : KeepsLaws c s (s.dispatchOrder o) := by
  unfold State.dispatchOrder
  split
  · exact (s.reply_keeps ..).laws
  · next r hrow =>
    split
    · next hallowed =>
      refine ⟨s.handOver_lists .., fun hs => ?_, fun _ h => ?_, fun _ => ?_⟩
      · rw [State.waitingLaw_iff] at hs ⊢
        intro v p hp
        rw [State.orderAllowed_congr (s.handOver_mode ..)]
        obtain hold | ⟨rfl, rfl⟩ := State.handOver_inbound_mem hp
        · exact hs v p hold
        · simp [State.orderAllowed, hrow, hallowed]
      · rw [s.handOver_grants]; exact h
      · rw [s.handOver_mode, modeChangeAllowed_self]
    · exact (s.reply_keeps ..).laws

/-- One law after another, where the first changes no mode. -/
theorem KeepsLaws.trans {c : Instr} (h : KeepsLaws c s t) (hm : t.mode = s.mode) (g : KeepsLaws c t u) :
    KeepsLaws c s u :=
  ⟨h.toKeepsLists.trans g.toKeepsLists, g.waiting ∘ h.waiting, fun hw hs => g.grants (h.waiting hw) (h.grants hw hs),
    fun hw => hm ▸ g.mode (h.waiting hw)⟩

theorem State.takeCell_laws (c : Instr) (s : State) (n : Nat) : KeepsLaws c s (s.takeCell n) := by
  have htaken : Keeps s ((s.writeByte (cellOffset n) 2).writeBytes (cellOffset n + 8) (leBytes 4 s.takeCounter)) :=
    .after (Keeps.writeBytes ..) (Keeps.writeByte ..)
  have hcounter : ∀ (t : State) (k : Nat), KeepsLaws c t { t with takeCounter := k } := fun t k =>
    .of_orders ⟨⟨id, id, id, id, ⟨rfl, rfl⟩, id, id⟩, rfl, fun w => by cases w <;> rfl⟩ id
  refine htaken.laws.trans htaken.mode ?_
  refine (hcounter _ (nextTake s.takeCounter)).trans rfl ?_
  exact State.dispatchOrder_laws ..

theorem State.dropDealt_laws (c : Instr) (s : State) : KeepsLaws c s s.dropDealt := by
  rw [State.dropDealt_eq]
  exact .of_orders ⟨⟨id, id, fun h => State.postLaw_goingOn h rfl, id, ⟨rfl, rfl⟩, id, id⟩, rfl,
    fun w => by cases w <;> rfl⟩ id

theorem State.dispatchOrder_mode (s : State) (o : Order) : (s.dispatchOrder o).mode = s.mode := by
  unfold State.dispatchOrder
  split
  · exact (s.reply_keeps ..).mode
  · split
    · exact s.handOver_mode ..
    · exact (s.reply_keeps ..).mode

theorem State.takeCell_mode (s : State) (n : Nat) : (s.takeCell n).mode = s.mode :=
  (State.dispatchOrder_mode ..).trans (Keeps.after (Keeps.writeBytes ..) (Keeps.writeByte s ..)).mode

theorem State.intakeCell_laws (s : State) : KeepsLaws .intake s s.intakeCell := by
  unfold State.intakeCell
  split
  · exact Keeps.refl.laws
  · next d rest hposts =>
    split
    · exact Keeps.refl.laws
    · dsimp only
      have hdealt : KeepsLaws .intake s { s with posts := { d with dealt := d.dealt + 1 } :: rest } :=
        .of_orders ⟨⟨id, id, State.postLaw_deal hposts _, id, ⟨rfl, rfl⟩, id, id⟩, rfl, fun w => by cases w <;> rfl⟩ id
      have hcell : ∀ (t : State) (n : Nat),
          KeepsLaws .intake t (if t.cellState n = 1 then t.takeCell n else t.skipCell n 1 (t.cellState n)) ∧
            (if t.cellState n = 1 then t.takeCell n else t.skipCell n 1 (t.cellState n)).mode = t.mode := by
        intro t n
        split
        · exact ⟨t.takeCell_laws .., t.takeCell_mode n⟩
        · exact ⟨(t.skipCell_keeps ..).laws, (t.skipCell_keeps ..).mode⟩
      obtain ⟨hlaws, hmode⟩ := hcell { s with posts := { d with dealt := d.dealt + 1 } :: rest } (d.first + d.dealt)
      have hnext : ∀ t : State, KeepsLaws .intake t (if t.modeOrder.isSome then t else t.dropDealt) := by
        intro t
        split
        · exact Keeps.refl.laws
        · exact t.dropDealt_laws ..
      exact (hdealt.trans rfl hlaws).trans hmode (hnext _)

/-! ## Field events -/

theorem onLink_laws {c : Instr} {k : Fin 4} {f : State → Nat → State} (h : ∀ s k, KeepsLaws c s (f s k)) (s : State) :
    KeepsLaws c s (onLink k f s) := by
  unfold onLink
  split
  · exact h ..
  · exact Keeps.refl.laws

/-- A change of what a crane reports leaves its grant and its half width alone. -/
theorem KeepsLaws.modCrane {c : Instr} {k : Nat} {f : Crane → Crane} (hg : ∀ v, (f v).grant = v.grant)
    (hw : ∀ v, (f v).halfWidth = v.halfWidth) : KeepsLaws c s (s.modCrane k f) := by
  refine .of_orders (KeepsOrders.setCrane ..) fun h => ?_
  have hfield : ∀ {α : Type} (p : Crane → α), (∀ v, p (f v) = p v) → ∀ j, p ((s.modCrane k f).crane j) = p (s.crane j) := by
    intro α p hp j
    rw [State.modCrane_def, State.crane_setCrane]
    split
    · next hj => rw [hp, hj]
    · rfl
  exact (State.grantLaw_congr (s := s) (t := s.modCrane k f) rfl rfl rfl (hfield _ hg) (hfield _ hw)).trans h

theorem State.takeStatus_laws (c : Instr) (s : State) (k : Nat) (r : StatusReport) : KeepsLaws c s (s.takeStatus k r) := by
  have hpart : ∀ (t : State) (n : Nat), KeepsLaws c t (t.modCrane k fun v => { v.storeReport r with recoveryCount := n }) :=
    fun t n => KeepsLaws.modCrane (fun _ => rfl) fun _ => rfl
  have hrecovered : ∀ (t : State) (n : Nat), KeepsLaws c t (t.modCrane k fun v => { v.storeWhole r with recoveryCount := n }) :=
    fun t n => KeepsLaws.modCrane (fun _ => rfl) fun _ => rfl
  have hwhole : ∀ t : State, KeepsLaws c t (t.modCrane k fun v => v.storeWhole r) := fun t =>
    KeepsLaws.modCrane (fun _ => rfl) fun _ => rfl
  unfold State.takeStatus
  dsimp only
  split
  · split
    · exact hpart ..
    · refine (hrecovered s ((s.crane k).recoveryCount + 1)).trans rfl ?_
      exact (Keeps.after (State.takeWhole_keeps ..) (State.recoverLink_keeps ..)).laws
  · refine (s.countGood_keeps k).laws.trans (s.countGood_keeps k).mode ?_
    refine (hwhole _).trans rfl ?_
    exact (State.takeWhole_keeps ..).laws

theorem State.areaInput_laws (c : Instr) (b : Nat) (low : Bool) (s : State) : KeepsLaws c s (s.areaInput b low) := by
  have hlevel : ∀ l, KeepsLaws c s { s with areaLow := l } := fun l =>
    .of_orders ⟨⟨id, id, id, id, ⟨rfl, rfl⟩, id, id⟩, rfl, fun w => by cases w <;> rfl⟩ id
  have hchange : ∀ t : State, KeepsLaws c t
      (if (t.bay b).state = .unconfigured ∨ (t.bay b).occupied = low then t else t.changeArea b low) := by
    intro t
    split
    · exact Keeps.refl.laws
    · exact (t.changeArea_keeps ..).laws
  exact (hlevel ([0, 1, 2].filter fun k => if k = b then low else s.areaLow.contains k)).trans rfl (hchange _)

theorem State.moveBegin_keeps (s : State) (k : Nat) : Keeps s (s.afterCU (s.beginMove k)) :=
  .after (State.afterCU_keeps ..) (s.beginMove_keeps k)

/-! ## The table of commands -/

/-- The commands that publish nothing at their end: the register write without effect, the resets and the end of the clearing. -/
def unpublished : Instr → Bool
  | .registerWriteIgnored .. | .powerOnReset _ | .partReset .. | .clearingComplete => true
  | _ => false

/-- A kind only SETUP takes leaves the law of the grants nothing to ask. -/
theorem State.grantLaw_of_setupOnly {kind : Nat} (hkind : ∀ m, (kindRow kind).any (fun r => r.allowed m) = true → m = .setup)
    {f : State → Order → State} (hf : ∀ s o, KeepsOrders s (f s o)) (s : State) (o : Order)
    (h : (kindRow kind).any (fun r => r.allowed s.mode) = true) : (f s o).grantLaw = true := by
  refine State.grantLaw_of_not_inService ?_
  rw [State.inService, (hf s o).mode, hkind _ h]
  rfl

theorem setColumn_laws (s : State) : KeepsLaws .setColumn s
    (takeOrder .su Kind.setColumn (fun s o => s.checked o (Body.setColumnBad o.body) State.setColumnOrder) s) := by
  have horders : ∀ (s : State) (o : Order), KeepsOrders s (s.checked o (Body.setColumnBad o.body) State.setColumnOrder) :=
    fun s o => State.checked_orders fun h => s.setColumnOrder_orders o (Body.column_lt_of_good h)
  exact takeOrder_laws (by decide) horders (fun s o h _ => State.grantLaw_of_setupOnly (fun m => by cases m <;> decide) horders s o h) s

theorem setRunway_laws (s : State) : KeepsLaws .setRunway s
    (takeOrder .ru Kind.setRunway (fun s o => s.checked o (Body.setRunwayBad o.body) State.setRunwayOrder) s) := by
  have horders : ∀ (s : State) (o : Order), KeepsOrders s (s.checked o (Body.setRunwayBad o.body) State.setRunwayOrder) :=
    fun s o => State.checked_orders fun _ => s.setRunwayOrder_orders o
  exact takeOrder_laws (by decide) horders (fun s o h _ => State.grantLaw_of_setupOnly (fun m => by cases m <;> decide) horders s o h) s

theorem setCrane_laws (s : State) : KeepsLaws .setCrane s (takeOrder .ru Kind.setCrane State.setCraneOrder s) :=
  takeOrder_laws (by decide) State.setCraneOrder_orders
    (fun s o h _ => State.grantLaw_of_setupOnly (fun m => by cases m <;> decide) State.setCraneOrder_orders s o h) s

theorem setPolicy_laws (s : State) : KeepsLaws .setPolicy s
    (takeOrder .su Kind.setPolicy (fun s o => s.checked o (Body.setPolicyBad o.body) State.setPolicyOrder) s) := by
  refine takeOrder_laws (by decide) (fun s o => State.checked_orders fun _ => s.setPolicyOrder_orders o)
    (fun s o _ h => ?_) s
  cases Body.setPolicyBad o.body with
  | some n => exact (s.reply_keeps ..).grants h
  | none => exact (State.reply_keeps ..).grants h

theorem State.columnFlagOrder_grants (out : Bool) (s : State) (o : Order) (h : s.grantLaw = true) :
    (s.columnFlagOrder out o).grantLaw = true := by
  unfold State.columnFlagOrder
  dsimp only
  split
  · exact (State.reply_keeps ..).grants h
  · exact (s.reply_keeps ..).grants h

theorem columnFlag_laws {c : Instr} {kind : Nat} (out : Bool) (s : State) :
    KeepsLaws c s (takeOrder .su kind (State.columnFlagOrder out) s) :=
  takeOrder_laws (by decide) (State.columnFlagOrder_orders out) (fun s o _ => s.columnFlagOrder_grants out o) s

/-- An order checked first, whose handling keeps. -/
theorem checkedOrder_laws {c : Instr} {w : Owner} {kind : Nat} {bad : State → Order → Option Nat}
    {f : State → Order → State} (hw : w ≠ .xp) (hf : ∀ s o, Keeps s (f s o)) (s : State) :
    KeepsLaws c s (takeOrder w kind (fun s o => s.checked o (bad s o) f) s) :=
  takeOrder_laws_of_keeps hw (fun s o => State.checked_keeps (hf s o)) s

theorem exec_badSampleTelegram (b : Fin 3) (s : State) : exec (.badSampleTelegram b) s = handle id s := by
  rw [handle_next, id, publish_of_shown_eq rfl rfl]
  rfl

/-- Every other command is a handling that keeps the laws, and its publication. -/
theorem exec_handled (c : Instr) (hc : unpublished c = false) :
    ∃ g : State → State, (∀ s, exec c s = handle g s) ∧ ∀ s, KeepsLaws c s (g s) := by
  cases c with
  | registerWriteIgnored | powerOnReset | partReset | clearingComplete => cases hc
  | setColumn => exact ⟨_, fun _ => rfl, setColumn_laws⟩
  | setStation => exact ⟨_, fun _ => rfl, checkedOrder_laws (by decide) State.setStationOrder_keeps⟩
  | placeCoil => exact ⟨_, fun _ => rfl, checkedOrder_laws (by decide) State.placeCoilOrder_keeps⟩
  | setPolicy => exact ⟨_, fun _ => rfl, setPolicy_laws⟩
  | announceCoil => exact ⟨_, fun _ => rfl, checkedOrder_laws (by decide) State.announceOrder_keeps⟩
  | removeCoil => exact ⟨_, fun _ => rfl, takeOrder_laws_of_keeps (by decide) State.removeOrder_keeps⟩
  | holdCoil => exact ⟨_, fun _ => rfl, takeOrder_laws_of_keeps (by decide) State.holdOrder_keeps⟩
  | queryCoil => exact ⟨_, fun _ => rfl, takeOrder_laws_of_keeps (by decide) State.queryOrder_keeps⟩
  | columnOut => exact ⟨_, fun _ => rfl, columnFlag_laws true⟩
  | columnIn => exact ⟨_, fun _ => rfl, columnFlag_laws false⟩
  | storeCoil => exact ⟨_, fun _ => rfl, checkedOrder_laws (by decide) (State.moveOrder_keeps _)⟩
  | relocateCoil => exact ⟨_, fun _ => rfl, checkedOrder_laws (by decide) (State.moveOrder_keeps _)⟩
  | setRunway => exact ⟨_, fun _ => rfl, setRunway_laws⟩
  | setCrane => exact ⟨_, fun _ => rfl, setCrane_laws⟩
  | abortMove => exact ⟨_, fun _ => rfl, checkedOrder_laws (by decide) State.abortOrder_keeps⟩
  | craneOut =>
    exact ⟨_, fun _ => rfl, takeOrder_laws_of_keeps (by decide) (State.craneOrder_keeps State.takeOut_keeps)⟩
  | craneIn =>
    exact ⟨_, fun _ => rfl, takeOrder_laws_of_keeps (by decide) (State.craneOrder_keeps State.bringIn_keeps)⟩
  | setChannel => exact ⟨_, fun _ => rfl, checkedOrder_laws (by decide) State.setChannelOrder_keeps⟩
  | zeroSet => exact ⟨_, fun _ => rfl, takeOrder_laws_of_keeps (by decide) State.zeroSetOrder_keeps⟩
  | zeroRearm => exact ⟨_, fun _ => rfl, takeOrder_laws_of_keeps (by decide) State.zeroRearmOrder_keeps⟩
  | setBay => exact ⟨_, fun _ => rfl, checkedOrder_laws (by decide) State.setBayOrder_keeps⟩
  | truckArrive => exact ⟨_, fun _ => rfl, checkedOrder_laws (by decide) State.truckArriveOrder_keeps⟩
  | loadPlan => exact ⟨_, fun _ => rfl, takeOrder_laws_of_keeps (by decide) State.loadPlanOrder_keeps⟩
  | truckRelease => exact ⟨_, fun _ => rfl, takeOrder_laws_of_keeps (by decide) State.releaseOrder_keeps⟩
  | truckCancel => exact ⟨_, fun _ => rfl, takeOrder_laws_of_keeps (by decide) State.cancelOrder_keeps⟩
  | start => exact ⟨_, fun _ => rfl, start_laws⟩
  | haltAll => exact ⟨_, fun _ => rfl, haltAll_laws⟩
  | resume => exact ⟨_, fun _ => rfl, resume_laws⟩
  | post v => exact ⟨_, fun _ => rfl, State.takePost_laws v⟩
  | notice v => exact ⟨_, fun _ => rfl, fun s => (s.takeNotice_keeps v).laws⟩
  | noticeOn v => exact ⟨_, fun _ => rfl, fun s => .enables _ s _⟩
  | noticeOff v => exact ⟨_, fun _ => rfl, fun s => .enables _ s _⟩
  | intake => exact ⟨_, fun _ => rfl, State.intakeCell_laws⟩
  | status k r => exact ⟨_, fun _ => rfl, onLink_laws fun s k => s.takeStatus_laws _ k r⟩
  | tag k r => exact ⟨_, fun _ => rfl, onLink_laws fun s k => (s.takeTag_keeps k r).laws⟩
  | badTelegram k => exact ⟨_, fun _ => rfl, onLink_laws fun s k => (s.countBad_keeps k).laws⟩
  | reportExpiry k => exact ⟨_, fun _ => rfl, onLink_laws fun s k => (s.reportExpires_keeps k).laws⟩
  | sample b r => exact ⟨_, fun _ => rfl, fun s => (s.platformSample_keeps ..).laws⟩
  | badSampleTelegram b => exact ⟨id, exec_badSampleTelegram b, fun _ => Keeps.refl.laws⟩
  | sampleExpiry k => exact ⟨_, fun _ => rfl, fun s => (s.sampleExpires_keeps ..).laws⟩
  | areaChange b low => exact ⟨_, fun _ => rfl, State.areaInput_laws (.areaChange b low) b.val low⟩
  | sessionExpiry last =>
    cases last with
    | hook k r => exact ⟨_, fun _ => rfl, onLink_laws fun s k => s.takeStatus_laws _ k r⟩
    | platform b r => exact ⟨_, fun _ => rfl, fun s => (s.platformSample_keeps ..).laws⟩
  | moveBegin k =>
    exact ⟨_, fun _ => rfl, fun s => (s.moveBegin_keeps k.val).laws⟩

/-! ## What a command keeps as a whole -/

/-- The laws a command keeps, its publication included. -/
structure Lawful (c : Instr) (s t : State) : Prop where
  memory : s.memoryLaw = true → t.memoryLaw = true
  tables : s.tablesLaw = true → t.tablesLaw = true
  posts : s.postLaw = true → t.postLaw = true
  holding : s.holdingLaw = true → t.holdingLaw = true
  waiting : s.waitingLaw = true → t.waitingLaw = true
  grants : s.waitingLaw = true → s.grantLaw = true → t.grantLaw = true
  mode : s.waitingLaw = true → modeChangeAllowed c s.mode t.mode = true

/-- A handling from the cleared output record, and its publication. -/
theorem KeepsLaws.lawful {c : Instr} (h : KeepsLaws c s.begin t) (hp : KeepsRecords t u) : Lawful c s u where
  memory := hp.memory ∘ h.memory
  tables := hp.tables ∘ h.tables
  posts := fun hs => (State.postLaw_congr hp.posts).trans (h.posts hs)
  holding := hp.holding ∘ h.holding
  waiting := fun hs => State.waitingLaw_of_subset hp.mode (fun w => by rw [hp.inbound w]; exact List.Subset.refl _)
    (h.waiting hs)
  grants := fun hw hs => hp.grants (h.grants hw hs)
  mode := fun hs => hp.mode ▸ h.mode hs

theorem State.takeBurst_keeps (burst : List HostWrite) (s : State) : Keeps s (s.takeBurst burst) :=
  Keeps.foldl (fun _ _ => Keeps.writeBytes ..) ..

/-- After a reset the laws hold whatever was before; exchange memory is blank, or as it was (R171, R172). -/
theorem Lawful.of_reset {c : Instr} {straps : Nat} {cause : ResetCause} (hc : ∀ m, modeChangeAllowed c m .resetting = true)
    (hm : s.memoryLaw = true → t.memoryLaw = true)
    (ht : t = { s.afterReset (State.atReset straps cause) with mem := t.mem }) : Lawful c s t := by
  rw [ht]
  exact ⟨fun h => by rw [ht] at hm; exact hm h, fun _ => rfl, fun _ => rfl, fun _ => rfl, fun _ => rfl, fun _ _ => rfl,
    fun _ => hc _⟩

theorem State.headEntry_keeps (s : State) (e : JournalEntry) : Keeps s (s.headEntry e) := by
  have hqueue : Keeps s { s with holding := e :: s.holding.take (Config.holdingPlaces - 1) } :=
    Keeps.setHolding s _ fun _ => by simp [Config.holdingPlaces]
  have hlost : ∀ (t : State) (p : Prop) [Decidable p], Keeps t (if p then t.raise .jlost else t) := by
    intro t p _
    split
    · exact t.raise_keeps ..
    · exact .refl
  exact .after (State.raise_keeps ..) (.after (hlost ..) (.after (State.writeGroup_keeps ..) hqueue))

/-- The end of the clearing keeps what stays through a change of mode. -/
theorem State.enterSetup_keeps (s : State) : Keeps { s with mode := .setup } s.enterSetup :=
  .after (State.raise_keeps ..) (.after (State.flush_keeps _) (.after (State.headEntry_keeps ..) (State.writeGroup_keeps ..)))

theorem State.writeDirectory_keeps (s : State) : Keeps s s.writeDirectory := Keeps.foldl State.writeGroup_keeps ..

theorem State.completeClearing_lawful (s : State) : Lawful .clearingComplete s s.begin.completeClearing := by
  unfold State.completeClearing
  split
  · next hmode =>
    have hcleared : KeepsOrders s s.begin.clearRest :=
      ⟨⟨fun h => State.clearRest_wf s.begin h, id, id, id, ⟨rfl, rfl⟩, fun _ => ⟨.nil, .nil⟩, id⟩, rfl,
        fun w => by cases w <;> rfl⟩
    have hwritten := hcleared.trans (State.writeDirectory_keeps _).orders
    have hsetup := State.enterSetup_keeps s.begin.clearRest.writeDirectory
    obtain ⟨hlists, horders⟩ := KeepsLists.of_changeMode hsetup
    refine ⟨hlists.memory ∘ hwritten.memory, hlists.tables ∘ hwritten.tables, hlists.posts ∘ hwritten.posts,
      hlists.holding ∘ hwritten.holding, fun hs => ?_, fun _ _ => ?_, fun _ => ?_⟩
    · exact State.waitingLaw_of_nil fun w =>
        (horders w).trans ((hwritten.orders w).trans (State.inbound_of_resetting hmode hs w))
    · exact State.grantLaw_of_not_inService (by rw [State.inService, hsetup.mode]; rfl)
    · rw [hsetup.mode, show s.mode = .resetting from hmode]; rfl
  · exact (Keeps.refl (s := s.begin)).laws.lawful .refl

/-- Every command keeps the laws. -/
theorem exec_lawful {c : Instr} (h : exec c s = .next t) : Lawful c s t := by
  cases hc : unpublished c with
  | false =>
    obtain ⟨g, hexec, hkeeps⟩ := exec_handled c hc
    rw [hexec, handle_next] at h
    cases h
    exact (hkeeps s.begin).lawful (publish_keeps ..)
  | true =>
    cases c with
    | registerWriteIgnored burst w =>
      have hburst : execRegisterWriteIgnored burst w s = .next t := h
      unfold execRegisterWriteIgnored at hburst
      split at hburst
      · cases hburst
        exact ((State.takeBurst_keeps burst s.begin).laws).lawful .refl
      · cases hburst
    | powerOnReset straps =>
      cases h
      exact .of_reset (fun m => by cases m <;> rfl) (fun _ => rfl) rfl
    | partReset low straps =>
      cases h
      exact .of_reset (fun m => by cases m <;> rfl) id rfl
    | clearingComplete =>
      cases h
      exact s.completeClearing_lawful
    | _ => cases hc

/-- A step: the front command, or the idle tick. -/
theorem step_cases (h : step s = .next t) :
    (∃ c rest, s.pending = c :: rest ∧ exec c { s with pending := rest } = .next t) ∨ s.pending = [] ∧ t = s.tick := by
  unfold step at h
  split at h
  · next hempty => cases h; exact .inr ⟨hempty, rfl⟩
  · next c rest hfront => exact .inl ⟨c, rest, hfront, h⟩

/-- The idle tick changes only the lines' characters and the byte that is cleared. -/
theorem State.tick_eq (s : State) : ∃ outgoing mem clearedTo,
    s.tick = { s with outgoing := outgoing, mem := mem, clearedTo := clearedTo } := by
  unfold State.tick
  dsimp only
  split
  · exact ⟨_, _, _, rfl⟩
  · exact ⟨_, _, _, rfl⟩

/-- Every step keeps what every command and the tick keep. -/
theorem step_keeps {law : State → Bool} (hexec : ∀ {c : Instr} {s t : State}, Lawful c s t → law s = true → law t = true)
    (htick : ∀ s, law s = true → law s.tick = true) (hpending : ∀ s l, law { s with pending := l } = law s)
    (hs : law s = true) (h : step s = .next t) : law t = true := by
  obtain ⟨c, rest, -, hnext⟩ | ⟨-, rfl⟩ := step_cases h
  · exact hexec (exec_lawful hnext) ((hpending s rest).trans hs)
  · exact htick s hs

/-- The tick leaves alone what does not speak of the lines or of exchange memory. -/
theorem law_tick {law : State → Bool} (hlaw : ∀ s outgoing mem clearedTo,
      law { s with outgoing := outgoing, mem := mem, clearedTo := clearedTo } = law s) (s : State) (hs : law s = true) :
    law s.tick = true := by
  obtain ⟨outgoing, mem, clearedTo, h⟩ := s.tick_eq
  rw [h, hlaw]
  exact hs

/-! ## The invariants -/

/-- Settles O55: memory and tables, from what every command and the tick keep. -/
theorem stepsKeepMemoryAndTablesOrdered : Obligations.StepsKeepMemoryAndTablesOrdered :=
  ⟨fun _ _ => step_keeps (law := State.memoryLaw) (fun h => h.memory) State.tick_wf fun _ _ => rfl,
    fun _ _ => step_keeps (law := State.tablesLaw) (fun h => h.tables) (law_tick fun _ _ _ _ => rfl) fun _ _ => rfl⟩

/-- Settles O56: the two queues, each by what every command keeps of it. -/
theorem stepsKeepTheQueuesBounded : Obligations.StepsKeepTheQueuesBounded := fun _ _ hposts hholding h =>
  ⟨step_keeps (law := State.postLaw) (fun h => h.posts) (law_tick fun _ _ _ _ => rfl) (fun _ _ => rfl) hposts h,
    step_keeps (law := State.holdingLaw) (fun h => h.holding) (law_tick fun _ _ _ _ => rfl) (fun _ _ => rfl) hholding h⟩

/-- Settles O57: an order joins a list where the mode allows it, and no mode changes while one waits elsewhere. -/
theorem stepsKeepWaitingOrdersAllowed : Obligations.StepsKeepWaitingOrdersAllowed := fun _ _ =>
  step_keeps (law := State.waitingLaw) (fun h => h.waiting) (law_tick fun _ _ _ _ => rfl) fun _ _ => rfl

/-- Settles O58: grants are made at START as the law asks, and every later change of one keeps to its room; the parameters the
law speaks of change in SETUP alone, which is where the waiting orders come in. -/
theorem stepsKeepGrantsSeparated : Obligations.StepsKeepGrantsSeparated := by
  intro s t hwaiting hgrants h
  have hboth : (t.waitingLaw && t.grantLaw) = true :=
    step_keeps (law := fun s => s.waitingLaw && s.grantLaw) (s := s)
      (fun hlaws hs => by
        obtain ⟨hw, hg⟩ := Bool.and_eq_true_iff.mp hs
        exact Bool.and_eq_true_iff.mpr ⟨hlaws.waiting hw, hlaws.grants hw hg⟩)
      (law_tick (law := fun s => s.waitingLaw && s.grantLaw) fun _ _ _ _ => rfl) (fun _ _ => rfl)
      (Bool.and_eq_true_iff.mpr ⟨hwaiting, hgrants⟩) h
  exact (Bool.and_eq_true_iff.mp hboth).2

/-- Settles O59: a handling changes the mode only for a mode order, which waits only in the mode that takes it. -/
theorem modesChangeOnlyByTheTable : Obligations.ModesChangeOnlyByTheTable := fun _ _ _ hs h => (exec_lawful h).mode hs

end Sys2Proof.Machine
end

section
/-! PROOF. Steps, resets and bursts (R170, R171, R174, R179), and the laws right after reset. -/

namespace Sys2Proof.Machine

variable {s t : State}

/-! ## A step (log entry 3) -/

theorem State.tick_of_clearing (h : s.mode = .resetting ∧ s.clearedTo < 0x20000) : s.tick = s.transmit.clearByte :=
  if_pos h

theorem State.tick_of_not_clearing (h : ¬(s.mode = .resetting ∧ s.clearedTo < 0x20000)) : s.tick = s.transmit :=
  if_neg h

/-- Settles O1: the two cases of the queue, and on the empty one the two cases of the clearing. -/
theorem stepRunsTheFrontCommand : Obligations.StepRunsTheFrontCommand := by
  refine ⟨fun s c rest h => by rw [step, h], fun s h => ⟨s.tick, by rw [step, h], ?_⟩⟩
  by_cases hclears : s.mode = .resetting ∧ s.clearedTo < 0x20000
  · rw [State.tick_of_clearing hclears, if_pos hclears, if_pos hclears]
    exact ⟨s.outgoingTo_transmit, rfl⟩
  · rw [State.tick_of_not_clearing hclears, if_neg hclears, if_neg hclears]
    exact ⟨s.outgoingTo_transmit, rfl⟩

/-! ## Resets (R170, R171) -/

/-- The four cranes at a reset: those the straps fit are IDLE, the others ABSENT. -/
theorem State.crane_atReset {straps : Nat} (cause : ResetCause) (c : Nat) :
    (State.atReset straps cause).crane c = if c ≤ straps ∧ c < 4 then { state := .idle } else {} := by
  match c with
  | 0 | 1 | 2 | 3 => simp [State.crane, State.atReset, Tab.get, Tab.find, Crane.fitted]
  | n + 4 => simp [State.crane, State.atReset, Tab.get, Tab.find]

/-- All a crane's link has to send is its STOP RAMP. -/
theorem State.outgoingTo_atReset {straps : Nat} (h : straps < 4) (cause : ResetCause) (c : Nat) :
    (State.atReset straps cause).outgoingTo c
      = if c ≤ straps ∧ c < 4 then (StepTelegram.stop 0 false).characters c else [] := by
  interval_cases straps <;> match c with
    | 0 | 1 | 2 | 3 => rfl
    | n + 4 => simp [State.outgoingTo, State.atReset, Tab.get, Tab.find]

/-- A reset leaves the reset values, whatever it leaves alone beside them. -/
theorem resetValues_atReset {straps : Nat} (h : straps < 4) (cause : ResetCause) (mem : Memory) (s : State) :
    ResetValues straps { s.afterReset (State.atReset straps cause) with mem := mem } where
  mode := rfl
  sampled := rfl
  notices := ⟨rfl, rfl, show ((0 : BitVec 10) &&& 0 != 0) = false by decide⟩
  posting := ⟨rfl, rfl, rfl, rfl⟩
  orders := fun w => by cases w <;> rfl
  journal := ⟨rfl, rfl⟩
  clearing := rfl
  editions := ⟨rfl, rfl, rfl⟩
  columns := fun _ => rfl
  rows := rfl
  slots := fun _ => ⟨rfl, rfl, rfl⟩
  stations := fun _ => rfl
  coils := rfl
  policy := rfl
  runway := rfl
  requests := ⟨rfl, rfl⟩
  cranes := State.crane_atReset cause
  moves := ⟨rfl, rfl⟩
  channels := fun _ => rfl
  bays := fun _ => rfl
  stops := rfl
  lines := ⟨rfl, State.outgoingTo_atReset h cause⟩

/-- Settles O2: both resets are the one reset, with exchange memory blank or as it was. -/
theorem resetsLeaveTheResetValues : Obligations.ResetsLeaveTheResetValues :=
  ⟨resetValues_atReset (by decide) .powerOn [] State.reset, rfl,
    fun v s => ⟨_, rfl, resetValues_atReset v.isLt .powerOn [] s, rfl, rfl, rfl, rfl, rfl⟩,
    fun low v s => ⟨_, exec_partReset low v s, resetValues_atReset v.isLt .part s.mem s, rfl, rfl, rfl, rfl, rfl⟩⟩

/-- Settles O54. -/
theorem lawsHoldAtReset : Obligations.LawsHoldAtReset := by
  refine ⟨State.reset_memory_wf, ?_, ?_, ?_, ?_, ?_⟩ <;> decide

/-! ## Bursts (log entry 2) -/

theorem exec_registerWriteIgnored_of_inside {burst : List HostWrite} (w : IgnoredWrite)
    (h : ∀ b ∈ burst, b.offset + b.bytes.length ≤ 0x20000) (s : State) :
    exec (.registerWriteIgnored burst w) s = .next (s.begin.takeBurst burst) :=
  if_pos (List.all_eq_true.mpr fun b hb => decide_eq_true (h b hb))

/-- Settles O8: a write inside the window changes its own bytes, a burst is its writes in order, and one outside stops. -/
theorem burstWritesExactlyItsBytes : Obligations.BurstWritesExactlyItsBytes := by
  refine ⟨fun s w => exec_registerWriteIgnored_nil w s, fun s b w h => ?_, fun s t b rest w hall h => ?_,
    fun s burst w ⟨b, hb, hout⟩ => ?_⟩
  · refine ⟨s.begin.writeBytes b.offset b.bytes, ?_, State.writeBytes_eq_mem .., fun a =>
      State.readByte_writeBytes b.bytes s.begin b.offset a⟩
    rw [exec_registerWriteIgnored_of_inside w (by simpa using h)]
    rfl
  · obtain ⟨hfirst, hrest⟩ := List.forall_mem_cons.mp hall
    rw [exec_registerWriteIgnored_of_inside w (by simpa using hfirst)] at h
    cases h
    rw [exec_registerWriteIgnored_of_inside w hall, exec_registerWriteIgnored_of_inside w hrest]
    have hbegin : (s.begin.takeBurst [b]).begin = s.begin.takeBurst [b] := by
      rw [show s.begin.takeBurst [b] = s.begin.writeBytes b.offset b.bytes from rfl, State.writeBytes_eq_mem]
      rfl
    rw [hbegin]
    rfl
  · refine if_neg fun hinside => ?_
    have hwindow := of_decide_eq_true (List.all_eq_true.mp hinside b hb)
    simp only [Config.windowSize] at hwindow
    omega

end Sys2Proof.Machine
end

section
/-! PROOF. What a command leaves in its cell, in the journal and in exchange memory: publication, answers, progress and entries,
each said once (R177, R186, R187, R191, R192, R195). -/

namespace Sys2Proof.Machine

variable {s t u : State} {o : Order} {a : Answer}

/-! ## Little-endian fields -/

theorem leBytes_length (n : Nat) : ∀ v, (leBytes n v).length = n := by
  induction n with
  | zero => exact fun _ => rfl
  | succ n ih => exact fun v => congrArg (· + 1) (ih (v / 256))

theorem leNat_leBytes (n : Nat) : ∀ v, leNat (leBytes n v) = v % 256 ^ n := by
  induction n with
  | zero => intro v; simp [leBytes, leNat, Nat.mod_one]
  | succ n ih =>
    intro v
    have hbyte : (BitVec.ofNat 8 v).toNat = v % 256 := BitVec.toNat_ofNat ..
    rw [leBytes, leNat, ih, hbyte, pow_succ', Nat.mod_mul]

theorem leNat_lt (bs : List Byte) : leNat bs < 256 ^ bs.length := by
  induction bs with
  | nil => simp [leNat]
  | cons b rest ih =>
    have hb := b.isLt
    simp only [leNat, List.length_cons, Nat.pow_succ]
    omega

theorem padTo_length (n : Nat) (bs : List Byte) : (padTo n bs).length = n := by
  simp [padTo, zeros]

/-! ## What the records say -/

/-- What shows of the records alone is the same where the records are. -/
theorem State.of_records {α : Type} (p : State → α) (h : t.records = u.records) (hp : ∀ s : State, p s.records = p s := by
    intro s; rfl) : p t = p u := by
  rw [← hp t, h, hp u]

/-! ## Publication (R195) -/

theorem State.writeBytes_records (s : State) (b : Nat) (bs : List Byte) : (s.writeBytes b bs).records = s.records := by
  rw [State.writeBytes_eq_mem]
  rfl

theorem State.writeSlotImage_records (s : State) (i : Nat) : (s.writeSlotImage i).records = s.records :=
  State.writeBytes_records _ _ _

theorem State.writeCoilImage_records (s : State) (r : Nat) : (s.writeCoilImage r).records = s.records :=
  State.writeBytes_records _ _ _

theorem foldl_records {α : Type} {f : State → α → State} (h : ∀ s a, (f s a).records = s.records) (l : List α) (s : State) :
    (l.foldl f s).records = s.records := by
  induction l generalizing s with
  | nil => rfl
  | cons a rest ih => exact (ih _).trans (h s a)

/-- Publication changes no record. -/
theorem publish_records (old new : State) : (publish old new).records = new.records := by
  unfold publish
  split
  · rfl
  · exact (foldl_records State.writeGroup_records ..).trans
      ((foldl_records State.writeCoilImage_records ..).trans (foldl_records State.writeSlotImage_records ..))

/-- A byte no write of a run of writes reaches reads as before. -/
theorem foldl_readByte {α : Type} {f : State → α → State} {b : Nat} {l : List α}
    (h : ∀ x ∈ l, ∀ s, (f s x).readByte b = s.readByte b) (s : State) : (l.foldl f s).readByte b = s.readByte b := by
  induction l generalizing s with
  | nil => rfl
  | cons x rest ih =>
    obtain ⟨hx, hrest⟩ := List.forall_mem_cons.mp h
    exact (ih hrest _).trans (hx s)

theorem slotImageBody_length (s : State) (i : Nat) : (slotImageBody s i).length = 6 := by
  simp [slotImageBody, leBytes_length]

theorem coilImageBody_length (s : State) (r : Nat) : (coilImageBody s r).length = 30 := padTo_length ..

theorem State.readByte_writeSlotImage_of_outside {i b : Nat}
    (h : b < slotImageOffset i ∨ slotImageOffset i + 8 ≤ b) : (s.writeSlotImage i).readByte b = s.readByte b :=
  State.readByte_writeBytes_of_outside _ _ _ _ (by simp [slotImageBody_length]; omega)

theorem State.readByte_writeCoilImage_of_outside {r b : Nat}
    (h : b < coilImageOffset r ∨ coilImageOffset r + 32 ≤ b) : (s.writeCoilImage r).readByte b = s.readByte b :=
  State.readByte_writeBytes_of_outside _ _ _ _ (by simp [coilImageBody_length]; omega)

/-- The directory ends below 0x310, and the General group below the read count. -/
theorem groupOffset_bounds (g : Nat) :
    groupOffset g + groupBodySize g + 2 ≤ 0x310 ∧ (g = 0 ∧ groupOffset g + groupBodySize g + 2 = 8 ∨ 0x10 ≤ groupOffset g) ∧
      (3 ≤ g → 0x40 ≤ groupOffset g) := by
  unfold groupOffset groupBodySize
  repeat' split
  all_goals omega

/-- Publication reaches the record groups and the images alone. -/
theorem publish_readByte {old new : State} {b : Nat} (h : b < 0x40 ∨ 0x310 ≤ b ∧ b < 0xD000) :
    (publish old new).readByte b = new.readByte b := by
  unfold publish
  split
  · rfl
  · refine (foldl_readByte (fun g hg s => ?_) _).trans
      ((foldl_readByte (fun r _ s => ?_) _).trans (foldl_readByte (fun i _ s => ?_) _))
    · obtain ⟨hhi, -, hlo⟩ := groupOffset_bounds g
      have := hlo (three_le_of_mem_recordGroups (List.mem_of_mem_filter hg))
      exact State.readByte_writeGroup_of_outside (by omega)
    · exact State.readByte_writeCoilImage_of_outside (by simp only [coilImageOffset]; omega)
    · exact State.readByte_writeSlotImage_of_outside (by simp only [slotImageOffset]; omega)

theorem publishedOffset_eq_false {b : Nat} (h : publishedOffset b = false) : 8 ≤ b ∧ b < 12 ∨ 0x1000 ≤ b ∧ b < 0xD000 := by
  simp only [publishedOffset, Bool.or_eq_false_iff, Bool.and_eq_false_iff, decide_eq_false_iff_not,
    Bool.not_eq_false', decide_eq_true_eq] at h
  omega

/-- A command from its handling: the records, the flags and what is not published are what the handling left. -/
theorem handle_effect (g : State → State) (s : State) :
    ∃ t, handle g s = .next t ∧ t.records = (g s.begin).records ∧ t.flags = (g s.begin).flags ∧
      ∀ b, b < 0x40 ∨ 0x310 ≤ b ∧ b < 0xD000 → t.readByte b = (g s.begin).readByte b :=
  ⟨_, handle_next g s, publish_records .., publish_flags .., fun _ => publish_readByte⟩

/-! ## Cells -/

theorem State.readByte_congr (h : t.mem = s.mem) (b : Nat) : t.readByte b = s.readByte b := by
  simp only [State.readByte, h]

theorem State.cellIsOf_congr {n take : Nat}
    (h : ∀ b, cellOffset n ≤ b → b < cellOffset n + 16 → t.readByte b = s.readByte b) :
    t.cellIsOf n take = s.cellIsOf n take := by
  have hstate : t.cellState n = s.cellState n := by
    simp only [State.cellState, h (cellOffset n) (by omega) (by omega)]
  have htake : t.cellTake n = s.cellTake n := by
    simp only [State.cellTake, State.readNat,
      State.readBytes_congr (s := t) (t := s) 4 (cellOffset n + 8) fun i hi => h _ (by omega) (by omega)]
  simp only [State.cellIsOf, hstate, htake]

/-- The bytes an answer writes: state, code, area (R187). -/
theorem State.readByte_writeAnswer (s : State) (n : Nat) (a : Answer) (b : Nat) :
    (s.writeAnswer n a).readByte b =
      if b = cellOffset n then 4 else if b = cellOffset n + 2 then byte a.code.code
      else if cellOffset n + 128 ≤ b ∧ b < cellOffset n + 256 then (padTo 128 a.area).getD (b - (cellOffset n + 128)) 0
      else s.readByte b := by
  simp only [State.writeAnswer, State.readByte_writeByte, State.readByte_writeBytes, padTo_length]

theorem answerByte_eq_false {n b : Nat} (h : answerByte n b = false) :
    b ≠ cellOffset n ∧ b ≠ cellOffset n + 2 ∧ ¬(cellOffset n + 128 ≤ b ∧ b < cellOffset n + 256) := by
  simpa [answerByte, and_assoc] using h

theorem State.readByte_writeAnswer_of_outside {n b : Nat} (h : answerByte n b = false) :
    (s.writeAnswer n a).readByte b = s.readByte b := by
  obtain ⟨hstate, hcode, harea⟩ := answerByte_eq_false h
  rw [State.readByte_writeAnswer, if_neg hstate, if_neg hcode, if_neg harea]

/-- An answer written is shown, also after writes elsewhere. -/
theorem ShowsAnswer.of_writeAnswer {n : Nat}
    (h : ∀ b, cellOffset n ≤ b → b < cellOffset n + 256 → t.readByte b = (s.writeAnswer n a).readByte b) :
    ShowsAnswer t n a where
  area := by
    have harea : (s.writeAnswer n a).readBytes (cellOffset n + 128) 128
        = (s.writeBytes (cellOffset n + 128) (padTo 128 a.area)).readBytes (cellOffset n + 128) 128 :=
      State.readBytes_congr _ _ _ fun i hi => by
        rw [State.writeAnswer, State.readByte_writeByte, if_neg (by omega), State.readByte_writeByte, if_neg (by omega)]
    rw [State.readBytes_congr (t := s.writeAnswer n a) _ _ _ fun i hi => h _ (by omega) (by omega), harea]
    have hread := State.readBytes_writeBytes (padTo 128 a.area) s (cellOffset n + 128)
    rwa [padTo_length] at hread
  code := by
    rw [h _ (by omega) (by omega), State.readByte_writeAnswer, if_neg (by omega), if_pos rfl]
  state := by
    rw [h _ (by omega) (by omega), State.readByte_writeAnswer, if_pos rfl]

/-- Where a cell stands: outside the directory, the journal and the images. -/
theorem cellOffset_bounds {n : Nat} (h : n < 128) : 0x1000 ≤ cellOffset n ∧ cellOffset n + 256 ≤ 0x9000 := by
  unfold cellOffset
  omega

/-- The answer of a current cell, as the command's end shows it. -/
theorem State.reply_eq (h : s.cellIsOf o.cell o.take = true) (a : Answer) :
    s.reply o a = (s.writeAnswer o.cell a).raise .answer := State.answer_written h

/-- A reply to a current cell changes the cell's answer bytes and the ANSWER flag. -/
theorem State.reply_records (h : s.cellIsOf o.cell o.take = true) (a : Answer) : (s.reply o a).records = s.records := by
  rw [State.reply_eq h, State.writeAnswer_raise_eq]
  rfl

theorem State.reply_flags (h : s.cellIsOf o.cell o.take = true) (a : Answer) :
    (s.reply o a).flags = s.flags ||| Notice.answer.mask := by
  rw [State.reply_eq h, State.writeAnswer_raise_eq]

theorem State.reply_readByte (h : s.cellIsOf o.cell o.take = true) (a : Answer) (b : Nat) :
    (s.reply o a).readByte b = (s.writeAnswer o.cell a).readByte b := by
  rw [State.reply_eq h]
  rfl

theorem State.reply_shows (h : s.cellIsOf o.cell o.take = true)
    (ht : ∀ b, cellOffset o.cell ≤ b → b < cellOffset o.cell + 256 → t.readByte b = (s.reply o a).readByte b) :
    ShowsAnswer t o.cell a :=
  .of_writeAnswer (s := s) fun b hlo hhi => (ht b hlo hhi).trans (State.reply_readByte h a b)

/-- A handling that ends in an answer of a current cell and has written nothing before. -/
theorem handle_answered {g : State → State} (hcell : o.cell < 128) (hcurrent : s.cellIsOf o.cell o.take = true)
    (hg : g s.begin = u.reply o a) (hmem : u.mem = s.mem) (hflags : u.flags = s.flags) :
    ∃ t, handle g s = .next t ∧ t.records = u.records ∧ Answered s t o a := by
  obtain ⟨hlo, hhi⟩ := cellOffset_bounds hcell
  have hcurrent' : u.cellIsOf o.cell o.take = true :=
    (State.cellIsOf_congr fun b _ _ => State.readByte_congr hmem b).trans hcurrent
  obtain ⟨t, hnext, hrecords, htflags, hbytes⟩ := handle_effect g s
  rw [hg] at hrecords htflags hbytes
  refine ⟨t, hnext, hrecords.trans (State.reply_records hcurrent' a), ?_, ?_, fun b hb hw => ?_⟩
  · exact State.reply_shows hcurrent' fun b _ _ => hbytes b (by omega)
  · rw [htflags, State.reply_flags hcurrent', hflags]
  · have := publishedOffset_eq_false hb
    rw [hbytes b (by omega), State.reply_readByte hcurrent', State.readByte_writeAnswer_of_outside hw,
      State.readByte_congr hmem]

/-- The same for a handling that ends in a WORKING write. -/
theorem handle_working {g : State → State} {value : Nat} (hcell : o.cell < 128)
    (hcurrent : s.cellIsOf o.cell o.take = true) (hg : g s.begin = u.working o.cell o.take value) (hmem : u.mem = s.mem)
    (hflags : u.flags = s.flags) : ∃ t, handle g s = .next t ∧ t.records = u.records ∧ Working s t o value := by
  obtain ⟨hlo, hhi⟩ := cellOffset_bounds hcell
  have hcurrent' : u.cellIsOf o.cell o.take = true :=
    (State.cellIsOf_congr fun b _ _ => State.readByte_congr hmem b).trans hcurrent
  obtain ⟨t, hnext, hrecords, htflags, hbytes⟩ := handle_effect g s
  rw [hg, State.working, if_pos hcurrent'] at hrecords htflags hbytes
  refine ⟨t, hnext, hrecords, ?_, ?_, htflags.trans hflags, fun b hb hw => ?_⟩
  · rw [hbytes _ (by omega), State.readByte_writeByte, if_pos rfl]
  · rw [hbytes _ (by omega), State.readByte_writeByte, if_neg (by omega), State.readByte_writeByte, if_pos rfl]
  · have := publishedOffset_eq_false hb
    simp only [workingByte, Bool.or_eq_false_iff, beq_eq_false_iff_ne] at hw
    rw [hbytes b (by omega), State.readByte_writeByte, if_neg hw.1, State.readByte_writeByte, if_neg hw.2,
      State.readByte_congr hmem]

/-! ## Orders -/

/-- The state an owner handles an order in: the order is off its list. -/
theorem takeOrder_begin {w : Owner} {k : Nat} {rest : List Order} {f : State → Order → State} (h : TakenUp s w k o rest) :
    takeOrder w k f s.begin = f (s.begin.setInbound w rest) o := by
  have hlist : s.begin.inbound w = s.inbound w := by cases w <;> rfl
  rw [← h.kind, takeOrder_head (hlist.trans h.head)]

/-- An order whose handling ends in an answer, nothing written before. -/
theorem takeOrder_answered {w : Owner} {k : Nat} {rest : List Order} {f : State → Order → State}
    (h : TakenUp s w k o rest) (hf : f (s.begin.setInbound w rest) o = u.reply o a) (hmem : u.mem = s.mem)
    (hflags : u.flags = s.flags) :
    ∃ t, handle (takeOrder w k f) s = .next t ∧ t.records = u.records ∧ Answered s t o a :=
  handle_answered h.cell h.current ((takeOrder_begin h).trans hf) hmem hflags

/-- An order whose handling ends in a WORKING write, nothing written before. -/
theorem takeOrder_working {w : Owner} {k value : Nat} {rest : List Order} {f : State → Order → State}
    (h : TakenUp s w k o rest) (hf : f (s.begin.setInbound w rest) o = u.working o.cell o.take value) (hmem : u.mem = s.mem)
    (hflags : u.flags = s.flags) :
    ∃ t, handle (takeOrder w k f) s = .next t ∧ t.records = u.records ∧ Working s t o value :=
  handle_working h.cell h.current ((takeOrder_begin h).trans hf) hmem hflags

/-! ## The journal (R191, R192) -/

theorem JournalEntry.bytes_length (e : JournalEntry) (seq : Nat) : (e.bytes seq).length = 32 := by
  simp [JournalEntry.bytes, leBytes_length, padTo_length]

theorem journalOffset_bounds (n : Nat) : 0x9000 ≤ journalOffset n ∧ journalOffset n + 32 ≤ 0xD000 := by
  simp only [journalOffset, Config.journalPlaces]
  omega

/-- An entry in its ring place, before the journal group shows it. -/
def State.putEntry (s : State) (e : JournalEntry) : State :=
  { s.writeBytes (journalOffset s.writeCount) (e.bytes ((s.writeCount + 1) % two32)) with
    writeCount := (s.writeCount + 1) % two32 }

theorem State.putEntry_eq (s : State) (e : JournalEntry) :
    s.putEntry e = { s with mem := (s.putEntry e).mem, writeCount := (s.writeCount + 1) % two32 } := by
  unfold State.putEntry
  rw [State.writeBytes_eq_mem]

theorem State.writeEntry_eq (s : State) (e : JournalEntry) :
    s.writeEntry e = ((s.putEntry e).writeGroup Group.journal).raise .entry := by
  unfold State.writeEntry State.putEntry
  rw [State.writeBytes_eq_mem]

theorem State.writeEntry_records (s : State) (e : JournalEntry) :
    (s.writeEntry e).records = State.records { s with writeCount := (s.writeCount + 1) % two32 } := by
  rw [State.writeEntry_eq, State.raise_records, State.writeGroup_records, State.putEntry_eq]
  rfl

theorem State.writeEntry_touched (s : State) (e : JournalEntry) : (s.writeEntry e).touched = s.touched := by
  rw [State.writeEntry_eq, State.raise_touched, State.writeGroup_touched, State.putEntry_eq]

theorem State.writeEntry_holding (s : State) (e : JournalEntry) : (s.writeEntry e).holding = s.holding :=
  State.of_records (u := { s with writeCount := (s.writeCount + 1) % two32 }) State.holding (s.writeEntry_records e)

theorem State.writeEntry_mode (s : State) (e : JournalEntry) : (s.writeEntry e).mode = s.mode :=
  State.of_records (u := { s with writeCount := (s.writeCount + 1) % two32 }) State.mode (s.writeEntry_records e)

theorem State.writeEntry_writeCount (s : State) (e : JournalEntry) :
    (s.writeEntry e).writeCount = (s.writeCount + 1) % two32 :=
  State.of_records (u := { s with writeCount := (s.writeCount + 1) % two32 }) State.writeCount (s.writeEntry_records e)

theorem State.putEntry_mem (s : State) (e : JournalEntry) : (s.putEntry e).mem =
    (s.writeBytes (journalOffset s.writeCount) (e.bytes ((s.writeCount + 1) % two32))).mem := by
  rw [State.putEntry]

/-- One entry reaches its place in the ring and the journal group. -/
theorem State.readByte_writeEntry {e : JournalEntry} {b : Nat} (h : b < 0x10 ∨ 0x20 ≤ b) :
    (s.writeEntry e).readByte b =
      (s.writeBytes (journalOffset s.writeCount) (e.bytes ((s.writeCount + 1) % two32))).readByte b := by
  have hgroup : b < groupOffset Group.journal ∨ groupOffset Group.journal + groupBodySize Group.journal + 2 ≤ b := h
  rw [State.writeEntry_eq, State.readByte_raise, State.readByte_writeGroup_of_outside hgroup,
    State.readByte_congr (s.putEntry_mem e)]

theorem State.readByte_writeEntry_of_outside {e : JournalEntry} {b : Nat} (h : b < 0x10 ∨ 0x20 ≤ b)
    (hplace : b < journalOffset s.writeCount ∨ journalOffset s.writeCount + 32 ≤ b) :
    (s.writeEntry e).readByte b = s.readByte b := by
  rw [State.readByte_writeEntry h, State.readByte_writeBytes_of_outside _ _ _ _ (by rw [e.bytes_length]; exact hplace)]

theorem State.readBytes_writeEntry (s : State) (e : JournalEntry) :
    (s.writeEntry e).readBytes (journalOffset s.writeCount) 32 = e.bytes ((s.writeCount + 1) % two32) := by
  have hplace := journalOffset_bounds s.writeCount
  rw [State.readBytes_congr _ _ _ fun i _ => State.readByte_writeEntry (by omega)]
  have hread := State.readBytes_writeBytes (e.bytes ((s.writeCount + 1) % two32)) s (journalOffset s.writeCount)
  rwa [e.bytes_length] at hread

theorem State.journalPlace_one (s : State) (b : Nat) :
    s.journalPlace 1 b = false ↔ b < journalOffset s.writeCount ∨ journalOffset s.writeCount + 32 ≤ b := by
  simp [State.journalPlace]
  omega

/-- The read count is where no entry and no group is written. -/
theorem State.readCount_congr (h : ∀ b, 8 ≤ b → b < 12 → t.readByte b = s.readByte b) : t.readCount = s.readCount := by
  simp only [State.readCount, State.readNat, readCountOffset,
    State.readBytes_congr (s := t) (t := s) 4 8 fun i hi => h _ (by omega) (by omega)]

theorem State.readCount_lt (s : State) : s.readCount < two32 := by
  have h := leNat_lt (s.readBytes readCountOffset 4)
  rw [State.readBytes_length] at h
  exact h

end Sys2Proof.Machine
end

section
/-! PROOF. The journal while it takes entries at once: each entry stands under the next number in the next place of the ring,
and what is written elsewhere leaves it alone (R191 to R193). -/

namespace Sys2Proof.Machine

variable {s t u : State} {e : JournalEntry} {es fs : List JournalEntry} {n : Nat}

theorem State.journalTakes_iff : s.journalTakes n = true ↔
    s.holding = [] ∧ s.backlog + n ≤ 512 ∧ s.mode ≠ .resetting ∧ s.writeCount < 4294967296 := by
  simp only [State.journalTakes, Bool.and_eq_true, List.isEmpty_iff, decide_eq_true_eq, bne_iff_ne, and_assoc]
  rfl

/-- The journal takes an entry at once by writing it. -/
theorem State.produce_of_takes (h : s.journalTakes (n + 1) = true) (e : JournalEntry) : s.produce e = s.writeEntry e := by
  obtain ⟨hheld, hroom, hmode, -⟩ := State.journalTakes_iff.mp h
  have hjournal : s.journalRoom = true := by
    rw [State.journalRoom, decide_eq_true_eq, Config.journalPlaces]
    omega
  rw [State.produce, if_neg hmode, hheld, List.isEmpty_nil, if_pos rfl, State.writeOrHold, if_pos hjournal]

/-- The bytes of the journal: the ring and the read count. -/
def ringByte (a : Nat) : Bool := journalByte a || decide (8 ≤ a ∧ a < 12)

theorem ringByte_iff {a : Nat} : ringByte a = true ↔ 0x9000 ≤ a ∧ a < 0xD000 ∨ 8 ≤ a ∧ a < 12 := by
  simp [ringByte, journalByte]

theorem State.journalPlace_eq_false {a : Nat} : s.journalPlace n a = false ↔
    ∀ i < n, a < journalOffset (s.writeCount + i) ∨ journalOffset (s.writeCount + i) + 32 ≤ a := by
  simp only [State.journalPlace, List.any_eq_false, List.mem_range, decide_eq_true_eq, not_and_or, not_le, not_lt]

theorem State.journalPlace_mono {a m : Nat} (hle : m ≤ n) (h : s.journalPlace n a = false) : s.journalPlace m a = false :=
  State.journalPlace_eq_false.mpr fun i hi => State.journalPlace_eq_false.mp h i (by omega)

/-- The entries are in the journal, and the rest of its bytes as before. -/
structure Logged (s t : State) (es : List JournalEntry) : Prop where
  order : JournaledInOrder s t es
  mode : t.mode = s.mode
  others : ∀ a, ringByte a = true → s.journalPlace es.length a = false → t.readByte a = s.readByte a

theorem Logged.readCount (h : Logged s t es) : t.readCount = s.readCount :=
  State.readCount_congr fun b hlo hhi => h.others b (ringByte_iff.mpr (.inr ⟨hlo, hhi⟩))
    (State.journalPlace_eq_false.mpr fun i _ => by have := journalOffset_bounds (s.writeCount + i); omega)

/-- A journal that takes some entries and more takes the more once the some are written. -/
theorem Logged.takes (h : Logged s t es) (hs : s.journalTakes (es.length + n) = true) : t.journalTakes n = true := by
  obtain ⟨hheld, hroom, hmode, hcount⟩ := State.journalTakes_iff.mp hs
  have hread := h.readCount
  have hlt := State.readCount_lt s
  have hwrite := h.order.count
  refine State.journalTakes_iff.mpr ⟨h.order.held, ?_, h.mode ▸ hmode, ?_⟩
  · simp only [State.backlog, two32, hread, hwrite] at hroom hlt ⊢
    omega
  · rw [hwrite, two32]
    omega

/-- What changes no byte and no count of the journal logs nothing. -/
theorem Logged.of_unwritten (hs : s.journalTakes n = true) (hcount : t.writeCount = s.writeCount)
    (hheld : t.holding = s.holding) (hmode : t.mode = s.mode)
    (hbytes : ∀ a, ringByte a = true → t.readByte a = s.readByte a) : Logged s t [] := by
  obtain ⟨hempty, -, -, hlt⟩ := State.journalTakes_iff.mp hs
  refine ⟨⟨?_, hheld.trans hempty, fun i e he => ?_⟩, hmode, fun a ha _ => hbytes a ha⟩
  · rw [hcount, List.length_nil, Nat.add_zero, two32, Nat.mod_eq_of_lt hlt]
  · simp at he

theorem journalOffset_mod (n i : Nat) : journalOffset (n % two32 + i) = journalOffset (n + i) := by
  simp only [journalOffset, Config.journalPlaces, two32]
  omega

/-- Entries logged one after the other are logged together. -/
theorem Logged.trans (h : Logged s t es) (h' : Logged t u fs) (hs : s.journalTakes (es.length + fs.length) = true) :
    Logged s u (es ++ fs) := by
  obtain ⟨-, hroom, -, -⟩ := State.journalTakes_iff.mp hs
  have hcount := h.order.count
  have hplace (i : Nat) : journalOffset (t.writeCount + i) = journalOffset (s.writeCount + (es.length + i)) := by
    rw [hcount, journalOffset_mod, Nat.add_assoc]
  refine ⟨⟨?_, h'.order.held, fun i e he => ?_⟩, h'.mode.trans h.mode, fun a ha hout => ?_⟩
  · rw [h'.order.count, hcount, List.length_append, two32]
    omega
  · rcases Nat.lt_or_ge i es.length with hi | hi
    · rw [List.getElem?_append_left hi] at he
      rw [← h.order.entries i e he]
      refine State.readBytes_congr _ _ _ fun k hk => h'.others _ (ringByte_iff.mpr (.inl ?_))
        (State.journalPlace_eq_false.mpr fun j hj => ?_)
      · have := journalOffset_bounds (s.writeCount + i)
        omega
      · rw [hplace]
        simp only [journalOffset, Config.journalPlaces]
        omega
    · rw [List.getElem?_append_right hi] at he
      have hentry := h'.order.entries _ e he
      rw [hplace, show es.length + (i - es.length) = i by omega] at hentry
      rw [hentry, hcount, two32]
      congr 1
      omega
  · rw [List.length_append] at hout
    have hout := State.journalPlace_eq_false.mp hout
    rw [h'.others a ha (State.journalPlace_eq_false.mpr fun j hj => ?_),
      h.others a ha (State.journalPlace_eq_false.mpr fun i hi => hout i (by omega))]
    rw [hplace]
    exact hout _ (by omega)

/-- One entry written is logged. -/
theorem Logged.produce (hs : s.journalTakes (n + 1) = true) (e : JournalEntry) : Logged s (s.produce e) [e] := by
  rw [State.produce_of_takes hs]
  obtain ⟨hheld, -, -, -⟩ := State.journalTakes_iff.mp hs
  refine ⟨⟨s.writeEntry_writeCount e, (s.writeEntry_holding e).trans hheld, fun i f hf => ?_⟩, s.writeEntry_mode e,
    fun a ha hout => ?_⟩
  · obtain ⟨rfl, rfl⟩ : i = 0 ∧ f = e := by
      cases i with
      | zero => exact ⟨rfl, (Option.some.inj hf).symm⟩
      | succ i => simp at hf
    exact s.readBytes_writeEntry f
  · have hring := ringByte_iff.mp ha
    exact State.readByte_writeEntry_of_outside (by omega) ((s.journalPlace_one a).mp hout)

/-- Entries with the same bytes are logged as each other. -/
theorem Logged.congr {es' : List JournalEntry} (h : Logged s t es) (hbytes : es.map JournalEntry.bytes = es'.map JournalEntry.bytes) :
    Logged s t es' := by
  have hlength : es.length = es'.length := by simpa using congrArg List.length hbytes
  refine ⟨⟨hlength ▸ h.order.count, h.order.held, fun i e he => ?_⟩, h.mode, hlength ▸ h.others⟩
  have hget := congrArg (·[i]?) hbytes
  simp only [List.getElem?_map, he, Option.map_some, Option.map_eq_some_iff] at hget
  obtain ⟨f, hf, hsame⟩ := hget
  rw [h.order.entries i f hf, hsame]

/-- What is neither published nor of the journal lies in a cell, or between the regions. -/
theorem OnlyWrites.of_logged {w : Nat → Bool} (h : Logged s t es) (hlen : es.length ≤ n)
    (hw : ∀ a, w a = false → s.journalPlace n a = false)
    (hcells : ∀ a, 0x1000 ≤ a → a < 0x9000 → w a = false → t.readByte a = s.readByte a) : OnlyWrites s t w := by
  intro a hpublished hout
  have hplace := State.journalPlace_mono hlen (hw a hout)
  rcases publishedOffset_eq_false hpublished with hcount | ⟨hlo, hhi⟩
  · exact h.others a (ringByte_iff.mpr (.inr hcount)) hplace
  · rcases Nat.lt_or_ge a 0x9000 with hcell | hring
    · exact hcells a hlo hcell hout
    · exact h.others a (ringByte_iff.mpr (.inl ⟨hring, hhi⟩)) hplace

/-! ## What an entry leaves -/

theorem State.produce_flags (hs : s.journalTakes (n + 1) = true) (e : JournalEntry) :
    (s.produce e).flags = s.flags ||| Notice.entry.mask := by
  rw [State.produce_of_takes hs, State.writeEntry_flags]

/-- No entry is written into a cell. -/
theorem State.readByte_produce_of_cell {a : Nat} (hs : s.journalTakes (n + 1) = true) (e : JournalEntry)
    (hlo : 0x20 ≤ a) (hhi : a < 0x9000) : (s.produce e).readByte a = s.readByte a := by
  have hplace := journalOffset_bounds s.writeCount
  rw [State.produce_of_takes hs]
  exact State.readByte_writeEntry_of_outside (by omega) (.inl (by omega))

end Sys2Proof.Machine
end

section
/-! PROOF. The end of the clearing, flush attempts and intake (R171, R183, R184, R194). -/

namespace Sys2Proof.Machine

variable {s t u : State} {n : Nat}

/-! ## Notices -/

theorem State.raised_raise (s : State) (n : Notice) : (s.raise n).raised n = true := by
  have hmask : n.mask ≠ 0 := by cases n <;> decide
  have hand : (s.flags ||| n.mask) &&& n.mask = n.mask := by
    ext i hi
    simp only [BitVec.getElem_and, BitVec.getElem_or]
    cases s.flags[i] <;> cases n.mask[i] <;> rfl
  rw [State.raised, State.raise]
  simpa only [hand, bne_iff_ne] using hmask

theorem State.raised_iff {n : Notice} : s.raised n = true ↔ s.flags.getLsbD n.bit = true := by
  have hmask : n.mask.getLsbD n.bit = true ∧ ∀ i, i ≠ n.bit → n.mask.getLsbD i = false := by
    refine ⟨by cases n <;> rfl, fun i hi => ?_⟩
    rw [Notice.mask, BitVec.getLsbD_ofNat, Nat.testBit_two_pow, decide_eq_false hi.symm, Bool.and_false]
  have hand : s.flags &&& n.mask = 0 ↔ s.flags.getLsbD n.bit = false := by
    refine ⟨fun h => ?_, fun h => BitVec.eq_of_getLsbD_eq fun i _ => ?_⟩
    · have hbit := congrArg (·.getLsbD n.bit) h
      simpa [hmask.1] using hbit
    · by_cases hi : i = n.bit
      · rw [hi, BitVec.getLsbD_and, h]; simp
      · rw [BitVec.getLsbD_and, hmask.2 i hi]; simp
  rw [State.raised, bne_iff_ne, Ne, hand, Bool.not_eq_false]

theorem State.raised_mono {n m : Notice} (h : s.raised n = true) : (s.raise m).raised n = true := by
  have hbit : n.bit < 10 := by cases n <;> decide
  rw [State.raised_iff] at h ⊢
  rw [State.raise_flags s m n.bit hbit, h, Bool.true_or]

/-! ## Flush attempts (R194) -/

theorem State.with_holding {l : List JournalEntry} (h : s.holding = l) : { s with holding := l } = s := by
  subst h
  rfl

theorem State.flush_of_no_room {e : JournalEntry} {rest : List JournalEntry} (hheld : s.holding = e :: rest)
    (hroom : s.journalRoom = false) : s.flush = s := by
  rw [State.flush, hheld, State.flushHeld, hroom, if_neg Bool.false_ne_true, State.with_holding hheld]

theorem State.flush_of_one {e : JournalEntry} (hheld : s.holding = [e]) (hroom : s.journalRoom = true) :
    s.flush = State.writeEntry { s with holding := [] } e := by
  rw [State.flush, hheld, State.flushHeld, hroom, if_pos rfl, State.flushHeld,
    State.with_holding (State.writeEntry_holding { s with holding := [] } e)]

theorem State.flushForNotice_of_no_room {e : JournalEntry} {rest : List JournalEntry} (hmode : s.mode ≠ .resetting)
    (hheld : s.holding = e :: rest) (hroom : s.journalRoom = false) : s.flushForNotice = s.raise .jfull := by
  rw [State.flushForNotice, if_neg hmode, State.flush_of_no_room hheld hroom, hheld, List.isEmpty_cons,
    if_neg Bool.false_ne_true]

/-- A flush attempt that empties the queue raises no JFULL. -/
theorem State.flushForNotice_of_one {e : JournalEntry} (hmode : s.mode ≠ .resetting) (hheld : s.holding = [e])
    (hroom : s.journalRoom = true) : s.flushForNotice = State.writeEntry { s with holding := [] } e := by
  rw [State.flushForNotice, if_neg hmode, State.flush_of_one hheld hroom, State.writeEntry_holding, List.isEmpty_nil,
    if_pos rfl]

/-- The state a NOTICE write begins with: the flags named are clear. -/
def State.noticed (s : State) (v : Word32) : State := { s.begin with flags := clearFlags s.flags (noticeBits v) }

theorem State.takeNotice_of_flush {v : Word32} (h : v.getLsbD 2 = true) :
    s.begin.takeNotice v = (s.noticed v).flushForNotice := by
  rw [State.takeNotice]
  exact if_pos h

/-- Settles O6: the flush attempt without room, and of one entry with room. -/
theorem jfullWriteFlushes : Obligations.JfullWriteFlushes := by
  intro s v e rest hmode hjfull hheld
  have htake := State.takeNotice_of_flush (s := s) hjfull
  refine ⟨fun hfull => ?_, fun hroom hlone => ?_⟩
  · have hraised := htake.trans (State.flushForNotice_of_no_room (s := s.noticed v) hmode hheld hfull)
    rw [exec_notice, handle_of_withoutPort_eq (by rw [hraised]; rfl) (by rw [hraised]; rfl), hraised]
    rfl
  · subst hlone
    have hwrite := htake.trans (State.flushForNotice_of_one (s := s.noticed v) hmode hheld hroom)
    generalize hlone : ({ s.noticed v with holding := [] } : State) = lone at hwrite
    have hrecords := lone.writeEntry_records e
    have hport : lone.withoutPort = s.begin.withoutPort ∧ lone.touched = {} := by
      subst hlone
      exact ⟨rfl, rfl⟩
    refine ⟨lone.writeEntry e, ?_, ?_, fun a hpublished hplace => ?_, ?_, ?_⟩
    · have hdone : (lone.writeEntry e).withoutPort = lone.withoutPort := by
        rw [← State.withoutPort_records, hrecords]
        rfl
      rw [exec_notice, handle_of_withoutPort_eq (by rw [hwrite, hdone, hport.1])
        (by rw [hwrite, State.writeEntry_touched, hport.2]), hwrite]
    · subst hlone
      exact ⟨State.writeEntry_writeCount _ e, State.writeEntry_holding _ e, State.readBytes_writeEntry _ e⟩
    · have hout := (State.journalPlace_one s a).mp hplace
      have hoffset := publishedOffset_eq_false hpublished
      subst hlone
      exact State.readByte_writeEntry_of_outside (by omega) hout
    · subst hlone
      exact State.writeEntry_flags _ e
    · subst hlone
      exact hrecords

/-! ## The end of the clearing (R171) -/

theorem State.readByte_writeDirectory {a : Nat} (h : 0x310 ≤ a ∨ 8 ≤ a ∧ a < 0x10) :
    s.writeDirectory.readByte a = s.readByte a :=
  foldl_readByte (fun g _ t => by
    obtain ⟨hhi, hgeneral, -⟩ := groupOffset_bounds g
    exact State.readByte_writeGroup_of_outside (by omega)) s

theorem State.writeDirectory_records (s : State) : s.writeDirectory.records = s.records :=
  foldl_records State.writeGroup_records _ s

/-- A read count of four zero bytes is 0. -/
theorem State.readCount_of_zeros (h : ∀ a, 8 ≤ a → a < 12 → s.readByte a = 0) : s.readCount = 0 := by
  have hbytes : s.readBytes 8 4 = [0, 0, 0, 0] := by
    simp only [State.readBytes, h 8 (by omega) (by omega), h (8 + 1) (by omega) (by omega),
      h (8 + 1 + 1) (by omega) (by omega), h (8 + 1 + 1 + 1) (by omega) (by omega)]
  rw [State.readCount, State.readNat, readCountOffset, hbytes]
  rfl

/-- A journal nothing was written in or read from has room. -/
theorem State.journalRoom_of_zero (hwrite : s.writeCount = 0) (hread : s.readCount = 0) : s.journalRoom = true := by
  have hbacklog : s.backlog = 0 := by rw [State.backlog, hread, hwrite, two32]
  have hplaces : Config.journalPlaces = 512 := rfl
  simp only [State.journalRoom, hbacklog, hplaces, decide_eq_true_eq]
  omega

/-- The MODE entry of the change into SETUP. -/
def State.setupEntry (s : State) : JournalEntry := modeEntry .setup .resetting s.resetCause.code

/-- SETUP, the directory's mode shown and the MODE entry alone in the holding queue. -/
def State.setupHeld (s : State) : State :=
  (State.writeGroup { State.writeGroup { s with mode := .setup } Group.general with holding := [s.setupEntry] }
    Group.journal).raise .jfull

theorem State.setupHeld_records (s : State) :
    s.setupHeld.records = State.records { s with mode := .setup, holding := [s.setupEntry] } := by
  have hgeneral := State.writeGroup_records { s with mode := .setup } Group.general
  rw [State.setupHeld, State.raise_records, State.writeGroup_records]
  generalize State.writeGroup { s with mode := .setup } Group.general = t at hgeneral
  calc State.records { t with holding := [s.setupEntry] }
      = { t.records with holding := [s.setupEntry] } := rfl
    _ = _ := by rw [hgeneral]; rfl

theorem State.readByte_setupHeld {a : Nat} (h : 8 ≤ a) (hjournal : a < 0x10 ∨ 0x20 ≤ a) :
    s.setupHeld.readByte a = s.readByte a := by
  have hgeneral : a < groupOffset Group.general ∨ groupOffset Group.general + groupBodySize Group.general + 2 ≤ a := .inr h
  have hgroup : a < groupOffset Group.journal ∨ groupOffset Group.journal + groupBodySize Group.journal + 2 ≤ a := hjournal
  have hread : (State.writeGroup { s with mode := .setup } Group.general).readByte a = s.readByte a :=
    State.readByte_writeGroup_of_outside hgeneral
  rw [State.setupHeld, State.readByte_raise, State.readByte_writeGroup_of_outside hgroup, ← hread]
  generalize State.writeGroup { s with mode := .setup } Group.general = t
  rfl

/-- The General group shows the mode SETUP, the reset cause and the cranes fitted. -/
theorem State.readByte_setupHeld_general {i : Nat} (h : i < 6) :
    s.setupHeld.readByte (1 + i) = (groupBody { s with mode := .setup } Group.general).getD i 0 := by
  have hgroup : 1 + i < groupOffset Group.journal ∨ groupOffset Group.journal + groupBodySize Group.journal + 2 ≤ 1 + i :=
    .inl (show 1 + i < 0x10 by omega)
  have hread := State.readByte_writeGroup_body (s := { s with mode := .setup }) (g := Group.general) h
  rw [← hread, show groupOffset Group.general + 1 + i = 1 + i from congrArg (· + i) (Nat.zero_add 1), State.setupHeld,
    State.readByte_raise, State.readByte_writeGroup_of_outside hgroup]
  generalize State.writeGroup { s with mode := .setup } Group.general = t
  rfl

/-- The same with the queue emptied, the entry about to be written. -/
def State.setupFlushed (s : State) : State := { s.setupHeld with holding := [] }

theorem State.setupFlushed_records (s : State) :
    s.setupFlushed.records = State.records { s with mode := .setup, holding := [] } := by
  have hrecords := s.setupHeld_records
  rw [State.setupFlushed]
  generalize s.setupHeld = t at hrecords
  calc State.records { t with holding := [] }
      = { t.records with holding := [] } := rfl
    _ = _ := by rw [hrecords]; rfl

theorem State.readByte_setupFlushed (s : State) (a : Nat) : s.setupFlushed.readByte a = s.setupHeld.readByte a := by
  rw [State.setupFlushed]
  generalize s.setupHeld = t
  rfl

theorem State.flush_setupHeld (hroom : s.setupHeld.journalRoom = true) :
    s.setupHeld.flush = s.setupFlushed.writeEntry s.setupEntry := by
  rw [State.setupFlushed]
  exact State.flush_of_one (State.of_records State.holding s.setupHeld_records) hroom

theorem State.headEntry_setup (hheld : s.holding = []) :
    State.headEntry (State.writeGroup { s with mode := .setup } Group.general) s.setupEntry = s.setupHeld := by
  have hrecords := State.writeGroup_records { s with mode := .setup } Group.general
  have hempty : (State.writeGroup { s with mode := .setup } Group.general).holding = [] :=
    (State.of_records State.holding hrecords).trans hheld
  unfold State.headEntry State.setupHeld
  rw [hempty]
  rfl

/-- The change into SETUP with nothing held and room in the journal: the MODE entry is written at once. -/
theorem State.enterSetup_of_room (hheld : s.holding = []) (hroom : s.setupHeld.journalRoom = true) :
    s.enterSetup = (s.setupFlushed.writeEntry s.setupEntry).raise .mode := by
  rw [← State.flush_setupHeld hroom, ← State.headEntry_setup hheld]
  rfl

theorem State.setupWritten_records (s : State) : ((s.setupFlushed.writeEntry s.setupEntry).raise .mode).records =
    State.records { s with mode := .setup, holding := [], writeCount := (s.writeCount + 1) % two32 } := by
  have hwrite := s.setupFlushed.writeEntry_records s.setupEntry
  have hrecords := s.setupFlushed_records
  rw [State.raise_records, hwrite]
  generalize s.setupFlushed = t at hrecords
  exact State.of_records (t := t) (u := { s with mode := .setup, holding := [] })
    (fun x => State.records { x with writeCount := (x.writeCount + 1) % two32 }) hrecords

/-- The first entry stands in the first place of the ring under the number 1. -/
theorem State.readBytes_writeEntry_first (h : s.writeCount = 0) (e : JournalEntry) :
    ((s.writeEntry e).raise .mode).readBytes 0x9000 32 = e.bytes 1 := by
  have hread := s.readBytes_writeEntry e
  rw [h] at hread
  exact (State.readBytes_congr _ _ _ fun _ _ => State.readByte_raise ..).trans hread

theorem State.firstCount_records (h : s.writeCount = 0) :
    State.records { s with mode := .setup, holding := [], writeCount := (s.writeCount + 1) % two32 } =
      State.records { s with mode := .setup, holding := [], writeCount := 1 } := by
  rw [h]
  rfl

theorem State.completeClearing_of_resetting (h : s.mode = .resetting) :
    s.completeClearing = s.clearRest.writeDirectory.enterSetup := by
  rw [State.completeClearing, if_pos h]

theorem exec_clearingComplete (h : s.mode = .resetting) :
    exec .clearingComplete s = .next s.begin.clearRest.writeDirectory.enterSetup := by
  rw [← State.completeClearing_of_resetting (s := s.begin) h]
  rfl

/-- Settles O3: the clearing, the directory, and the MODE entry as the journal's first. -/
theorem clearingCompleteEntersSetup : Obligations.ClearingCompleteEntersSetup := by
  intro s hmode hheld hcount hclear
  generalize hdirectory : s.begin.clearRest.writeDirectory = w
  have hrecords : w.records = s.begin.clearRest.records := hdirectory ▸ State.writeDirectory_records _
  have hbytes {a : Nat} (h : 0x310 ≤ a ∨ 8 ≤ a ∧ a < 0x10) :
      w.readByte a = if a < s.clearedTo then s.readByte a else 0 := by
    rw [← hdirectory, State.readByte_writeDirectory h, State.readByte_clearRest]
    rfl
  have hwheld : w.holding = [] := (State.of_records State.holding hrecords).trans hheld
  have hsetup : w.setupHeld.records = State.records { w with mode := .setup, holding := [w.setupEntry] } :=
    w.setupHeld_records
  have hread : w.setupHeld.readCount = 0 := State.readCount_of_zeros fun a hlo hhi => by
    rw [State.readByte_setupHeld hlo (by omega), hbytes (by omega)]
    split
    · exact hclear a hlo hhi ‹_›
    · rfl
  have hwcount : w.setupHeld.writeCount = 0 :=
    (State.of_records (u := { w with mode := .setup, holding := [w.setupEntry] }) State.writeCount hsetup).trans
      ((State.of_records State.writeCount hrecords).trans hcount)
  have hroom := State.journalRoom_of_zero hwcount hread
  have hexec : exec .clearingComplete s =
      .next ((w.setupFlushed.writeEntry w.setupEntry).raise .mode) := by
    rw [← State.enterSetup_of_room hwheld hroom, ← hdirectory]
    exact exec_clearingComplete hmode
  have hcause : w.resetCause = s.resetCause := State.of_records (u := s.begin.clearRest) State.resetCause hrecords
  have hstraps : w.straps = s.straps := State.of_records (u := s.begin.clearRest) State.straps hrecords
  have hentry : w.setupEntry = modeEntry .setup .resetting s.resetCause.code :=
    congrArg (fun c : ResetCause => modeEntry .setup .resetting c.code) hcause
  have hfcount : w.setupFlushed.writeCount = 0 :=
    (State.of_records (u := { w with mode := .setup, holding := [] }) State.writeCount w.setupFlushed_records).trans
      ((State.of_records State.writeCount hrecords).trans hcount)
  have hout {a : Nat} (h : 0x310 ≤ a ∨ a < 0x10) (hring : journalByte a = false) :
      ((w.setupFlushed.writeEntry w.setupEntry).raise .mode).readByte a = w.setupHeld.readByte a := by
    have hplace := journalOffset_bounds w.setupFlushed.writeCount
    simp only [journalByte, decide_eq_false_iff_not] at hring
    rw [State.readByte_raise, State.readByte_writeEntry_of_outside (by omega) (by omega), State.readByte_setupFlushed]
  have hwindow {a : Nat} (h : 0x310 ≤ a) (hring : journalByte a = false) :
      ((w.setupFlushed.writeEntry w.setupEntry).raise .mode).readByte a = if a < s.clearedTo then s.readByte a else 0 := by
    rw [hout (.inl h) hring, State.readByte_setupHeld (by omega) (by omega), hbytes (.inl h)]
  have hgeneral {i : Nat} (h : i < 6) : ((w.setupFlushed.writeEntry w.setupEntry).raise .mode).readByte (1 + i) =
      (groupBody { w with mode := .setup } Group.general).getD i 0 := by
    rw [hout (.inr (by omega)) (by simp [journalByte]; omega), State.readByte_setupHeld_general h]
  refine ⟨_, hexec, fun a hlo hwin hring => ?_, fun a hlo hwin hring => ?_, ?_, ?_, ?_, ?_, State.raised_raise _ _, ?_, ?_⟩
  · rw [hwindow hwin hring, if_neg (by omega)]
  · rw [hwindow hwin hring, if_pos hlo]
  · exact hgeneral (i := 0) (by omega)
  · rw [hgeneral (i := 1) (by omega), ← hcause]
    rfl
  · rw [hgeneral (i := 2) (by omega), ← hstraps]
    rfl
  · exact (State.readBytes_writeEntry_first hfcount w.setupEntry).trans (congrArg (JournalEntry.bytes · 1) hentry)
  · refine State.raised_mono ?_
    rw [State.writeEntry_eq]
    exact State.raised_raise _ _
  · have hfinal := (w.setupWritten_records).trans (State.of_records
      (fun x => State.records { x with mode := .setup, holding := [], writeCount := (x.writeCount + 1) % two32 }) hrecords)
    exact hfinal.trans (State.firstCount_records (s := s.begin.clearRest) hcount)

end Sys2Proof.Machine
end

section
/-! PROOF. Intake and a lost answer: what is taken, what is skipped, and what the intake group shows (R177, R183, R184). -/

namespace Sys2Proof.Machine

variable {s t u : State} {n : Nat}

/-! ## Skips (R177, R183) -/

theorem State.skipCell_records (s : State) (n cause b : Nat) :
    (s.skipCell n cause b).records =
      State.records { s with lastSkip := { cell := n, cause := cause, stateByte := b } } := by
  rw [State.skipCell, State.raise_records, State.writeGroup_records]

theorem State.skipCell_flags (s : State) (n cause b : Nat) :
    (s.skipCell n cause b).flags = s.flags ||| Notice.postskip.mask := by
  rw [State.skipCell, State.raise, State.writeGroup_flags]

theorem State.skipCell_touched (s : State) (n cause b : Nat) : (s.skipCell n cause b).touched = s.touched := by
  rw [State.skipCell, State.raise_touched, State.writeGroup_touched]

/-- A skip writes the intake group alone. -/
theorem State.readByte_skipCell_of_outside {cause b a : Nat} (h : a < 0x20 ∨ 0x30 ≤ a) :
    (s.skipCell n cause b).readByte a = s.readByte a := by
  have hgroup : a < groupOffset Group.intake ∨ groupOffset Group.intake + groupBodySize Group.intake + 2 ≤ a := h
  rw [State.skipCell, State.readByte_raise, State.readByte_writeGroup_of_outside hgroup]
  exact State.readByte_congr rfl a

theorem State.readByte_skipCell {cause b i : Nat} (hi : i < 14) :
    (s.skipCell n cause b).readByte (0x21 + i) =
      (groupBody { s with lastSkip := { cell := n, cause := cause, stateByte := b } } Group.intake).getD i 0 := by
  rw [State.skipCell, State.readByte_raise]
  exact State.readByte_writeGroup_body (g := Group.intake) hi

/-- The intake group's first fields are the skip's (11.5). -/
theorem State.skipCell_shows (s : State) (n cause b : Nat) :
    (s.skipCell n cause b).readByte 0x21 = byte n ∧ (s.skipCell n cause b).readByte 0x22 = byte cause ∧
      (s.skipCell n cause b).readByte 0x23 = byte b :=
  ⟨State.readByte_skipCell (i := 0) (by omega), State.readByte_skipCell (i := 1) (by omega),
    State.readByte_skipCell (i := 2) (by omega)⟩

theorem byte_toNat (b : Byte) : byte b.toNat = b := BitVec.ofNat_toNat .. |>.trans (BitVec.setWidth_eq b)

/-! ## The next cell (R183) -/

/-- The state in which intake deals with the next cell of its head descriptor. -/
def State.atNextCell (s : State) (d : Descriptor) (rest : List Descriptor) : State :=
  { s with posts := { d with dealt := d.dealt + 1 } :: rest }

/-- What intake does with the next cell. -/
def State.dealWith (s : State) (n : Nat) : State :=
  if s.cellState n = 1 then s.takeCell n else s.skipCell n 1 (s.cellState n)

theorem intakeCell_of_head {d : Descriptor} {rest : List Descriptor} (hmode : s.mode ≠ .resetting)
    (horder : s.modeOrder = none) (hposts : s.posts = d :: rest) :
    s.intakeCell = if ((s.atNextCell d rest).dealWith (d.first + d.dealt)).modeOrder.isSome
      then (s.atNextCell d rest).dealWith (d.first + d.dealt)
      else ((s.atNextCell d rest).dealWith (d.first + d.dealt)).dropDealt := by
  unfold State.intakeCell
  rw [hposts]
  dsimp only
  rw [if_neg (by simp [hmode, horder])]
  rfl

theorem dealWith_of_not_filled (h : s.readByte (cellOffset n) ≠ 1) :
    s.dealWith n = s.skipCell n 1 (s.readByte (cellOffset n)).toNat :=
  if_neg fun hstate => h (BitVec.eq_of_toNat_eq hstate)

theorem dealWith_of_filled (h : s.readByte (cellOffset n) = 1) : s.dealWith n = s.takeCell n :=
  if_pos (by rw [State.cellState, h]; rfl)

/-- The skip of a cell that is not FILLED, as intake leaves it. -/
theorem intakeCell_of_not_filled {d : Descriptor} {rest : List Descriptor} (hmode : s.mode ≠ .resetting)
    (horder : s.modeOrder = none) (hposts : s.posts = d :: rest)
    (hstate : s.readByte (cellOffset (d.first + d.dealt)) ≠ 1) :
    s.intakeCell = ((s.atNextCell d rest).skipCell (d.first + d.dealt) 1
      (s.readByte (cellOffset (d.first + d.dealt))).toNat).dropDealt := by
  have hdealt : (s.atNextCell d rest).dealWith (d.first + d.dealt) =
      (s.atNextCell d rest).skipCell (d.first + d.dealt) 1 (s.readByte (cellOffset (d.first + d.dealt))).toNat :=
    dealWith_of_not_filled (s := s.atNextCell d rest) hstate
  rw [intakeCell_of_head hmode horder hposts, hdealt]
  generalize hskip : (s.atNextCell d rest).skipCell (d.first + d.dealt) 1
    (s.readByte (cellOffset (d.first + d.dealt))).toNat = t
  have hnone : t.modeOrder = none :=
    hskip ▸ (State.of_records (u := { s.atNextCell d rest with
      lastSkip := ⟨d.first + d.dealt, 1, (s.readByte (cellOffset (d.first + d.dealt))).toNat⟩ })
      State.modeOrder (State.skipCell_records ..)).trans horder
  rw [hnone]
  rfl

/-! ## A taken cell (R183, R184) -/

/-- A cell marked TAKEN under the take counter, which moves on. -/
def State.marked (s : State) (n : Nat) : State :=
  { (s.writeByte (cellOffset n) 2).writeBytes (cellOffset n + 8) (leBytes 4 s.takeCounter) with
    takeCounter := nextTake s.takeCounter }

theorem State.marked_eq (s : State) (n : Nat) :
    s.marked n = { s with mem := (s.marked n).mem, takeCounter := nextTake s.takeCounter } := by
  unfold State.marked
  rw [State.writeBytes_eq_mem]
  rfl

theorem State.readByte_marked (s : State) (n a : Nat) : (s.marked n).readByte a =
    if cellOffset n + 8 ≤ a ∧ a < cellOffset n + 12 then (leBytes 4 s.takeCounter).getD (a - (cellOffset n + 8)) 0
    else if a = cellOffset n then 2 else s.readByte a := by
  have hwrite := State.readByte_writeBytes (leBytes 4 s.takeCounter) (s.writeByte (cellOffset n) 2) (cellOffset n + 8) a
  rw [leBytes_length, State.readByte_writeByte, Nat.add_assoc] at hwrite
  exact (State.readByte_congr (by rw [State.marked]) a).trans hwrite

theorem State.readBytes_marked_take (s : State) (n : Nat) :
    (s.marked n).readBytes (cellOffset n + 8) 4 = leBytes 4 s.takeCounter := by
  have hread := State.readBytes_writeBytes (leBytes 4 s.takeCounter) (s.writeByte (cellOffset n) 2) (cellOffset n + 8)
  rw [leBytes_length] at hread
  exact (State.readBytes_congr _ _ _ fun i _ => State.readByte_congr (by rw [State.marked]) _).trans hread

/-- The order stands in the cell as before the take: kind, tag and body are not marked. -/
theorem State.copyOrder_marked (s : State) (n take : Nat) : (s.marked n).copyOrder n take = s.copyOrder n take := by
  have hread (off len : Nat) (h : off + len ≤ cellOffset n + 8 ∧ cellOffset n < off ∨ cellOffset n + 12 ≤ off) :
      (s.marked n).readBytes off len = s.readBytes off len :=
    State.readBytes_congr _ _ _ fun i hi => by rw [State.readByte_marked, if_neg (by omega), if_neg (by omega)]
  simp only [State.copyOrder, State.readNat, hread (cellOffset n + 1) 1 (by omega), hread (cellOffset n + 4) 2 (by omega),
    hread (cellOffset n + 16) 112 (by omega)]

theorem State.takeCell_eq (s : State) (n : Nat) :
    s.takeCell n = (s.marked n).dispatchOrder (s.copyOrder n s.takeCounter) := by
  rw [← State.copyOrder_marked]
  unfold State.takeCell State.marked
  rfl

/-- A marked cell is of its take. -/
theorem State.cellIsOf_marked (s : State) (n : Nat) (htake : s.takeCounter < 4294967296) :
    (s.marked n).cellIsOf n s.takeCounter = true := by
  have hstate : (s.marked n).cellState n = 2 := by
    rw [State.cellState, State.readByte_marked, if_neg (by omega), if_pos rfl]
    rfl
  have hcount : (s.marked n).cellTake n = s.takeCounter := by
    rw [State.cellTake, State.readNat, State.readBytes_marked_take, leNat_leBytes]
    exact Nat.mod_eq_of_lt htake
  rw [State.cellIsOf, hstate, hcount]
  simp

theorem State.dispatchOrder_of_refused {o : Order} {a : Answer}
    (h : kindRow o.kind = none ∧ a = { code := .badKind } ∨
      ∃ r, kindRow o.kind = some r ∧ r.allowed s.mode = false ∧ a = .wrongMode s.mode) :
    s.dispatchOrder o = s.reply o a := by
  rcases h with ⟨hkind, rfl⟩ | ⟨r, hkind, hallowed, rfl⟩
  · rw [State.dispatchOrder, hkind]
  · rw [State.dispatchOrder, hkind]
    dsimp only
    rw [hallowed, if_neg Bool.false_ne_true]

theorem State.dispatchOrder_of_allowed {o : Order} {r : KindRow} (hkind : kindRow o.kind = some r)
    (hallowed : r.allowed s.mode = true) (horder : s.modeOrder = none) :
    s.dispatchOrder o = s.setInbound r.owner (s.inbound r.owner ++ [o]) := by
  have hover : s.handOver r.owner o = s.setInbound r.owner (s.inbound r.owner ++ [o]) := by
    cases r.owner <;> simp [State.handOver, State.setInbound, State.inbound, horder]
  rw [State.dispatchOrder, hkind, ← hover]
  exact if_pos hallowed

/-- Settles O9: the cell is marked, its order copied and handed to its owner. -/
theorem intakeTakesAFilledCell : Obligations.IntakeTakesAFilledCell := by
  intro s d rest r n o hmode horder hposts hn hfilled hkind hallowed
  have hdealt : (s.begin.atNextCell d rest).dealWith n = ((s.begin.atNextCell d rest).marked n).setInbound r.owner
      (s.inbound r.owner ++ [o]) := by
    have hrow : kindRow ((s.begin.atNextCell d rest).copyOrder n s.takeCounter).kind = some r := hkind
    have hmarked := State.marked_eq (s.begin.atNextCell d rest) n
    rw [dealWith_of_filled (s := s.begin.atNextCell d rest) hfilled, State.takeCell_eq]
    generalize (s.begin.atNextCell d rest).marked n = m at hmarked ⊢
    have hlist : m.inbound r.owner = s.inbound r.owner := by rw [hmarked]; cases r.owner <;> rfl
    have hdispatch := State.dispatchOrder_of_allowed (s := m) hrow (by rw [hmarked]; exact hallowed)
      (by rw [hmarked]; exact horder)
    rw [hlist] at hdispatch
    exact hdispatch
  have hmarked := State.marked_eq (s.begin.atNextCell d rest) n
  have hbytes := State.readByte_marked (s.begin.atNextCell d rest) n
  have htake := State.readBytes_marked_take (s.begin.atNextCell d rest) n
  have hhead := intakeCell_of_head (s := s.begin) hmode horder hposts
  rw [hdealt] at hhead
  generalize (s.begin.atNextCell d rest).marked n = m at hmarked hbytes htake hhead
  have hgoing : (if r.owner ≠ .xp ∧ d.count ≤ d.dealt + 1 then rest else { d with dealt := d.dealt + 1 } :: rest) =
      if r.owner = .xp then { d with dealt := d.dealt + 1 } :: rest
      else postsGoingOn ({ d with dealt := d.dealt + 1 } :: rest) := by
    by_cases hxp : r.owner = .xp
    · rw [if_neg (fun h => h.1 hxp), if_pos hxp]
    · simp only [hxp, ne_eq, not_false_eq_true, true_and, if_false, postsGoingOn]
  rw [hgoing]
  generalize hfinal : State.setInbound { m with
    posts := if r.owner = .xp then { d with dealt := d.dealt + 1 } :: rest
      else postsGoingOn ({ d with dealt := d.dealt + 1 } :: rest) } r.owner (s.inbound r.owner ++ [o]) = t
  have hintake : s.begin.intakeCell = t := by
    have hxp : (m.setInbound r.owner (s.inbound r.owner ++ [o])).modeOrder.isSome = decide (r.owner = .xp) := by
      rw [hmarked]
      cases r.owner <;> simp [State.setInbound, State.inbound, State.atNextCell, State.begin, horder]
    rw [hhead, hxp, State.dropDealt_eq, ← hfinal, hmarked]
    cases r.owner <;> rfl
  have hport : t.withoutPort = s.begin.withoutPort ∧ t.touched = {} ∧ t.flags = s.flags ∧ t.mem = m.mem := by
    rw [← hfinal, hmarked]
    cases r.owner <;> exact ⟨rfl, rfl, rfl, rfl⟩
  have hread (a : Nat) : t.readByte a = m.readByte a := State.readByte_congr hport.2.2.2 a
  refine ⟨t, ?_, ?_, hport.2.2.1, ?_, ?_, fun a hstate hcount => ?_⟩
  · rw [← hintake] at hport ⊢
    exact handle_of_withoutPort_eq hport.1 hport.2.1
  · rw [← hfinal, hmarked]
    cases r.owner <;> rfl
  · rw [hread, hbytes, if_neg (by omega), if_pos rfl]
  · rw [← State.readBytes_congr (s := t) (t := m) 4 _ fun i _ => hread _] at htake
    exact htake
  · rw [hread, hbytes, if_neg (by omega), if_neg hstate]
    rfl

theorem State.reply_touched {o : Order} (h : s.cellIsOf o.cell o.take = true) (a : Answer) :
    (s.reply o a).touched = s.touched := by
  rw [State.reply_eq h, State.writeAnswer_raise_eq]

/-- What intake leaves where it hands nothing on: the records with the queue going on, the rest as it was left. -/
theorem exec_intake_of_dropDealt (hintake : s.begin.intakeCell = u.dropDealt)
    (hport : u.withoutPort = s.begin.withoutPort) (hnoted : u.touched = {}) :
    ∃ t, exec .intake s = .next t ∧ t.records = State.records { u with posts := postsGoingOn u.posts } ∧
      t.flags = u.flags ∧ ∀ a, t.readByte a = u.readByte a := by
  rw [State.dropDealt_eq] at hintake
  refine ⟨{ u with posts := postsGoingOn u.posts }, ?_, rfl, rfl, fun _ => rfl⟩
  rw [← hintake]
  exact handle_of_withoutPort_eq (by rw [hintake]; exact hport) (by rw [hintake]; exact hnoted)

/-- Settles O10: the skip, and the two answers of XP's checks. -/
theorem intakeSkipsOrRefuses : Obligations.IntakeSkipsOrRefuses := by
  refine ⟨?_, ?_⟩
  · intro s d rest n hmode horder hposts hn hstate
    have hintake := intakeCell_of_not_filled (s := s.begin) hmode horder hposts hstate
    have hrecords := State.skipCell_records (s.begin.atNextCell d rest) n 1 (s.readByte (cellOffset n)).toNat
    have hflags := State.skipCell_flags (s.begin.atNextCell d rest) n 1 (s.readByte (cellOffset n)).toNat
    have hnoted := State.skipCell_touched (s.begin.atNextCell d rest) n 1 (s.readByte (cellOffset n)).toNat
    have hbytes {a : Nat} (h : a < 0x20 ∨ 0x30 ≤ a) := State.readByte_skipCell_of_outside
      (s := s.begin.atNextCell d rest) (n := n) (cause := 1) (b := (s.readByte (cellOffset n)).toNat) h
    obtain ⟨hcell, hcause, hbyte⟩ := State.skipCell_shows (s.begin.atNextCell d rest) n 1 (s.readByte (cellOffset n)).toNat
    change s.begin.intakeCell = ((s.begin.atNextCell d rest).skipCell n 1 (s.readByte (cellOffset n)).toNat).dropDealt
      at hintake
    generalize (s.begin.atNextCell d rest).skipCell n 1 (s.readByte (cellOffset n)).toNat = u at *
    have hport : u.withoutPort = s.begin.withoutPort := by rw [← State.withoutPort_records, hrecords]; rfl
    obtain ⟨t, hnext, htrecords, htflags, hread⟩ := exec_intake_of_dropDealt hintake hport hnoted
    refine ⟨t, hnext, ?_, htflags.trans hflags, fun b hb _ => ?_, (hread _).trans hcell, (hread _).trans hcause,
      (hread _).trans (hbyte.trans (byte_toNat _))⟩
    · exact htrecords.trans (State.of_records (u := { s.begin.atNextCell d rest with
        lastSkip := ⟨n, 1, (s.readByte (cellOffset n)).toNat⟩ })
        (fun x => State.records { x with posts := postsGoingOn x.posts }) hrecords)
    · have := publishedOffset_eq_false hb
      exact (hread b).trans (hbytes (by omega))
  · intro s d rest a n kind hmode horder hposts hn hfilled htake hrefused
    have hcurrent : ((s.begin.atNextCell d rest).marked n).cellIsOf n s.takeCounter = true :=
      State.cellIsOf_marked (s.begin.atNextCell d rest) n htake
    have hmarked := State.marked_eq (s.begin.atNextCell d rest) n
    have hbytes := State.readByte_marked (s.begin.atNextCell d rest) n
    have hcount := State.readBytes_marked_take (s.begin.atNextCell d rest) n
    have hhead := intakeCell_of_head (s := s.begin) hmode horder hposts
    rw [dealWith_of_filled (s := s.begin.atNextCell d rest) hfilled, State.takeCell_eq,
      State.dispatchOrder_of_refused (a := a) (by rw [State.marked_eq]; exact hrefused)] at hhead
    change s.begin.intakeCell = if (((s.begin.atNextCell d rest).marked n).reply (s.copyOrder n s.takeCounter) a).modeOrder.isSome
      then ((s.begin.atNextCell d rest).marked n).reply (s.copyOrder n s.takeCounter) a
      else (((s.begin.atNextCell d rest).marked n).reply (s.copyOrder n s.takeCounter) a).dropDealt at hhead
    generalize (s.begin.atNextCell d rest).marked n = m at hmarked hbytes hcount hhead hcurrent
    have hrecords := State.reply_records (o := s.copyOrder n s.takeCounter) hcurrent a
    have hflags := State.reply_flags (o := s.copyOrder n s.takeCounter) hcurrent a
    have hnoted := State.reply_touched (o := s.copyOrder n s.takeCounter) hcurrent a
    have hwritten := State.reply_readByte (o := s.copyOrder n s.takeCounter) hcurrent a
    have hshown (t : State) := State.reply_shows (t := t) (o := s.copyOrder n s.takeCounter) (a := a) hcurrent
    generalize m.reply (s.copyOrder n s.takeCounter) a = u at *
    have hmrecords : m.records = State.records { s.begin.atNextCell d rest with
        takeCounter := if s.takeCounter = 4294967295 then 1 else s.takeCounter + 1 } := by rw [hmarked]; rfl
    have hnone : u.modeOrder = none :=
      (State.of_records State.modeOrder hrecords).trans (by rw [hmarked]; exact horder)
    have hport : u.withoutPort = s.begin.withoutPort := by
      rw [← State.withoutPort_records, hrecords, hmrecords]; rfl
    rw [hnone, Option.isSome_none, if_neg Bool.false_ne_true] at hhead
    obtain ⟨t, hnext, htrecords, htflags, hread⟩ :=
      exec_intake_of_dropDealt hhead hport (hnoted.trans (by rw [hmarked]; rfl))
    have hfrom {b : Nat} (hb : answerByte n b = false) : t.readByte b = m.readByte b :=
      (hread b).trans ((hwritten b).trans (State.readByte_writeAnswer_of_outside hb))
    refine ⟨t, hnext, htrecords.trans ?_, ?_, hshown t fun b _ _ => hread b, ?_, fun b hb hout => ?_⟩
    · exact State.of_records (t := u) (u := { s.begin.atNextCell d rest with
        takeCounter := if s.takeCounter = 4294967295 then 1 else s.takeCounter + 1 })
        (fun x => State.records { x with posts := postsGoingOn x.posts }) (hrecords.trans hmrecords)
    · rw [htflags, hflags, hmarked]
      rfl
    · rw [State.readBytes_congr (t := m) _ _ _ fun i hi => hfrom (by simp [answerByte]; omega)]
      exact hcount
    · have hstate := (answerByte_eq_false hb).1
      rw [hfrom hb, hbytes, if_neg hout, if_neg hstate]
      rfl

end Sys2Proof.Machine
end

section
/-! PROOF. Orders about coils, stations, columns and policy (R1 to R19, R24, R60, R61). -/

namespace Sys2Proof.Machine

variable {s t u : State} {o : Order} {a : Answer} {r : Nat} {c : Coil}

/-! ## The coil an order names -/

theorem State.withCoil_of_known {f : Nat → Coil → State} (hr : s.recordOf (Body.coilId o.body) = some r)
    (hc : s.coil? r = some c) : s.withCoil o f = f r c := by
  simp only [State.withCoil, hr, hc]

theorem State.withCoil_of_unknown {f : Nat → Coil → State} (hr : s.recordOf (Body.coilId o.body) = none) :
    s.withCoil o f = s.reply o (.unknownCoil (Body.coilId o.body)) := by
  simp only [State.withCoil, hr]

theorem takeOrder_of_kind {w : Owner} {k : Nat} {rest : List Order} {f : State → Order → State}
    (hlist : s.inbound w = o :: rest) (hkind : o.kind = k) : takeOrder w k f s = f (s.setInbound w rest) o := by
  rw [← hkind, takeOrder_head hlist]

/-- A change of the quality hold that is not refused. -/
theorem State.holdOrder_of_allowed (hvalue : Body.holdValue o.body ≤ 1) (hr : s.recordOf (Body.coilId o.body) = some r)
    (hc : s.coil? r = some c) (hfree : ¬(Body.holdValue o.body = 1 ∧ c.outbound = true)) :
    s.holdOrder o = (s.setCoil r { c with qualityHold := Body.holdValue o.body == 1 }).reply o .ok := by
  rw [State.holdOrder, if_neg (by omega), State.withCoil_of_known hr hc, if_neg hfree]

theorem State.holdOrder_of_outbound (hvalue : Body.holdValue o.body = 1) (hr : s.recordOf (Body.coilId o.body) = some r)
    (hc : s.coil? r = some c) (hout : c.outbound = true) : s.holdOrder o = s.reply o (.coilState c.id) := by
  rw [State.holdOrder, if_neg (by omega), State.withCoil_of_known hr hc, if_pos ⟨hvalue, hout⟩]

/-- Settles O11: the work of HOLD_COIL stands, and its answer is the skip of a lost one. -/
theorem holdCoilWorkStandsWithoutItsAnswer : Obligations.HoldCoilWorkStandsWithoutItsAnswer := by
  intro s o rest r c hlist hkind hcell hlost hmode hvalue hr hc
  have htaken : takeOrder .su Kind.holdCoil State.holdOrder s.begin = State.holdOrder (s.begin.setInbound .su rest) o :=
    takeOrder_of_kind (s := s.begin) hlist hkind
  have hhold := State.holdOrder_of_allowed (s := s.begin.setInbound .su rest) (o := o) (r := r) (c := c)
    (by rw [Body.holdValue, hvalue]; omega) hr hc (by rw [Body.holdValue, hvalue]; simp)
  have hset : (s.begin.setInbound .su rest).setCoil r { c with qualityHold := Body.holdValue o.body == 1 } =
      (s.begin.setInbound .su rest).setCoil r { c with qualityHold := false } := by
    rw [Body.holdValue, hvalue]; rfl
  generalize hw : (s.begin.setInbound .su rest).setCoil r { c with qualityHold := false } = w at hset
  have hwmem : w.mem = s.mem := hw ▸ rfl
  have hwlost : w.cellIsOf o.cell o.take = false :=
    (State.cellIsOf_congr fun b _ _ => State.readByte_congr hwmem b).trans hlost
  rw [hset, State.reply, State.answer_lost hwlost] at hhold
  have hread : w.cellState o.cell = (s.readByte (cellOffset o.cell)).toNat :=
    congrArg BitVec.toNat (State.readByte_congr hwmem _)
  obtain ⟨t, hnext, hrecords, hflags, hbytes⟩ := handle_effect (takeOrder .su Kind.holdCoil State.holdOrder) s
  rw [htaken, hhold, hread] at hrecords hflags hbytes
  rw [State.skipCell_records] at hrecords
  rw [State.skipCell_flags] at hflags
  obtain ⟨hshown, hcause, hstate⟩ := State.skipCell_shows w o.cell 2 (s.readByte (cellOffset o.cell)).toNat
  have hcoils : t.coils = w.coils := State.of_records
    (u := { w with lastSkip := ⟨o.cell, 2, (s.readByte (cellOffset o.cell)).toNat⟩ }) State.coils hrecords
  have hcoil (q : Nat) : t.coil? q = if q = r then some { c with qualityHold := false } else s.coil? q := by
    rw [State.coil?, hcoils, ← hw]
    exact Tab.find_put ..
  refine ⟨t, hnext, by rw [hcoil, if_pos rfl], fun q hq => by rw [hcoil, if_neg hq], ?_, ?_, fun b hb _ => ?_, ?_, ?_, ?_⟩
  · rw [hrecords, hcoils, ← hw]
    rfl
  · rw [hflags, ← hw]
    rfl
  · have := publishedOffset_eq_false hb
    rw [hbytes b (by omega), State.readByte_skipCell_of_outside (by omega), State.readByte_congr hwmem]
  · rw [hbytes _ (by omega), hshown]
  · rw [hbytes _ (by omega), hcause]
    rfl
  · rw [hbytes _ (by omega), hstate, byte_toNat]

end Sys2Proof.Machine
end

section
/-! PROOF. The orders of the store and of the cranes' tables, each from its own equation (R1 to R19, R24, R60, R61). -/

namespace Sys2Proof.Machine

variable {s t u : State} {o : Order} {a : Answer} {rest : List Order} {r : Nat} {c : Coil}

/-! ## Checked orders -/

theorem State.checked_of_good {bad : Option Nat} {f : State → Order → State} (h : bad = none) :
    s.checked o bad f = f s o := by
  rw [h]
  rfl

theorem State.checked_of_bad {bad : Option Nat} {f : State → Order → State} {n : Nat} (h : bad = some n) :
    s.checked o bad f = s.reply o (.badField n) := by
  rw [h]
  rfl

/-- An order with its fields in range whose handling ends in an answer, nothing written before. -/
theorem checkedOrder_answered {w : Owner} {k : Nat} {bad : Order → Option Nat} {f : State → Order → State}
    (h : TakenUp s w k o rest) (hgood : bad o = none) (hf : f (s.begin.setInbound w rest) o = u.reply o a)
    (hmem : u.mem = s.mem) (hflags : u.flags = s.flags) :
    ∃ t, handle (takeOrder w k fun s o => s.checked o (bad o) f) s = .next t ∧ t.records = u.records ∧ Answered s t o a :=
  takeOrder_answered h ((State.checked_of_good hgood).trans hf) hmem hflags

/-- The same of one that ends in a WORKING write. -/
theorem checkedOrder_working {w : Owner} {k value : Nat} {bad : Order → Option Nat} {f : State → Order → State}
    (h : TakenUp s w k o rest) (hgood : bad o = none)
    (hf : f (s.begin.setInbound w rest) o = u.working o.cell o.take value) (hmem : u.mem = s.mem)
    (hflags : u.flags = s.flags) :
    ∃ t, handle (takeOrder w k fun s o => s.checked o (bad o) f) s = .next t ∧ t.records = u.records ∧
      Working s t o value :=
  takeOrder_working h ((State.checked_of_good hgood).trans hf) hmem hflags

theorem firstBad_eq_none (l : List Bool) (n : Nat) (h : ∀ b ∈ l, b = true) : firstBad n l = none := by
  induction l generalizing n with
  | nil => rfl
  | cons b rest ih =>
    obtain ⟨hb, hrest⟩ := List.forall_mem_cons.mp h
    rw [firstBad, if_pos hb, ih _ hrest]

theorem inRange_iff {lo hi n : Nat} : inRange lo hi n = true ↔ lo ≤ n ∧ n ≤ hi := decide_eq_true_iff

/-! ## UNKNOWN_COIL -/

theorem State.holdOrder_of_unknown (hvalue : Body.holdValue o.body ≤ 1)
    (hr : s.recordOf (Body.coilId o.body) = none) :
    s.holdOrder o = s.reply o (.unknownCoil (Body.coilId o.body)) := by
  rw [State.holdOrder, if_neg (by omega), State.withCoil_of_unknown hr]

/-- Settles O13: each of the five orders looks the id up first. -/
theorem unknownCoilChangesOnlyItsCell : Obligations.UnknownCoilChangesOnlyItsCell := by
  intro p hp s o rest htaken hvalue hfields hr
  have hr' : (s.begin.setInbound .su rest).recordOf (Body.coilId o.body) = none := hr
  have hmove (suits : State → Place → Bool) (h : 1 ≤ fieldNat o.body 0 4 ∧
      (fieldNat o.body 4 2 ≤ 1535 ∨ fieldNat o.body 4 2 = 0xFFFF) ∧ (fieldNat o.body 6 1 ≤ 3 ∨ fieldNat o.body 6 1 = 0xFF)) :
      (s.begin.setInbound .su rest).checked o (Body.moveOrderBad o.body) (State.moveOrder suits) =
        (s.begin.setInbound .su rest).reply o (.unknownCoil (Body.coilId o.body)) := by
    obtain ⟨hid, hslot, hcrane⟩ := h
    rw [State.checked_of_good (Body.moveOrderBad_eq_none hid hslot hcrane), State.moveOrder,
      State.withCoil_of_unknown hr']
  simp only [List.mem_cons, List.not_mem_nil, or_false] at hp
  rcases hp with rfl | rfl | rfl | rfl | rfl
  · exact handle_takeOrder_reply htaken (State.withCoil_of_unknown hr')
  · exact handle_takeOrder_reply htaken (State.holdOrder_of_unknown (hvalue rfl) hr')
  · exact handle_takeOrder_reply htaken (State.withCoil_of_unknown hr')
  · exact handle_takeOrder_reply htaken (hmove _ (hfields (.inl rfl)))
  · exact handle_takeOrder_reply htaken (hmove _ (hfields (.inr rfl)))

/-! ## SET_STATION, SET_POLICY, SET_RUNWAY -/

theorem Body.setStationBad_eq_none {b : Body} (hn : fieldNat b 0 1 ≤ 1) (hx : fieldNat b 2 2 ≤ 60000)
    (hy : fieldNat b 4 2 ≤ 4000) : b.setStationBad = none :=
  firstBad_eq_none _ _ (by simp [inRange, Body.station, hn, hx, hy])

theorem Body.setPolicyBad_eq_none {b : Body} (htol : fieldNat b 0 2 ≤ 500) (hmin : fieldNat b 6 2 ≤ 500)
    (hpm : fieldNat b 8 1 ≤ 100) : b.setPolicyBad = none :=
  firstBad_eq_none _ _ (by simp [inRange, Body.policy, htol, hmin, hpm])

/-- Settles O15: the three orders in range, each one change of one table. -/
theorem stationPolicyAndRunwayTakeTheirValues : Obligations.StationPolicyAndRunwayTakeTheirValues := by
  refine ⟨fun s o rest n htaken hn hrange hx hy => ?_, fun s o rest htaken htol hmin hpm => ?_,
    fun s o rest htaken hspan hhi hmlo hmhi hglo hghi hdlo hdhi hllo hlhi hclo hchi hbay => ?_⟩
  · subst hn
    obtain ⟨t, hnext, hrecords, hanswered⟩ := checkedOrder_answered (f := State.setStationOrder)
      (bad := fun o => Body.setStationBad o.body) htaken (Body.setStationBad_eq_none hrange hx hy) rfl rfl rfl
    have hstation (m : Nat) : t.station m = _ :=
      (State.of_records (fun x => x.station m) hrecords).trans (State.station_setStation ..)
    have hstations := State.of_records State.stations hrecords
    refine ⟨t, hnext, (hstation _).trans (if_pos rfl), fun m hm => (hstation m).trans (if_neg hm), ?_, hanswered⟩
    rw [hrecords, hstations]
    rfl
  · obtain ⟨t, hnext, hrecords, hanswered⟩ := checkedOrder_answered (f := State.setPolicyOrder)
      (bad := fun o => Body.setPolicyBad o.body) htaken (Body.setPolicyBad_eq_none htol hmin hpm) rfl rfl rfl
    exact ⟨t, hnext, hrecords, hanswered⟩
  · have hgood : Body.setRunwayBad o.body = none :=
      firstBad_eq_none _ _ (by
        have hlo : fieldNat o.body 0 2 ≤ 60000 := by omega
        simp [inRange, Body.runway, hlo, hspan, hhi, hmlo, hmhi, hglo, hghi, hdlo, hdhi, hllo, hlhi, hclo, hchi, hbay])
    obtain ⟨t, hnext, hrecords, hanswered⟩ := checkedOrder_answered (f := State.setRunwayOrder)
      (bad := fun o => Body.setRunwayBad o.body) htaken hgood rfl rfl rfl
    exact ⟨t, hnext, hrecords, hanswered⟩

/-! ## HOLD_COIL, QUERY_COIL -/

/-- Settles O19: the flag follows, or the set is refused. -/
theorem holdCoilSetsAndClears : Obligations.HoldCoilSetsAndClears := by
  intro s o rest r c htaken hr hc hvalue
  by_cases hset : fieldNat o.body 4 1 = 1 ∧ c.outbound = true
  · rw [if_pos hset]
    exact handle_takeOrder_reply (f := State.holdOrder) htaken
      (State.holdOrder_of_outbound (s := s.begin.setInbound .su rest) hset.1 hr hc hset.2)
  · rw [if_neg hset]
    obtain ⟨t, hnext, hrecords, hanswered⟩ := takeOrder_answered (f := State.holdOrder) htaken
      (State.holdOrder_of_allowed (s := s.begin.setInbound .su rest) hvalue hr hc hset) rfl rfl
    have hcoil (q : Nat) : t.coil? q = _ :=
      (State.of_records (fun x => x.coil? q) hrecords).trans (State.coil_setCoil ..)
    have hcoils := State.of_records State.coils hrecords
    refine ⟨t, hnext, (hcoil r).trans (if_pos rfl), fun q hq => (hcoil q).trans (if_neg hq), ?_, hanswered⟩
    rw [hrecords, hcoils]
    rfl

/-- A coil image entry's body, written out (11.4). -/
theorem coilImageBody_of_some (hc : s.coil? r = some c) :
    coilImageBody s r = [byte c.status.code,
        byte (c.qualityHold.toNat + 2 * c.outbound.toNat + 4 * c.placeDoubt.toNat), byte c.place.kindCode]
      ++ leBytes 2 c.place.valueCode ++ leBytes 2 c.declared ++ leBytes 2 (c.measured.getD 0xFFFF)
      ++ leBytes 2 c.width ++ leBytes 2 c.diameter ++ [byte c.group, byte (c.move.getD 0xFF)] ++ leBytes 4 c.id
      ++ zeros 11 := by
  rw [coilImageBody, hc]
  rfl

/-- Settles O20: the answer is the record number and the image entry's body. -/
theorem queryCoilShowsTheRecord : Obligations.QueryCoilShowsTheRecord := by
  intro s o rest r c htaken hr hc
  have hbody := coilImageBody_of_some (s := s.begin.setInbound .su rest) hc
  refine handle_takeOrder_reply htaken ?_
  rw [State.queryOrder, State.withCoil_of_known (s := s.begin.setInbound .su rest) hr hc, hbody]
  simp only [List.append_assoc]

end Sys2Proof.Machine
end

section
/-! PROOF. Coils recorded and removed, columns flagged, cranes configured (R4, R13 to R18, R61). -/

namespace Sys2Proof.Machine

variable {s t u : State} {o : Order} {a : Answer} {rest : List Order} {r : Nat} {c : Coil} {p : Place}

/-! ## A new coil's record and place (R13, R16, R17) -/

theorem Tab.lowestFree_of_least {α : Type} {tab : Tab α} (fuel k r : Nat) (hlo : k ≤ r) (hhi : r < k + fuel)
    (hfree : tab.find r = none) (hused : ∀ q, k ≤ q → q < r → (tab.find q).isSome = true) :
    tab.lowestFree fuel k = some r := by
  induction fuel generalizing k with
  | zero => omega
  | succ fuel ih =>
    rw [Tab.lowestFree]
    rcases Nat.eq_or_lt_of_le hlo with rfl | hlt
    · rw [hfree, Option.isNone_none, if_pos rfl]
    · obtain ⟨v, hv⟩ := Option.isSome_iff_exists.mp (hused k (Nat.le_refl k) hlt)
      rw [hv, Option.isNone_some, if_neg Bool.false_ne_true]
      exact ih (k + 1) hlt (by omega) fun q hq => hused q (by omega)

/-- A coil's record made, and its place taken up by it. -/
def State.enterCoil (s : State) (r : Nat) (c : Coil) : State :=
  match c.place with
  | .slot i => (s.setCoil r c).setSlot i { state := .held, coil := some r }
  | .station n => (s.setCoil r c).setStation n { (s.setCoil r c).station n with state := .held, coil := some r }
  | _ => s.setCoil r c

theorem State.registerCoil_of_free (hnew : s.recordOf c.id = none) (hr : r < 2048) (hfree : s.coil? r = none)
    (hused : ∀ q < r, (s.coil? q).isSome = true) : s.registerCoil o c = (s.enterCoil r c).reply o (recordAnswer r) := by
  have hlow : s.coils.lowestFree Config.coilRecords 0 = some r :=
    Tab.lowestFree_of_least _ 0 r (Nat.zero_le r) ((Nat.zero_add _).symm ▸ hr) hfree fun q _ hq => hused q hq
  cases hp : c.place <;> simp only [State.registerCoil, State.enterCoil, hnew, hlow, hp]

theorem State.enterCoil_mem (s : State) (r : Nat) (c : Coil) : (s.enterCoil r c).mem = s.mem := by
  unfold State.enterCoil
  cases c.place <;> rfl

theorem State.enterCoil_flags (s : State) (r : Nat) (c : Coil) : (s.enterCoil r c).flags = s.flags := by
  unfold State.enterCoil
  cases c.place <;> rfl

theorem State.coil_enterCoil (s : State) (r : Nat) (c : Coil) (q : Nat) :
    (s.enterCoil r c).coil? q = if q = r then some c else s.coil? q := by
  unfold State.enterCoil
  cases c.place <;> exact State.coil_setCoil ..

theorem State.slot_enterCoil (s : State) (r : Nat) (c : Coil) (i : Nat) :
    (s.enterCoil r c).slot i = if c.place = .slot i then { state := .held, coil := some r } else s.slot i := by
  unfold State.enterCoil
  cases c.place with
  | slot j => simp only [State.slot_setSlot, State.slot_setCoil, Place.slot.injEq, eq_comm]
  | station n => simp
  | hook k => simp
  | bed b e => simp

theorem State.station_enterCoil (s : State) (r : Nat) (c : Coil) (n : Nat) :
    (s.enterCoil r c).station n =
      if c.place = .station n then { s.station n with state := .held, coil := some r } else s.station n := by
  unfold State.enterCoil
  cases c.place with
  | slot j => simp
  | station m =>
    by_cases h : n = m
    · subst h; simp
    · simp [State.station_setStation, h, Ne.symm h]
  | hook k => simp
  | bed b e => simp

theorem State.enterCoil_records (s : State) (r : Nat) (c : Coil) : (s.enterCoil r c).records = State.records
    { s with
      coils := (s.enterCoil r c).coils, slots := (s.enterCoil r c).slots, stations := (s.enterCoil r c).stations } := by
  unfold State.enterCoil
  cases c.place <;> rfl

theorem Body.coilChecks_pass {b : Body} {off : Nat} (hid : 1 ≤ fieldNat b off 4) (hwlo : 1 ≤ fieldNat b (off + 4) 2)
    (hwhi : fieldNat b (off + 4) 2 ≤ 4500) (hslo : 600 ≤ fieldNat b (off + 6) 2) (hshi : fieldNat b (off + 6) 2 ≤ 2200)
    (hdlo : 800 ≤ fieldNat b (off + 8) 2) (hdhi : fieldNat b (off + 8) 2 ≤ 2500) : ∀ ok ∈ b.coilChecks off, ok = true := by
  simp [Body.coilChecks, coilFieldChecks, Body.coilRecord, inRange, hid, hwlo, hwhi, hslo, hshi, hdlo, hdhi]

/-- The place PLACE_COIL names is the one of its two fields (R17). -/
theorem Body.placeNamed_of_codes {b : Body} (hkind : p.kindCode = fieldNat b 11 1) (hvalue : p.valueCode = fieldNat b 12 2)
    (hbed : ∀ b e, p ≠ .bed b e) : b.placeNamed = some p := by
  unfold Body.placeNamed Body.placeKind Body.placeValue
  rw [← hkind, ← hvalue]
  cases p with
  | slot i => rfl
  | station n => rfl
  | hook k => rfl
  | bed b e => exact absurd rfl (hbed b e)

/-- A place free for PLACE_COIL (R17). -/
def State.placeFree (s : State) : Place → Prop
  | .slot i =>
    i ≤ 1535 ∧ (s.slot i).state ≠ .off ∧ (s.slot i).state ≠ .held ∧
      (12 ≤ i % 24 → i % 24 < 23 → (s.slot (i - 12)).state = .held ∧ (s.slot (i - 11)).state = .held)
  | .station n => n ≤ 1 ∧ (s.station n).configured = true ∧ (s.station n).state ≠ .held
  | .hook k => s.fitted k = true ∧ s.recordAt (.hook k) = none
  | .bed _ _ => False

theorem State.placeRefusal_of_free (h : s.placeFree p) : s.placeRefusal p = none := by
  cases p with
  | slot i =>
    obtain ⟨hi, hoff, hheld, hsupport⟩ := h
    have hupper : (isUpper i && !((s.slot (leftSupport i)).state == .held && (s.slot (rightSupport i)).state == .held)) = false := by
      by_cases hup : 12 ≤ i % 24 ∧ i % 24 < 23
      · obtain ⟨hl, hr⟩ := hsupport hup.1 hup.2
        simp [leftSupport, rightSupport, hl, hr]
      · simp [isUpper, slotPos, hup]
    rw [State.placeRefusal, if_neg (by omega), if_neg (by rw [hupper, Bool.or_false, decide_eq_true_eq]; exact hoff),
      if_neg hheld]
  | station n =>
    obtain ⟨hn, hconf, hheld⟩ := h
    rw [State.placeRefusal, if_neg (by simp [hconf]; omega), if_neg hheld]
  | hook k =>
    obtain ⟨hfitted, hnone⟩ := h
    rw [State.placeRefusal, if_neg (by simp [hfitted]), if_neg (by simp [hnone])]
  | bed b e => exact h.elim

theorem State.placeCoilOrder_of_free (hnamed : Body.placeNamed o.body = some p) (hfree : s.placeFree p) :
    s.placeCoilOrder o = s.registerCoil o (Body.coilRecord o.body 0 p) := by
  unfold State.placeCoilOrder
  dsimp only
  rw [hnamed]
  dsimp only
  rw [State.placeRefusal_of_free hfree]

/-- Settles O16: the fields in range, the place free, and the record and the place taken up. -/
theorem placeCoilRecordsACoil : Obligations.PlaceCoilRecordsACoil := by
  intro s o rest p r htaken hid hwlo hwhi hslo hshi hdlo hdhi hkind hvalue hplace hnew hr hfree hused
  have hsfree : s.placeFree p := by cases p <;> exact hplace
  have hbed : ∀ b e, p ≠ .bed b e := by rintro b e rfl; exact hsfree
  have hcode : 1 ≤ p.kindCode ∧ p.kindCode ≤ 3 := by
    cases p with
    | bed b e => exact absurd rfl (hbed b e)
    | _ => exact by simp [Place.kindCode]
  have hgood : Body.placeCoilBad o.body = none := by
    refine firstBad_eq_none _ _ fun ok hok => ?_
    rcases List.mem_append.mp hok with hok | hok
    · exact Body.coilChecks_pass hid hwlo hwhi hslo hshi hdlo hdhi ok hok
    · rw [List.mem_singleton.mp hok, inRange_iff, Body.placeKind, ← hkind]
      exact hcode
  have horder : (s.begin.setInbound .su rest).placeCoilOrder o =
      ((s.begin.setInbound .su rest).enterCoil r (Body.coilRecord o.body 0 p)).reply o (recordAnswer r) := by
    rw [State.placeCoilOrder_of_free (s := s.begin.setInbound .su rest) (Body.placeNamed_of_codes hkind hvalue hbed)
      (by cases p <;> exact hsfree)]
    exact State.registerCoil_of_free hnew hr hfree hused
  obtain ⟨t, hnext, hrecords, hanswered⟩ := checkedOrder_answered (f := State.placeCoilOrder)
    (bad := fun o => Body.placeCoilBad o.body) htaken hgood horder (State.enterCoil_mem ..) (State.enterCoil_flags ..)
  have hcoil (q : Nat) := (State.of_records (fun x => x.coil? q) hrecords).trans (State.coil_enterCoil ..)
  have hslot (i : Nat) := (State.of_records (fun x => x.slot i) hrecords).trans (State.slot_enterCoil ..)
  have hstation (n : Nat) := (State.of_records (fun x => x.station n) hrecords).trans (State.station_enterCoil ..)
  refine ⟨t, hnext, (hcoil r).trans (if_pos rfl), fun q hq => (hcoil q).trans (if_neg hq), hslot, hstation, ?_, hanswered⟩
  rw [hrecords, State.enterCoil_records, State.of_records State.coils hrecords, State.of_records State.slots hrecords,
    State.of_records State.stations hrecords]
  rfl

theorem State.announceOrder_of_empty (hconf : (s.station (Body.station o.body)).configured = true)
    (hempty : (s.station (Body.station o.body)).state = .empty) :
    s.announceOrder o = s.registerCoil o (Body.coilRecord o.body 4 (.station (Body.station o.body))) := by
  rw [State.announceOrder, if_neg (by simp [hconf]), if_neg (by simp [hempty])]

/-- Settles O17: the station free, and the record and the station taken up. -/
theorem announceCoilRecordsACoil : Obligations.AnnounceCoilRecordsACoil := by
  intro s o rest n r htaken hn hle hid hwlo hwhi hslo hshi hdlo hdhi hconf hempty hnew hr hfree hused
  subst hn
  have hgood : Body.announceBad o.body = none := by
    refine firstBad_eq_none _ _ fun ok hok => ?_
    rcases List.mem_cons.mp hok with rfl | hok
    · exact inRange_iff.mpr ⟨Nat.zero_le _, hle⟩
    · exact Body.coilChecks_pass hid hwlo hwhi hslo hshi hdlo hdhi ok hok
  have horder : (s.begin.setInbound .su rest).announceOrder o = ((s.begin.setInbound .su rest).enterCoil r
      (Body.coilRecord o.body 4 (.station (Body.station o.body)))).reply o (recordAnswer r) := by
    rw [State.announceOrder_of_empty (s := s.begin.setInbound .su rest) hconf hempty]
    exact State.registerCoil_of_free hnew hr hfree hused
  obtain ⟨t, hnext, hrecords, hanswered⟩ := checkedOrder_answered (f := State.announceOrder)
    (bad := fun o => Body.announceBad o.body) htaken hgood horder (State.enterCoil_mem ..) (State.enterCoil_flags ..)
  have hcoil (q : Nat) := (State.of_records (fun x => x.coil? q) hrecords).trans (State.coil_enterCoil ..)
  have hstation (n : Nat) := (State.of_records (fun x => x.station n) hrecords).trans (State.station_enterCoil ..)
  refine ⟨t, hnext, (hcoil r).trans (if_pos rfl), fun q hq => (hcoil q).trans (if_neg hq), (hstation _).trans (if_pos rfl),
    fun m hm => (hstation m).trans (if_neg fun h => hm (Place.station.inj h).symm), ?_, hanswered⟩
  rw [hrecords, State.enterCoil_records, State.of_records State.coils hrecords, State.of_records State.stations hrecords]
  rfl

/-! ## A coil removed (R18) -/

theorem State.removeForbidden_eq_false (hmove : c.move = none) (hout : c.outbound = false)
    (hbed : ∀ b e, c.place ≠ .bed b e)
    (hburied : ∀ i, c.place = .slot i → i % 24 < 12 → ∀ u ∈ uppersOver i, (s.slot u).state = .off ∨ (s.slot u).state = .free)
    (hserving : s.mode = .run ∨ s.mode = .halted → (∃ n, c.place = .station n) ∨ c.placeDoubt = true) :
    s.removeForbidden c = false := by
  have hisbed : c.place.isBed = false := by
    cases hp : c.place with
    | bed b e => exact absurd hp (hbed b e)
    | _ => rfl
  have hcoil : s.coilBuried c = false := by
    unfold State.coilBuried
    split
    · next i hp =>
      by_cases hlow : i % 24 < 12
      · have hnone : (uppersOver i).any (fun u => (s.slot u).state.occupied) = false :=
          List.any_eq_false.mpr fun u hu => by rcases hburied i hp hlow u hu with h | h <;> simp [h, SlotState.occupied]
        rw [State.buried, hnone, Bool.and_false]
      · rw [State.buried, isLower, slotPos, decide_eq_false hlow, Bool.false_and]
    · rfl
  have hservice : (s.inService && !c.place.isStation && !c.placeDoubt) = false := by
    by_cases hmode : s.mode = .run ∨ s.mode = .halted
    · rcases hserving hmode with ⟨n, hn⟩ | hdoubt
      · simp [hn, Place.isStation]
      · simp [hdoubt]
    · rw [not_or] at hmode
      simp [State.inService, hmode]
  rw [State.removeForbidden, hmove, hout, hisbed, hcoil, hservice]
  rfl

theorem State.giveUpPlace_mem (s : State) (p : Place) : (s.giveUpPlace p).mem = s.mem := by cases p <;> rfl

theorem State.giveUpPlace_flags (s : State) (p : Place) : (s.giveUpPlace p).flags = s.flags := by cases p <;> rfl

theorem State.giveUpPlace_records (s : State) (p : Place) : (s.giveUpPlace p).records =
    State.records { s with slots := (s.giveUpPlace p).slots, stations := (s.giveUpPlace p).stations } := by
  cases p <;> rfl

theorem State.coil_giveUpPlace (s : State) (p : Place) (q : Nat) : (s.giveUpPlace p).coil? q = s.coil? q := by
  cases p <;> rfl

theorem State.giveUpPlace_coils (s : State) (p : Place) : (s.giveUpPlace p).coils = s.coils := by cases p <;> rfl

theorem State.slot_giveUpPlace (s : State) (p : Place) (i : Nat) :
    (s.giveUpPlace p).slot i = if p = .slot i then { state := .free } else s.slot i := by
  cases p with
  | slot j => simp only [State.giveUpPlace, State.slot_setSlot, Place.slot.injEq, eq_comm]
  | _ => simp [State.giveUpPlace]

theorem State.station_giveUpPlace (s : State) (p : Place) (n : Nat) :
    (s.giveUpPlace p).station n = if p = .station n then { s.station n with state := .empty, coil := none } else s.station n := by
  cases p with
  | station m =>
    by_cases h : n = m
    · subst h; simp [State.giveUpPlace]
    · simp [State.giveUpPlace, State.station_setStation, h, Ne.symm h]
  | _ => simp [State.giveUpPlace]

/-- Settles O18: the record erased and its place given up. -/
theorem removeCoilGivesUpItsPlace : Obligations.RemoveCoilGivesUpItsPlace := by
  intro s o rest r c htaken hr hc hmove hout hbed hburied hserving
  have hallowed : (s.begin.setInbound .su rest).removeForbidden c = false :=
    State.removeForbidden_eq_false hmove hout hbed hburied hserving
  have horder : (s.begin.setInbound .su rest).removeOrder o =
      (((s.begin.setInbound .su rest).removeCoil r).giveUpPlace c.place).reply o .ok := by
    rw [State.removeOrder, State.withCoil_of_known (s := s.begin.setInbound .su rest) hr hc, hallowed,
      if_neg Bool.false_ne_true]
  obtain ⟨t, hnext, hrecords, hanswered⟩ := takeOrder_answered (f := State.removeOrder) htaken horder
    (State.giveUpPlace_mem ..) (State.giveUpPlace_flags ..)
  have hcoil (q : Nat) := (State.of_records (fun x => x.coil? q) hrecords).trans
    ((State.coil_giveUpPlace ..).trans (State.coil_removeCoil ..))
  have hslot (i : Nat) := (State.of_records (fun x => x.slot i) hrecords).trans (State.slot_giveUpPlace ..)
  have hstation (n : Nat) := (State.of_records (fun x => x.station n) hrecords).trans (State.station_giveUpPlace ..)
  refine ⟨t, hnext, (hcoil r).trans (if_pos rfl), fun q hq => (hcoil q).trans (if_neg hq), hslot, hstation, ?_, hanswered⟩
  rw [hrecords, State.giveUpPlace_records, State.of_records State.slots hrecords, State.of_records State.stations hrecords,
    (State.of_records State.coils hrecords).trans (State.giveUpPlace_coils ..)]
  rfl

/-! ## COLUMN_OUT and COLUMN_IN (R4), SET_CRANE (R61) -/

theorem State.columnFlagOrder_of_configured {out : Bool} (h : Body.column o.body ≤ 63)
    (hconf : (s.column (Body.column o.body)).configured = true) :
    s.columnFlagOrder out o =
      (s.setColumn (Body.column o.body) { s.column (Body.column o.body) with out := out }).reply o .ok := by
  rw [State.columnFlagOrder]
  exact if_pos (by simp [inRange, h, hconf])

theorem State.columnFlagOrder_of_not_configured {out : Bool}
    (h : ¬(Body.column o.body ≤ 63 ∧ (s.column (Body.column o.body)).configured = true)) :
    s.columnFlagOrder out o = s.reply o (.badField 1) := by
  rw [State.columnFlagOrder]
  exact if_neg (by simpa [inRange] using h)

/-- Settles O21: the flag of a configured column follows the order. -/
theorem columnFlagFollowsTheOrder : Obligations.ColumnFlagFollowsTheOrder := by
  intro out s o rest cmd c htaken
  have hexec : exec cmd s = handle (takeOrder .su (if out then 0x18 else 0x19) (State.columnFlagOrder out)) s := by
    cases out <;> rfl
  by_cases hconf : c ≤ 63 ∧ (s.column c).configured = true
  · rw [if_pos hconf, hexec]
    obtain ⟨t, hnext, hrecords, hanswered⟩ := takeOrder_answered htaken
      (State.columnFlagOrder_of_configured (s := s.begin.setInbound .su rest) (out := out) hconf.1 hconf.2) rfl rfl
    have hcolumn (d : Nat) := (State.of_records (fun x => x.column d) hrecords).trans (State.column_setColumn ..)
    refine ⟨t, hnext, (hcolumn c).trans (if_pos rfl), fun d hd => (hcolumn d).trans (if_neg hd), ?_, hanswered⟩
    rw [hrecords, State.of_records State.columns hrecords]
    rfl
  · rw [if_neg hconf, hexec]
    exact handle_takeOrder_reply htaken
      (State.columnFlagOrder_of_not_configured (s := s.begin.setInbound .su rest) hconf)

theorem State.fitted_iff {c : Nat} (h : c ≤ 3) : s.fitted c = true ↔ c ≤ s.straps := by
  simp only [State.fitted, Bool.and_eq_true, decide_eq_true_eq]
  omega

theorem Body.setCraneBad_eq_none {b : Body} (hlo : fieldNat b 2 2 ≤ 60000) (hhi : fieldNat b 4 2 ≤ 60000)
    (hwlo : 300 ≤ fieldNat b 6 2) (hwhi : fieldNat b 6 2 ≤ 1500) : b.setCraneBad = none :=
  firstBad_eq_none _ _ (by simp [inRange, Body.svcLo, Body.svcHi, Body.halfWidth, hlo, hhi, hwlo, hwhi])

/-- Settles O25: a crane not fitted refuses, a fitted one takes the values. -/
theorem setCraneConfiguresTheCrane : Obligations.SetCraneConfiguresTheCrane := by
  intro s o rest c htaken hc hle
  have hrange : ¬3 < Body.crane o.body := by rw [Body.crane, hc]; omega
  have hfitted : (s.begin.setInbound .ru rest).fitted (Body.crane o.body) = true ↔ c ≤ s.straps :=
    hc ▸ State.fitted_iff (s := s) (not_lt.mp hrange)
  refine ⟨fun hout => ?_, fun hin hlo hhi hwlo hwhi => ?_⟩
  · refine handle_takeOrder_reply (f := State.setCraneOrder) htaken ?_
    have hnot : ¬(s.begin.setInbound .ru rest).fitted (Body.crane o.body) = true := fun h =>
      absurd (hfitted.mp h) (by omega)
    rw [State.setCraneOrder, if_neg hrange, if_pos (by simpa using hnot), ← hc]
    rfl
  · have horder : (s.begin.setInbound .ru rest).setCraneOrder o =
        ((s.begin.setInbound .ru rest).modCrane (Body.crane o.body) fun k =>
          { k with
            configured := true, svcLo := Body.svcLo o.body, svcHi := Body.svcHi o.body
            halfWidth := Body.halfWidth o.body }).reply o .ok := by
      rw [State.setCraneOrder, if_neg hrange, if_neg (by simp [hfitted.mpr hin]),
        State.checked_of_good (Body.setCraneBad_eq_none hlo hhi hwlo hwhi)]
    obtain ⟨t, hnext, hrecords, hanswered⟩ := takeOrder_answered (f := State.setCraneOrder) htaken horder rfl rfl
    have hcrane (j : Nat) := (State.of_records (fun x => x.crane j) hrecords).trans (State.crane_setCrane ..)
    rw [show Body.crane o.body = c from hc] at hcrane
    refine ⟨t, hnext, (hcrane c).trans (if_pos rfl), fun j hj => (hcrane j).trans (if_neg hj), ?_, hanswered⟩
    rw [hrecords, State.of_records State.cranes hrecords]
    rfl

end Sys2Proof.Machine
end

section
/-! PROOF. Publication: each image entry and each directory group a handling changed is written once, whole, between two equal
editions (R195). -/

namespace Sys2Proof.Machine

variable {s t u old new : State}

/-! ## One write of a run of bytes under its editions -/

/-- The writes of one kind of entry: each under the next of its own editions, in a run of bytes of its own. -/
structure EditionWrites (write : State → Nat → State) (editions : State → Tab Byte) (offset size : Nat → Nat)
    (body : State → Nat → List Byte) : Prop where
  edition : ∀ s k j, Tab.get 0 (editions (write s k)) j =
    if j = k then Tab.get 0 (editions s) k + 1 else Tab.get 0 (editions s) j
  bytes : ∀ s k, (write s k).readBytes (offset k) (size k) =
    (Tab.get 0 (editions s) k + 1) :: body s k ++ [Tab.get 0 (editions s) k + 1]
  outside : ∀ s k a, a < offset k ∨ offset k + size k ≤ a → (write s k).readByte a = s.readByte a
  records : ∀ s k, (write s k).records = s.records
  shown : ∀ s j, body s.records j = body s j

section
variable {write : State → Nat → State} {editions : State → Tab Byte} {offset size : Nat → Nat}
  {body : State → Nat → List Byte} {k : Nat} {l : List Nat}

/-- Two entries' bytes lie apart. -/
def Apart (offset size : Nat → Nat) (j k : Nat) : Prop := offset j + size j ≤ offset k ∨ offset k + size k ≤ offset j

theorem EditionWrites.body_eq (w : EditionWrites write editions offset size body) (s : State) (k j : Nat) :
    body (write s k) j = body s j := by
  rw [← w.shown, w.records, w.shown]

/-- Writes of other entries leave an entry's edition and bytes alone. -/
theorem EditionWrites.foldl_of_not_mem (w : EditionWrites write editions offset size body) (hk : k ∉ l)
    (hapart : ∀ j ∈ l, Apart offset size j k) (s : State) :
    Tab.get 0 (editions (l.foldl write s)) k = Tab.get 0 (editions s) k ∧
      (l.foldl write s).readBytes (offset k) (size k) = s.readBytes (offset k) (size k) := by
  induction l generalizing s with
  | nil => exact ⟨rfl, rfl⟩
  | cons j rest ih =>
    obtain ⟨hne, hrest⟩ := not_or.mp (fun h => hk (List.mem_cons.mpr h))
    obtain ⟨hj, hall⟩ := List.forall_mem_cons.mp hapart
    obtain ⟨hedition, hbytes⟩ := ih hrest hall (write s j)
    refine ⟨hedition.trans (by rw [w.edition, if_neg hne]), hbytes.trans ?_⟩
    exact State.readBytes_congr _ _ _ fun i hi => w.outside s j _ (by unfold Apart at hj; omega)

/-- An entry written once stands under its next edition. -/
theorem EditionWrites.foldl_of_once (w : EditionWrites write editions offset size body) (hk : l.count k = 1)
    (hapart : ∀ j ∈ l, j ≠ k → Apart offset size j k) (s : State) :
    Tab.get 0 (editions (l.foldl write s)) k = Tab.get 0 (editions s) k + 1 ∧
      (l.foldl write s).readBytes (offset k) (size k) =
        (Tab.get 0 (editions s) k + 1) :: body s k ++ [Tab.get 0 (editions s) k + 1] := by
  induction l generalizing s with
  | nil => simp at hk
  | cons j rest ih =>
    obtain ⟨hj, hall⟩ := List.forall_mem_cons.mp hapart
    by_cases hjk : j = k
    · subst hjk
      have hrest : j ∉ rest := List.count_eq_zero.mp (by simpa using hk)
      obtain ⟨hedition, hbytes⟩ := w.foldl_of_not_mem hrest
        (fun i hi => hall i hi fun h => hrest (h ▸ hi)) (write s j)
      exact ⟨hedition.trans (by rw [w.edition, if_pos rfl]), hbytes.trans (w.bytes s j)⟩
    · have hrest : rest.count k = 1 := by simpa [List.count_cons, hjk] using hk
      obtain ⟨hedition, hbytes⟩ := ih hrest hall (write s j)
      rw [w.edition, if_neg (Ne.symm hjk), w.body_eq] at hbytes
      rw [w.edition, if_neg (Ne.symm hjk)] at hedition
      exact ⟨hedition, hbytes⟩

/-- An entry written, however often, stands whole between two equal editions. -/
theorem EditionWrites.foldl_of_mem (w : EditionWrites write editions offset size body) (hk : k ∈ l)
    (hapart : ∀ j ∈ l, j ≠ k → Apart offset size j k) (s : State) :
    ∃ e, (l.foldl write s).readBytes (offset k) (size k) = e :: body s k ++ [e] := by
  induction l generalizing s with
  | nil => simp at hk
  | cons j rest ih =>
    obtain ⟨hj, hall⟩ := List.forall_mem_cons.mp hapart
    by_cases hrest : k ∈ rest
    · obtain ⟨e, he⟩ := ih hrest hall (write s j)
      rw [w.body_eq] at he
      exact ⟨e, he⟩
    · obtain rfl : k = j := (List.mem_cons.mp hk).resolve_right hrest
      obtain ⟨-, hbytes⟩ := w.foldl_of_not_mem hrest (fun i hi => hall i hi fun h => hrest (h ▸ hi)) (write s k)
      exact ⟨_, hbytes.trans (w.bytes s k)⟩

end

/-! ## The three kinds of entry -/

theorem State.readBytes_editions (s : State) (offset : Nat) (e : Byte) (body : List Byte) :
    (s.writeBytes offset (e :: body ++ [e])).readBytes offset (body.length + 2) = e :: body ++ [e] := by
  have hread := State.readBytes_writeBytes (e :: body ++ [e]) s offset
  rwa [show (e :: body ++ [e]).length = body.length + 2 by simp] at hread

theorem State.writeBytes_groupEditions (s : State) (a : Nat) (bs : List Byte) :
    (s.writeBytes a bs).groupEditions = s.groupEditions := by rw [State.writeBytes_eq_mem]

theorem State.writeBytes_slotEditions (s : State) (a : Nat) (bs : List Byte) :
    (s.writeBytes a bs).slotEditions = s.slotEditions := by rw [State.writeBytes_eq_mem]

theorem State.writeBytes_coilEditions (s : State) (a : Nat) (bs : List Byte) :
    (s.writeBytes a bs).coilEditions = s.coilEditions := by rw [State.writeBytes_eq_mem]

theorem slotImage_editionWrites :
    EditionWrites State.writeSlotImage State.slotEditions slotImageOffset (fun _ => 8) slotImageBody where
  edition s k j := by rw [State.writeSlotImage, State.writeBytes_slotEditions, Tab.get_set]
  bytes s k := by
    have hread := State.readBytes_editions { s with slotEditions := s.slotEditions.set 0 k (Tab.get 0 s.slotEditions k + 1) }
      (slotImageOffset k) (Tab.get 0 s.slotEditions k + 1) (slotImageBody s k)
    rwa [slotImageBody_length] at hread
  outside s k a h := State.readByte_writeSlotImage_of_outside h
  records := State.writeSlotImage_records
  shown _ _ := rfl

theorem coilImage_editionWrites :
    EditionWrites State.writeCoilImage State.coilEditions coilImageOffset (fun _ => 32) coilImageBody where
  edition s k j := by rw [State.writeCoilImage, State.writeBytes_coilEditions, Tab.get_set]
  bytes s k := by
    have hread := State.readBytes_editions { s with coilEditions := s.coilEditions.set 0 k (Tab.get 0 s.coilEditions k + 1) }
      (coilImageOffset k) (Tab.get 0 s.coilEditions k + 1) (coilImageBody s k)
    rwa [coilImageBody_length] at hread
  outside s k a h := State.readByte_writeCoilImage_of_outside h
  records := State.writeCoilImage_records
  shown _ _ := rfl

theorem group_editionWrites :
    EditionWrites State.writeGroup State.groupEditions groupOffset (fun g => groupBodySize g + 2) groupBody where
  edition s k j := by rw [State.writeGroup, State.writeBytes_groupEditions, Tab.get_set]
  bytes s k := by
    have hread := State.readBytes_editions { s with groupEditions := s.groupEditions.set 0 k (Tab.get 0 s.groupEditions k + 1) }
      (groupOffset k) (Tab.get 0 s.groupEditions k + 1) (groupBody s k)
    rwa [groupBody_length] at hread
  outside s k a h := State.readByte_writeGroup_of_outside (by omega)
  records := State.writeGroup_records
  shown _ _ := rfl

theorem slotImage_apart {j k : Nat} (h : j ≠ k) : Apart slotImageOffset (fun _ => 8) j k := by
  simp only [Apart, slotImageOffset]
  omega

theorem coilImage_apart {j k : Nat} (h : j ≠ k) : Apart coilImageOffset (fun _ => 32) j k := by
  simp only [Apart, coilImageOffset]
  omega

theorem groupOffset_succ : ∀ g < 84, groupOffset g + (groupBodySize g + 2) ≤ groupOffset (g + 1) := by decide

theorem groupOffset_totals {k : Nat} (h : 84 ≤ k) : groupOffset k = 0x300 := by
  unfold groupOffset
  rw [if_neg (by omega), if_neg (by omega), if_neg (by omega), if_neg (by omega), if_neg (by omega), if_neg (by omega),
    if_neg (by omega)]

/-- Each group's bytes end where the next group's begin, or before. -/
theorem groupOffset_le {j k : Nat} (h : j < k) (hj : j < 84) : groupOffset j + (groupBodySize j + 2) ≤ groupOffset k := by
  induction k with
  | zero => omega
  | succ k ih =>
    rcases Nat.eq_or_lt_of_le (Nat.le_of_lt_succ h) with rfl | hlt
    · exact groupOffset_succ j hj
    · rcases Nat.lt_or_ge k 84 with hk | hk
      · have hstep := groupOffset_succ k hk
        have hprev := ih hlt
        omega
      · have hprev := ih hlt
        rwa [groupOffset_totals hk, ← groupOffset_totals (k := k + 1) (by omega)] at hprev

theorem group_apart {j k : Nat} (h : j ≠ k) (hk : k < 84 ∨ j < 84) :
    Apart groupOffset (fun g => groupBodySize g + 2) j k := by
  rcases Nat.lt_or_gt_of_ne h with hlt | hgt
  · exact .inl (groupOffset_le hlt (by omega))
  · exact .inr (groupOffset_le hgt (by omega))

end Sys2Proof.Machine
end

section
/-! PROOF. What publication leaves: the entries and groups that were changed, and what it leaves alone (R195). -/

namespace Sys2Proof.Machine

variable {s t u old new : State} {i r g : Nat}

/-! ## The three runs of writes -/

/-- What no write of a run changes, the run leaves alone. -/
theorem foldl_field {α β : Type} {f : State → α → State} (p : State → β) (h : ∀ s a, p (f s a) = p s) (l : List α)
    (s : State) : p (l.foldl f s) = p s :=
  List.foldlRecOn l f (motive := fun t => p t = p s) rfl fun t ht a _ => (h t a).trans ht

theorem State.writeGroup_slotEditions (s : State) (g : Nat) : (s.writeGroup g).slotEditions = s.slotEditions := by
  rw [State.writeGroup, State.writeBytes_slotEditions]

theorem State.writeGroup_coilEditions (s : State) (g : Nat) : (s.writeGroup g).coilEditions = s.coilEditions := by
  rw [State.writeGroup, State.writeBytes_coilEditions]

theorem State.writeSlotImage_coilEditions (s : State) (i : Nat) : (s.writeSlotImage i).coilEditions = s.coilEditions := by
  rw [State.writeSlotImage, State.writeBytes_coilEditions]

theorem State.writeSlotImage_groupEditions (s : State) (i : Nat) : (s.writeSlotImage i).groupEditions = s.groupEditions := by
  rw [State.writeSlotImage, State.writeBytes_groupEditions]

theorem State.writeCoilImage_slotEditions (s : State) (r : Nat) : (s.writeCoilImage r).slotEditions = s.slotEditions := by
  rw [State.writeCoilImage, State.writeBytes_slotEditions]

theorem State.writeCoilImage_groupEditions (s : State) (r : Nat) : (s.writeCoilImage r).groupEditions = s.groupEditions := by
  rw [State.writeCoilImage, State.writeBytes_groupEditions]

/-- The state after the slot image entries are written. -/
def slotsPublished (old new : State) : State := (slotsWritten old new).foldl State.writeSlotImage new

/-- The state after the coil image entries are written too. -/
def coilsPublished (old new : State) : State := (coilsWritten old new).foldl State.writeCoilImage (slotsPublished old new)

/-- The state after the groups are written too. -/
def groupsPublished (old new : State) : State := (groupsWritten old new).foldl State.writeGroup (coilsPublished old new)

theorem publish_of_serving (h : new.mode ≠ .resetting) : publish old new = { groupsPublished old new with touched := {} } := by
  rw [publish, if_neg h]
  rfl

theorem slotsPublished_records (old new : State) : (slotsPublished old new).records = new.records :=
  foldl_records State.writeSlotImage_records ..

theorem coilsPublished_records (old new : State) : (coilsPublished old new).records = new.records :=
  (foldl_records State.writeCoilImage_records ..).trans (slotsPublished_records ..)

theorem publish_slotEditions (h : new.mode ≠ .resetting) :
    (publish old new).slotEditions = (slotsPublished old new).slotEditions := by
  rw [publish_of_serving h]
  exact (foldl_field State.slotEditions State.writeGroup_slotEditions ..).trans
    (foldl_field State.slotEditions State.writeCoilImage_slotEditions ..)

theorem publish_coilEditions (h : new.mode ≠ .resetting) :
    (publish old new).coilEditions = (coilsPublished old new).coilEditions := by
  rw [publish_of_serving h]
  exact foldl_field State.coilEditions State.writeGroup_coilEditions ..

theorem slotsPublished_coilEditions (old new : State) : (slotsPublished old new).coilEditions = new.coilEditions :=
  foldl_field State.coilEditions State.writeSlotImage_coilEditions ..

theorem publish_groupEditions (h : new.mode ≠ .resetting) :
    (publish old new).groupEditions = (groupsPublished old new).groupEditions := by
  rw [publish_of_serving h]

theorem coilsPublished_groupEditions (old new : State) : (coilsPublished old new).groupEditions = new.groupEditions :=
  (foldl_field State.groupEditions State.writeCoilImage_groupEditions ..).trans
    (foldl_field State.groupEditions State.writeSlotImage_groupEditions ..)

theorem publish_readByte_eq (h : new.mode ≠ .resetting) (a : Nat) :
    (publish old new).readByte a = (groupsPublished old new).readByte a := by
  rw [publish_of_serving h]
  rfl

theorem groupsPublished_readByte {a : Nat} (h : 0x310 ≤ a) :
    (groupsPublished old new).readByte a = (coilsPublished old new).readByte a :=
  foldl_readByte (fun g _ t => by
    have hbounds := (groupOffset_bounds g).1
    exact State.readByte_writeGroup_of_outside (by omega)) _

theorem coilsPublished_readByte {a : Nat} (h : a < 0x10000) :
    (coilsPublished old new).readByte a = (slotsPublished old new).readByte a :=
  foldl_readByte (fun r _ t => State.readByte_writeCoilImage_of_outside (by simp only [coilImageOffset]; omega)) _

theorem slotsPublished_readByte {a : Nat} (h : a < 0xD000 ∨ 0x10000 ≤ a ∧ ∀ i ∈ slotsWritten old new, i < 1536) :
    (slotsPublished old new).readByte a = new.readByte a :=
  foldl_readByte (fun i hi t => State.readByte_writeSlotImage_of_outside (by
    simp only [slotImageOffset]
    rcases h with h | ⟨hlo, hall⟩
    · omega
    · have := hall i hi
      omega)) _

/-! ## What is written -/

theorem mem_bothKeys {a b : List Nat} {k : Nat} : k ∈ bothKeys a b ↔ k ∈ a ∨ k ∈ b := by
  simp only [bothKeys, List.mem_append, List.mem_filter, Bool.not_eq_true', List.contains_eq_mem, decide_eq_false_iff_not]
  tauto

theorem bothKeys_nodup {a b : List Nat} (ha : a.Nodup) (hb : b.Nodup) : (bothKeys a b).Nodup := by
  refine ha.append (hb.filter _) fun k hk hkb => ?_
  simp only [List.mem_filter, Bool.not_eq_true', List.contains_eq_mem, decide_eq_false_iff_not] at hkb
  exact hkb.2 hk

theorem Tab.find_of_not_mem_keys {α : Type} {tab : Tab α} {k : Nat} (h : k ∉ tab.keys) : tab.find k = none := by
  induction tab with
  | nil => rfl
  | cons p rest ih =>
    simp only [Tab.keys, List.map_cons, List.mem_cons, not_or] at h
    rw [Tab.find, if_neg (Ne.symm h.1), ih h.2]

theorem slotImageBody_of_unlisted (h : i ∉ s.slots.keys) : slotImageBody s i = leBytes 2 0 ++ leBytes 4 0 := by
  have hslot : s.slot i = {} := by rw [State.slot, Tab.get, Tab.find_of_not_mem_keys h]; rfl
  rw [slotImageBody, hslot]
  rfl

theorem coilImageBody_of_unlisted (h : r ∉ s.coils.keys) : coilImageBody s r = zeros 30 := by
  have hcoil : s.coil? r = none := Tab.find_of_not_mem_keys h
  rw [coilImageBody, hcoil]
  rfl

theorem mem_slotsWritten :
    i ∈ slotsWritten old new ↔ i ∈ new.touched.slots ∨ slotImageBody old i ≠ slotImageBody new i := by
  simp only [slotsWritten, List.mem_filter, mem_bothKeys, Bool.or_eq_true, List.contains_eq_mem, decide_eq_true_eq,
    bne_iff_ne, and_iff_right_iff_imp]
  rintro (htouched | hdiff)
  · exact .inl htouched
  · by_contra hnone
    simp only [not_or] at hnone
    exact hdiff ((slotImageBody_of_unlisted hnone.2.1).trans (slotImageBody_of_unlisted hnone.2.2).symm)

theorem mem_coilsWritten :
    r ∈ coilsWritten old new ↔ r ∈ new.touched.coils ∨ coilImageBody old r ≠ coilImageBody new r := by
  simp only [coilsWritten, List.mem_filter, mem_bothKeys, Bool.or_eq_true, List.contains_eq_mem, decide_eq_true_eq,
    bne_iff_ne, and_iff_right_iff_imp]
  rintro (htouched | hdiff)
  · exact .inl htouched
  · by_contra hnone
    simp only [not_or] at hnone
    exact hdiff ((coilImageBody_of_unlisted hnone.2.1).trans (coilImageBody_of_unlisted hnone.2.2).symm)

theorem mem_recordGroups : g ∈ recordGroups old new ↔
    3 ≤ g ∧ g < 20 ∨ 20 ≤ g ∧ (g - 20 ∈ old.columns.keys ∨ g - 20 ∈ new.columns.keys) ∨ g = 84 := by
  simp only [recordGroups, List.mem_append, List.mem_map, List.mem_range, List.mem_singleton, mem_bothKeys, Group.column,
    Group.totals]
  constructor
  · rintro ((⟨k, hk, rfl⟩ | ⟨k, hk, rfl⟩) | rfl)
    · omega
    · exact .inr (.inl ⟨by omega, by rwa [Nat.add_sub_cancel_left]⟩)
    · exact .inr (.inr rfl)
  · rintro (⟨hlo, hhi⟩ | ⟨hlo, hk⟩ | rfl)
    · exact .inl (.inl ⟨g - 3, by omega, by omega⟩)
    · exact .inl (.inr ⟨g - 20, hk, by omega⟩)
    · exact .inr rfl

theorem mem_groupsWritten : g ∈ groupsWritten old new ↔
    g ∈ recordGroups old new ∧ (g ∈ new.touched.groups ∨ groupChanged old new g = true) := by
  simp only [groupsWritten, List.mem_filter, Bool.or_eq_true, List.contains_eq_mem, decide_eq_true_eq]

theorem slotsWritten_nodup (hold : old.slots.keys.Nodup) (hnew : new.slots.keys.Nodup) (htouched : new.touched.slots.Nodup) :
    (slotsWritten old new).Nodup :=
  (bothKeys_nodup htouched (bothKeys_nodup hold hnew)).filter _

theorem coilsWritten_nodup (hold : old.coils.keys.Nodup) (hnew : new.coils.keys.Nodup) (htouched : new.touched.coils.Nodup) :
    (coilsWritten old new).Nodup :=
  (bothKeys_nodup htouched (bothKeys_nodup hold hnew)).filter _

/-- Each column's group stands once among the record groups, and so do the groups before the columns'. -/
theorem recordGroups_count (hold : old.columns.keys.Nodup) (hnew : new.columns.keys.Nodup) (hg : g < 84)
    (hmem : g ∈ recordGroups old new) : (recordGroups old new).count g = 1 := by
  have hfirst : ((List.range 17).map (· + 3) ++ (bothKeys old.columns.keys new.columns.keys).map Group.column).Nodup := by
    refine (List.nodup_range.map fun a b h => by simpa using h).append
      ((bothKeys_nodup hold hnew).map fun a b h => by simpa [Group.column] using h) fun k hk hkc => ?_
    simp only [List.mem_map, List.mem_range, Group.column] at hk hkc
    obtain ⟨a, ha, rfl⟩ := hk
    obtain ⟨b, -, hb⟩ := hkc
    omega
  have hlast : [Group.totals].count g = 0 := List.count_eq_zero.mpr (by simp [Group.totals]; omega)
  rw [recordGroups, List.count_append, hlast]
  exact List.count_eq_one_of_mem hfirst ((List.mem_append.mp hmem).resolve_right fun h => by
    simp [Group.totals] at h; omega)

/-! ## What publication leaves -/

/-- A slot image entry written stands under its next edition. -/
theorem publish_slot_written (hmode : new.mode ≠ .resetting) (hi : i < 1536) (hnodup : (slotsWritten old new).Nodup)
    (hmem : i ∈ slotsWritten old new) :
    Tab.get 0 (publish old new).slotEditions i = Tab.get 0 new.slotEditions i + 1 ∧
      (publish old new).readBytes (0xD000 + 8 * i) 8 =
        (Tab.get 0 new.slotEditions i + 1) :: slotImageBody new i ++ [Tab.get 0 new.slotEditions i + 1] := by
  obtain ⟨hedition, hbytes⟩ := slotImage_editionWrites.foldl_of_once
    (List.count_eq_one_of_mem hnodup hmem) (fun j _ h => slotImage_apart h) new
  refine ⟨by rw [publish_slotEditions hmode]; exact hedition, Eq.trans ?_ hbytes⟩
  exact State.readBytes_congr _ _ _ fun k hk => by
    rw [publish_readByte_eq hmode, groupsPublished_readByte (by omega), coilsPublished_readByte (by omega)]
    rfl

theorem publish_slot_kept (hmode : new.mode ≠ .resetting) (hi : i < 1536) (hmem : i ∉ slotsWritten old new) :
    Tab.get 0 (publish old new).slotEditions i = Tab.get 0 new.slotEditions i ∧
      (publish old new).readBytes (0xD000 + 8 * i) 8 = new.readBytes (0xD000 + 8 * i) 8 := by
  obtain ⟨hedition, hbytes⟩ := slotImage_editionWrites.foldl_of_not_mem hmem
    (fun j hj => slotImage_apart fun h => hmem (h ▸ hj)) new
  refine ⟨by rw [publish_slotEditions hmode]; exact hedition, Eq.trans ?_ hbytes⟩
  exact State.readBytes_congr _ _ _ fun k hk => by
    rw [publish_readByte_eq hmode, groupsPublished_readByte (by omega), coilsPublished_readByte (by omega)]
    rfl

/-- A coil image entry written stands under its next edition. -/
theorem publish_coil_written (hmode : new.mode ≠ .resetting) (hnodup : (coilsWritten old new).Nodup)
    (hmem : r ∈ coilsWritten old new) :
    Tab.get 0 (publish old new).coilEditions r = Tab.get 0 new.coilEditions r + 1 ∧
      (publish old new).readBytes (0x10000 + 32 * r) 32 =
        (Tab.get 0 new.coilEditions r + 1) :: coilImageBody new r ++ [Tab.get 0 new.coilEditions r + 1] := by
  obtain ⟨hedition, hbytes⟩ := coilImage_editionWrites.foldl_of_once
    (List.count_eq_one_of_mem hnodup hmem) (fun j _ h => coilImage_apart h) (slotsPublished old new)
  have hbody : coilImageBody (slotsPublished old new) r = coilImageBody new r :=
    State.of_records (fun x => coilImageBody x r) (slotsPublished_records ..)
  rw [slotsPublished_coilEditions] at hedition
  rw [slotsPublished_coilEditions, hbody] at hbytes
  refine ⟨by rw [publish_coilEditions hmode]; exact hedition, Eq.trans ?_ hbytes⟩
  exact State.readBytes_congr _ _ _ fun k hk => by
    rw [publish_readByte_eq hmode, groupsPublished_readByte (by omega)]
    rfl

theorem publish_coil_kept (hmode : new.mode ≠ .resetting) (hslots : ∀ i ∈ slotsWritten old new, i < 1536)
    (hmem : r ∉ coilsWritten old new) :
    Tab.get 0 (publish old new).coilEditions r = Tab.get 0 new.coilEditions r ∧
      (publish old new).readBytes (0x10000 + 32 * r) 32 = new.readBytes (0x10000 + 32 * r) 32 := by
  obtain ⟨hedition, hbytes⟩ := coilImage_editionWrites.foldl_of_not_mem hmem
    (fun j hj => coilImage_apart fun h => hmem (h ▸ hj)) (slotsPublished old new)
  rw [slotsPublished_coilEditions] at hedition
  refine ⟨by rw [publish_coilEditions hmode]; exact hedition, Eq.trans ?_ (hbytes.trans ?_)⟩
  · exact State.readBytes_congr _ _ _ fun k hk => by
      rw [publish_readByte_eq hmode, groupsPublished_readByte (by omega)]
      rfl
  · exact State.readBytes_congr _ _ _ fun k hk => slotsPublished_readByte (.inr ⟨by simp only [coilImageOffset]; omega, hslots⟩)

theorem publish_group_body (old new : State) (g : Nat) : groupBody (coilsPublished old new) g = groupBody new g :=
  State.of_records (fun x => groupBody x g) (coilsPublished_records ..)

theorem publish_group_bytes (hmode : new.mode ≠ .resetting) (g : Nat) :
    (publish old new).readBytes (groupOffset g) (groupBodySize g + 2) =
      (groupsPublished old new).readBytes (groupOffset g) (groupBodySize g + 2) :=
  State.readBytes_congr _ _ _ fun _ _ => publish_readByte_eq hmode _

/-- A group written once stands under its next edition. -/
theorem publish_group_written (hmode : new.mode ≠ .resetting) (honce : (groupsWritten old new).count g = 1)
    (hg : g < 84 ∨ ∀ j ∈ groupsWritten old new, j < 85) :
    Tab.get 0 (publish old new).groupEditions g = Tab.get 0 new.groupEditions g + 1 ∧
      (publish old new).readBytes (groupOffset g) (groupBodySize g + 2) =
        (Tab.get 0 new.groupEditions g + 1) :: groupBody new g ++ [Tab.get 0 new.groupEditions g + 1] := by
  have hmem : g ∈ groupsWritten old new := List.count_pos_iff.mp (by omega)
  obtain ⟨hedition, hbytes⟩ := group_editionWrites.foldl_of_once honce
    (fun j hj h => group_apart h (by
      rcases hg with hg | hall
      · exact .inl hg
      · have := hall j hj
        have := hall g hmem
        omega))
    (coilsPublished old new)
  rw [coilsPublished_groupEditions] at hedition
  rw [coilsPublished_groupEditions, publish_group_body] at hbytes
  exact ⟨by rw [publish_groupEditions hmode]; exact hedition, (publish_group_bytes hmode g).trans hbytes⟩

/-- A group written at least once stands whole. -/
theorem publish_group_shown (hmode : new.mode ≠ .resetting) (hmem : g ∈ groupsWritten old new) (hg : g < 84 ∨
    ∀ j ∈ groupsWritten old new, j < 85) :
    ∃ e, (publish old new).readBytes (groupOffset g) (groupBodySize g + 2) = e :: groupBody new g ++ [e] := by
  obtain ⟨e, hbytes⟩ := group_editionWrites.foldl_of_mem hmem
    (fun j hj h => group_apart h (by
      rcases hg with hg | hall
      · exact .inl hg
      · have := hall j hj
        have := hall g hmem
        omega))
    (coilsPublished old new)
  rw [publish_group_body] at hbytes
  exact ⟨e, (publish_group_bytes hmode g).trans hbytes⟩

theorem publish_group_kept (hmode : new.mode ≠ .resetting) (hmem : g ∉ groupsWritten old new) (hg : g < 85)
    (hall : ∀ j ∈ groupsWritten old new, j < 85) :
    Tab.get 0 (publish old new).groupEditions g = Tab.get 0 new.groupEditions g ∧
      (publish old new).readBytes (groupOffset g) (groupBodySize g + 2) =
        new.readBytes (groupOffset g) (groupBodySize g + 2) := by
  obtain ⟨hedition, hbytes⟩ := group_editionWrites.foldl_of_not_mem hmem
    (fun j hj => group_apart (fun h => hmem (h ▸ hj)) (by
      have := hall j hj
      have hne : j ≠ g := fun h => hmem (h ▸ hj)
      omega)) (coilsPublished old new)
  rw [coilsPublished_groupEditions] at hedition
  refine ⟨by rw [publish_groupEditions hmode]; exact hedition, (publish_group_bytes hmode g).trans (hbytes.trans ?_)⟩
  have hbounds := (groupOffset_bounds g).1
  exact State.readBytes_congr _ _ _ fun k hk => by
    rw [coilsPublished_readByte (by omega), slotsPublished_readByte (.inl (by omega))]

end Sys2Proof.Machine
end

section
/-! PROOF. Publication at the end of a handling and of a command (R195). -/

namespace Sys2Proof.Machine

variable {s t u old new : State} {i r g : Nat}

/-- A crane's group is written when a field other than position, tong and speed differs, any other where its body does. -/
theorem groupChanged_iff (hg : 3 ≤ g) : groupChanged old new g = true ↔
    if g < 7 then
      (new.crane (g - 3)).state ≠ (old.crane (g - 3)).state ∨ (new.crane (g - 3)).causes ≠ (old.crane (g - 3)).causes ∨
        (new.crane (g - 3)).link ≠ (old.crane (g - 3)).link ∨ (new.crane (g - 3)).lock ≠ (old.crane (g - 3)).lock ∨
        (new.crane (g - 3)).queue ≠ (old.crane (g - 3)).queue ∨ (new.crane (g - 3)).grant ≠ (old.crane (g - 3)).grant ∨
        new.currentMove (g - 3) ≠ old.currentMove (g - 3)
    else groupBody old g ≠ groupBody new g := by
  by_cases h : g < 7
  · rw [groupChanged, if_pos ⟨hg, h⟩, if_pos h, Bool.or_eq_true, bne_iff_ne, bne_iff_ne]
    simp only [Crane.key, ne_eq, CraneKey.mk.injEq, not_and_or, or_assoc, eq_comm]
  · rw [groupChanged, if_neg (fun hboth => h hboth.2), if_neg h, bne_iff_ne]

theorem recordGroups_lt (hold : ∀ c ∈ old.columns.keys, c < 64) (hnew : ∀ c ∈ new.columns.keys, c < 64)
    (h : g ∈ recordGroups old new) : g < 85 := by
  rcases mem_recordGroups.mp h with ⟨-, hhi⟩ | ⟨-, hk | hk⟩ | rfl
  · omega
  · have := hold _ hk
    omega
  · have := hnew _ hk
    omega
  · omega

theorem groupsWritten_lt (hold : ∀ c ∈ old.columns.keys, c < 64) (hnew : ∀ c ∈ new.columns.keys, c < 64) :
    ∀ g ∈ groupsWritten old new, g < 85 :=
  fun _ h => recordGroups_lt hold hnew (mem_groupsWritten.mp h).1

/-- With the columns below 64 every record group stands once. -/
theorem recordGroups_count_of_lt (hold : old.columns.keys.Nodup) (hnew : new.columns.keys.Nodup)
    (hlold : ∀ c ∈ old.columns.keys, c < 64) (hlnew : ∀ c ∈ new.columns.keys, c < 64) (h : g ∈ recordGroups old new) :
    (recordGroups old new).count g = 1 := by
  rcases Nat.lt_or_ge g 84 with hg | hg
  · exact recordGroups_count hold hnew hg h
  · obtain rfl : g = Group.totals := by
      have := recordGroups_lt hlold hlnew h
      simp only [Group.totals]
      omega
    have hnone : Group.totals ∉ (List.range 17).map (· + 3) ++ (bothKeys old.columns.keys new.columns.keys).map Group.column := by
      simp only [List.mem_append, List.mem_map, List.mem_range, mem_bothKeys, Group.totals, Group.column, not_or, not_exists,
        not_and]
      refine ⟨fun k hk => by omega, fun c hc => ?_⟩
      rcases hc with hc | hc
      · have := hlold c hc
        omega
      · have := hlnew c hc
        omega
    rw [recordGroups, List.count_append, List.count_eq_zero.mpr hnone, List.count_singleton_self]

theorem groupsWritten_count (h : (recordGroups old new).count g = 1) (hmem : g ∈ groupsWritten old new) :
    (groupsWritten old new).count g = 1 := by
  have hwritten : (new.touched.groups.contains g || groupChanged old new g) = true := by
    have hboth := (mem_groupsWritten.mp hmem).2
    simpa using hboth
  exact (List.count_filter (p := fun g => new.touched.groups.contains g || groupChanged old new g) hwritten).trans h

/-- A record group is one of the cranes', bays' and channels', of a column in a table, or the totals'. -/
theorem mem_recordGroups_of_listed (hlo : 3 ≤ g) (hg : g < 85)
    (hcolumn : 20 ≤ g → g < 84 → g - 20 ∈ old.columns.keys ∨ g - 20 ∈ new.columns.keys) : g ∈ recordGroups old new := by
  rw [mem_recordGroups]
  by_cases hfirst : g < 20
  · exact .inl ⟨hlo, hfirst⟩
  · by_cases hlast : g = 84
    · exact .inr (.inr hlast)
    · exact .inr (.inl ⟨by omega, hcolumn (by omega) (by omega)⟩)

theorem State.tablesLaw_iff : s.tablesLaw = true ↔ s.columns.keys.Pairwise (· < ·) ∧ s.slots.keys.Pairwise (· < ·) ∧
    s.coils.keys.Pairwise (· < ·) := by
  simp [State.tablesLaw]

theorem nodup_of_rising {l : List Nat} (h : l.Pairwise (· < ·)) : l.Nodup := h.imp Nat.ne_of_lt

/-- The publication of a handling that keeps the lists, from the state the command found. -/
theorem publish_of_kept (hkeeps : KeepsLists s.begin u) (hmode : u.mode ≠ .resetting) (hlaw : s.tablesLaw = true)
    (hcolumns : ∀ k ∈ s.columns.keys, k < 64) :
    (∀ i < 1536, slotImageBody s i ≠ slotImageBody u i →
      Tab.get 0 (publish s.begin u).slotEditions i = Tab.get 0 s.slotEditions i + 1 ∧
        (publish s.begin u).readBytes (0xD000 + 8 * i) 8 =
          (Tab.get 0 s.slotEditions i + 1) :: slotImageBody u i ++ [Tab.get 0 s.slotEditions i + 1]) ∧
    (∀ r, coilImageBody s r ≠ coilImageBody u r →
      Tab.get 0 (publish s.begin u).coilEditions r = Tab.get 0 s.coilEditions r + 1 ∧
        (publish s.begin u).readBytes (0x10000 + 32 * r) 32 =
          (Tab.get 0 s.coilEditions r + 1) :: coilImageBody u r ++ [Tab.get 0 s.coilEditions r + 1]) ∧
    ∀ g, 3 ≤ g → g < 85 → (20 ≤ g → g < 84 → g - 20 ∈ u.columns.keys) → groupChanged s.begin u g = true →
      ∃ e, (publish s.begin u).readBytes (groupOffset g) (groupBodySize g + 2) = e :: groupBody u g ++ [e] := by
  have hulaw := hkeeps.tables hlaw
  obtain ⟨-, hsslots, hscoils⟩ := State.tablesLaw_iff.mp hlaw
  obtain ⟨-, huslots, hucoils⟩ := State.tablesLaw_iff.mp hulaw
  obtain ⟨htslots, htcoils⟩ := hkeeps.once ⟨.nil, .nil⟩
  obtain ⟨hieditions, hceditions⟩ := hkeeps.images
  refine ⟨fun i hi hdiff => ?_, fun r hdiff => ?_, fun g hlo hg hcolumn hdiff => ?_⟩
  · have hwritten := publish_slot_written (old := s.begin) hmode hi
      (slotsWritten_nodup (nodup_of_rising hsslots) (nodup_of_rising huslots) htslots) (mem_slotsWritten.mpr (.inr hdiff))
    rw [hieditions] at hwritten
    exact hwritten
  · have hwritten := publish_coil_written (old := s.begin) hmode
      (coilsWritten_nodup (nodup_of_rising hscoils) (nodup_of_rising hucoils) htcoils) (mem_coilsWritten.mpr (.inr hdiff))
    rw [hceditions] at hwritten
    exact hwritten
  · have hlisted := mem_recordGroups_of_listed (old := s.begin) (new := u) hlo hg fun h h' => .inr (hcolumn h h')
    exact publish_group_shown hmode (mem_groupsWritten.mpr ⟨hlisted, .inr hdiff⟩)
      (.inr (groupsWritten_lt hcolumns (hkeeps.columns hcolumns)))

/-- Settles O52: each run of writes apart, and every published command a handling that keeps its lists. -/
theorem publicationWritesWhatChanged : Obligations.PublicationWritesWhatChanged := by
  refine ⟨fun old new hmode hslots hcoils hcolumns => ?_, fun c s t hexec hpublished hmode hlaw hcolumns => ?_⟩
  · simp only [List.forall_mem_cons, List.not_mem_nil, false_implies, implies_true, and_true] at hslots hcoils hcolumns
    obtain ⟨⟨hsold, hsoldlt⟩, ⟨hsnew, hsnewlt⟩, hstouched, hstouchedlt⟩ := hslots
    obtain ⟨⟨hcold, -⟩, ⟨hcnew, -⟩, hctouched, -⟩ := hcoils
    obtain ⟨⟨hkold, hkoldlt⟩, hknew, hknewlt⟩ := hcolumns
    have hslotlt : ∀ i ∈ slotsWritten old new, i < 1536 := fun i hi => by
      rcases mem_bothKeys.mp (List.mem_of_mem_filter hi) with h | h
      · exact hstouchedlt i h
      · exact (mem_bothKeys.mp h).elim (hsoldlt i) (hsnewlt i)
    refine ⟨publish_records .., publish_flags .., fun i hi => ?_, fun r _ => ?_, fun g hg hcolumn => ?_⟩
    · by_cases hwrite : i ∈ slotsWritten old new
      · rw [if_pos (mem_slotsWritten.mp hwrite)]
        exact publish_slot_written hmode hi (slotsWritten_nodup hsold hsnew hstouched) hwrite
      · rw [if_neg fun h => hwrite (mem_slotsWritten.mpr h)]
        exact publish_slot_kept hmode hi hwrite
    · by_cases hwrite : r ∈ coilsWritten old new
      · rw [if_pos (mem_coilsWritten.mp hwrite)]
        exact publish_coil_written hmode (coilsWritten_nodup hcold hcnew hctouched) hwrite
      · rw [if_neg fun h => hwrite (mem_coilsWritten.mpr h)]
        exact publish_coil_kept hmode hslotlt hwrite
    · have hlt := groupsWritten_lt hkoldlt hknewlt
      refine ⟨fun ⟨hlo, hchanged⟩ => ?_, fun hkept => ?_⟩
      · have hlisted := mem_recordGroups_of_listed hlo hg hcolumn
        have hwrite := mem_groupsWritten.mpr ⟨hlisted, hchanged.imp id (groupChanged_iff hlo).mpr⟩
        exact publish_group_written hmode
          (groupsWritten_count (recordGroups_count_of_lt hkold hknew hkoldlt hknewlt hlisted) hwrite) (.inr hlt)
      · refine publish_group_kept hmode (fun hwrite => hkept ?_) hg hlt
        obtain ⟨hlisted, hchanged⟩ := mem_groupsWritten.mp hwrite
        have hlo := three_le_of_mem_recordGroups hlisted
        exact ⟨hlo, hchanged.imp id (groupChanged_iff hlo).mp⟩
  · have hc : unpublished c = false := by
      cases c <;> first | rfl | exact hpublished.elim
    obtain ⟨f, hf, hkeeps⟩ := exec_handled c hc
    rw [hf, handle_next] at hexec
    cases hexec
    have hrecords := publish_records s.begin (f s.begin)
    obtain ⟨hslot, hcoil, hgroup⟩ := publish_of_kept (hkeeps s.begin).toKeepsLists
      (by rwa [← State.of_records State.mode hrecords]) hlaw hcolumns
    refine ⟨fun i hi => ?_, fun r _ => ?_, fun g hlo hg hcolumn hdiff => ?_⟩
    · rw [State.of_records (fun x => slotImageBody x i) hrecords]
      exact hslot i hi
    · rw [State.of_records (fun x => coilImageBody x r) hrecords]
      exact hcoil r
    · have hchanged : groupChanged s.begin (publish s.begin (f s.begin)) g = true := (groupChanged_iff hlo).mpr hdiff
      rw [State.of_records (fun x => groupChanged s.begin x g) hrecords] at hchanged
      rw [State.of_records (fun x => groupBody x g) hrecords]
      exact hgroup g hlo hg (State.of_records State.columns hrecords ▸ hcolumn) hchanged

end Sys2Proof.Machine
end

section
/-! PROOF. Channel and bay orders, and the groups they write in the directory (R114, R115, R130, R131, R136). -/

namespace Sys2Proof.Machine

variable {s t u : State} {o : Order} {a : Answer} {rest : List Order} {g k : Nat}

/-! ## A group noted is written at the end -/

/-- A run of bytes is its first part and the rest. -/
theorem State.readBytes_append (s : State) (m n : Nat) :
    ∀ o, s.readBytes o (m + n) = s.readBytes o m ++ s.readBytes (o + m) n := by
  induction m with
  | zero => intro o; simp [State.readBytes]
  | succ m ih =>
    intro o
    rw [Nat.succ_add, State.readBytes, State.readBytes, ih, List.cons_append, Nat.add_right_comm, Nat.add_assoc o m 1]

theorem readBytes_of_editions {e e' : Byte} {body : List Byte} {off n : Nat} (hn : body.length = n)
    (h : s.readBytes off (n + 2) = e :: body ++ [e']) : s.readBytes (off + 1) n = body := by
  have hsplit : s.readBytes off (n + 2) = s.readByte off :: (s.readBytes (off + 1) n ++ s.readBytes (off + 1 + n) 1) := by
    rw [show n + 2 = n + 1 + 1 by omega, State.readBytes, State.readBytes_append]
  rw [hsplit, List.cons_append] at h
  exact (List.append_inj (List.cons.inj h).2 (by rw [State.readBytes_length, hn])).1

/-- A group noted to be written shows its body when the command ends. -/
theorem handle_shows_group {f : State → State} (h : handle f s = .next t) (hu : f s.begin = u) (hmode : u.mode ≠ .resetting)
    (htouched : g ∈ u.touched.groups) (hlo : 3 ≤ g) (hhi : g < 20) :
    t.readBytes (groupOffset g + 1) (groupBodySize g) = groupBody t g := by
  rw [handle_next, hu] at h
  cases h
  have hlisted : g ∈ recordGroups s.begin u := mem_recordGroups.mpr (.inl ⟨hlo, hhi⟩)
  obtain ⟨e, hbytes⟩ := publish_group_shown (old := s.begin) hmode
    (mem_groupsWritten.mpr ⟨hlisted, .inl htouched⟩) (.inl (by omega))
  rw [State.of_records (fun x => groupBody x g) (publish_records s.begin u)]
  exact readBytes_of_editions (groupBody_length u g) hbytes

/-- The same of an order answered. -/
theorem takeOrder_shows_group {w : Owner} {n : Nat} {f : State → Order → State} (h : TakenUp s w n o rest)
    (hnext : handle (takeOrder w n f) s = .next t) (hf : f (s.begin.setInbound w rest) o = u.reply o a)
    (hmem : u.mem = s.mem) (hmode : u.mode ≠ .resetting) (htouched : g ∈ u.touched.groups) (hlo : 3 ≤ g) (hhi : g < 20) :
    t.readBytes (groupOffset g + 1) (groupBodySize g) = groupBody t g := by
  have hcurrent : u.cellIsOf o.cell o.take = true :=
    (State.cellIsOf_congr fun b _ _ => State.readByte_congr hmem b).trans h.current
  refine handle_shows_group hnext ((takeOrder_begin h).trans hf) ?_ ?_ hlo hhi
  · rwa [State.of_records State.mode (State.reply_records hcurrent a)]
  · rwa [State.reply_touched hcurrent]

theorem Touched.mem_group (t : Touched) (g : Nat) : g ∈ (t.group g).groups := List.mem_insert_self

/-! ## SET_CHANNEL (R114, R115) -/

theorem orDefault_range {d lo hi n : Nat} (h : n = 0 ∨ lo ≤ n ∧ n ≤ hi) (hd : lo ≤ d ∧ d ≤ hi) :
    lo ≤ orDefault d n ∧ orDefault d n ≤ hi := by
  unfold orDefault
  split
  · exact hd
  · exact h.resolve_left ‹_›

theorem State.inService_iff : s.inService = true ↔ s.mode = .run ∨ s.mode = .halted := by
  simp [State.inService]

/-- A hook channel's crane is picking or weighing. -/
theorem State.picking_iff : ((s.currentMove k).bind s.phaseOf).any Phase.picking = true ↔
    ∃ m v, s.currentMove k = some m ∧ s.move? m = some v ∧
      (v.phase = .pickLower ∨ v.phase = .pickGrip ∨ v.phase = .pickVerify ∨ v.phase = .pickHoist ∨ v.phase = .weigh) := by
  have hphase (ph : Phase) : ph.picking = true ↔
      ph = .pickLower ∨ ph = .pickGrip ∨ ph = .pickVerify ∨ ph = .pickHoist ∨ ph = .weigh := by
    cases ph <;> simp [Phase.picking]
  simp only [Option.any_eq_true, Option.bind_eq_some_iff, State.phaseOf, Option.map_eq_some_iff, hphase]
  constructor
  · rintro ⟨ph, ⟨m, hm, v, hv, rfl⟩, h⟩
    exact ⟨m, v, hm, hv, h⟩
  · rintro ⟨m, v, hm, hv, h⟩
    exact ⟨v.phase, ⟨m, hm, v, hv, rfl⟩, h⟩

theorem State.channelBusy_iff : s.channelBusy k = true ↔
    (s.channel k).zeroSet ≠ none ∨ (s.mode = .run ∨ s.mode = .halted) ∧
      (k < 4 ∧ (∃ m v, s.currentMove k = some m ∧ s.move? m = some v ∧
        (v.phase = .pickLower ∨ v.phase = .pickGrip ∨ v.phase = .pickVerify ∨ v.phase = .pickHoist ∨ v.phase = .weigh)) ∨
       4 ≤ k ∧ ((s.bay ((k - 4) / 2)).state = .arriving ∨ (s.bay ((k - 4) / 2)).state = .arrived ∨
        (s.bay ((k - 4) / 2)).state = .loading ∨ (s.bay ((k - 4) / 2)).state = .planHold ∨
        (s.bay ((k - 4) / 2)).state = .check)) := by
  have htruck (st : BayState) : st.weighs = true ↔
      st = .arriving ∨ st = .arrived ∨ st = .loading ∨ st = .planHold ∨ st = .check := by
    cases st <;> simp [BayState.weighs]
  rw [State.channelBusy, Bool.or_eq_true, Bool.and_eq_true, State.inService_iff, Option.isSome_iff_ne_none]
  by_cases hk : k < 4
  · rw [if_pos hk, State.picking_iff]
    simp only [hk, true_and, Nat.not_le.mpr hk, false_and, or_false]
  · rw [if_neg hk, htruck, channelBay]
    simp only [hk, false_and, Nat.not_lt.mp hk, true_and, false_or]

/-- Settles O38: a busy channel refuses, another takes the calibration and its group is written. -/
theorem setChannelCalibrates : Obligations.SetChannelCalibrates := by
  intro s o rest k htaken hk hfitted hle hclo hchi hcmod hzlo hzhi hslo hshi hwlo hwhi hpoints hband hcount hbatches htrack
    halarm hlatch h picking truck busy
  have hgood : Body.setChannelBad o.body ((s.begin.setInbound .wu rest).fitted (Body.channel o.body)) = none := by
    have hfit : (s.begin.setInbound .wu rest).fitted (Body.channel o.body) = true ∨ 4 ≤ Body.channel o.body := by
      rw [Body.channel, hk]
      by_cases h4 : 4 ≤ k
      · exact .inr h4
      · exact .inl ((State.fitted_iff (s := s) (by omega)).mpr (hfitted.resolve_right h4))
    refine firstBad_eq_none _ _ fun ok hok => ?_
    simp only [List.mem_append, List.mem_cons, List.not_mem_nil, or_false, Body.channelRecord, List.mem_map,
      List.mem_range] at hok
    rcases hok with ((rfl | rfl | rfl | rfl | rfl) | ⟨x, ⟨i, hi, rfl⟩, rfl⟩) | rfl | rfl | rfl | rfl | rfl | rfl
    · simp only [Bool.and_eq_true, Bool.or_eq_true, inRange_iff, decide_eq_true_eq]
      exact ⟨⟨Nat.zero_le _, by rw [Body.channel, hk]; exact hle⟩, hfit⟩
    · simp [inRange, hclo, hchi, hcmod]
    · simp [inRangeInt, hzlo, hzhi]
    · exact inRange_iff.mpr ⟨hslo, hshi⟩
    · exact inRange_iff.mpr ⟨hwlo, hwhi⟩
    · simp [inRangeInt, hpoints i hi]
    · exact inRange_iff.mpr (orDefault_range hband (by omega))
    · exact inRange_iff.mpr (orDefault_range hcount (by omega))
    · exact inRange_iff.mpr (orDefault_range (by omega) (by omega))
    · exact inRange_iff.mpr (orDefault_range htrack (by omega))
    · exact inRange_iff.mpr ⟨Nat.zero_le _, halarm⟩
    · exact inRange_iff.mpr ⟨Nat.zero_le _, hlatch⟩
  have hbusy : (s.begin.setInbound .wu rest).channelBusy (Body.channel o.body) = true ↔ busy := by
    rw [Body.channel, hk]
    exact State.channelBusy_iff (s := s.begin.setInbound .wu rest)
  refine ⟨fun hrefused => ?_, fun hfree => ?_⟩
  · refine handle_takeOrder_reply htaken ((State.checked_of_good hgood).trans ?_)
    rw [State.setChannelOrder, if_pos (hbusy.mpr hrefused), Body.channel, hk]
    rfl
  · have horder : (s.begin.setInbound .wu rest).checked o
        (Body.setChannelBad o.body ((s.begin.setInbound .wu rest).fitted (Body.channel o.body))) State.setChannelOrder =
        (((s.begin.setInbound .wu rest).modChannel k fun c =>
          c.recalibrated (Body.channelRecord o.body)).touch (Group.channel k)).reply o .ok := by
      rw [State.checked_of_good hgood, State.setChannelOrder, if_neg fun hb => hfree (hbusy.mp hb), Body.channel, hk]
    obtain ⟨t, hnext, hrecords, hanswered⟩ := takeOrder_answered (f := fun s o =>
      s.checked o (Body.setChannelBad o.body (s.fitted (Body.channel o.body))) State.setChannelOrder) htaken horder rfl rfl
    have hchannel (q : Nat) := (State.of_records (fun x => x.channel q) hrecords).trans (State.channel_setChannel ..)
    refine ⟨t, hnext, (hchannel k).trans (if_pos rfl), fun q hq => (hchannel q).trans (if_neg hq), ?_, hanswered,
      fun hmode => ?_⟩
    · rw [hrecords, State.of_records State.channels hrecords]
      rfl
    · have hshown := takeOrder_shows_group (g := Group.channel k) (f := fun s o =>
        s.checked o (Body.setChannelBad o.body (s.fitted (Body.channel o.body))) State.setChannelOrder) htaken hnext horder rfl
        hmode (Touched.mem_group _ _) (by simp [Group.channel]; omega) (by simp [Group.channel]; omega)
      have hoffset : groupOffset (Group.channel k) + 1 = 0x121 + 16 * k ∧ groupBodySize (Group.channel k) = 14 := by
        interval_cases k <;> exact ⟨rfl, rfl⟩
      rwa [hoffset.1, hoffset.2] at hshown

/-! ## ZERO_SET, ZERO_REARM (R130, R131) -/

theorem State.zeroBusy_eq_false_iff : s.zeroBusy k = false ↔
    (s.channel k).configured = true ∧ (s.channel k).data = true ∧
      (if k < 4 then (s.channel k).session = none else (s.bay ((k - 4) / 2)).session = none) ∧
      (s.channel k).zeroSet = none ∧ (s.channel k).lastEligible = true := by
  have hsession : s.inSession k = false ↔
      (if k < 4 then (s.channel k).session = none else (s.bay ((k - 4) / 2)).session = none) := by
    rw [State.inSession, channelBay]
    split <;> simp
  simp only [State.zeroBusy, Bool.or_eq_false_iff, Bool.not_eq_false', Option.isSome_eq_false_iff, Option.isNone_iff_eq_none,
    hsession, and_assoc]

/-- Settles O39: a zero set starts on a channel free for one; ZERO_REARM clears the flag. -/
theorem zeroSetStartsAndRearmClears : Obligations.ZeroSetStartsAndRearmClears := by
  refine ⟨?_, fun s o rest k htaken hk hle => ?_⟩
  · intro s o rest k htaken hk hle h free
    have hrange : ¬9 < Body.channel o.body := by rw [Body.channel, hk]; omega
    have hfree : (s.begin.setInbound .wu rest).zeroBusy (Body.channel o.body) = false ↔ free := by
      rw [Body.channel, hk]
      exact State.zeroBusy_eq_false_iff (s := s.begin.setInbound .wu rest)
    refine ⟨fun hbusy => ?_, fun hgo => ?_⟩
    · refine handle_takeOrder_reply (f := State.zeroSetOrder) htaken ?_
      have hbusy : (s.begin.setInbound .wu rest).zeroBusy (Body.channel o.body) = true :=
        Bool.eq_true_of_not_eq_false fun hno => hbusy (hfree.mp hno)
      rw [State.zeroSetOrder, if_neg hrange, if_pos hbusy, Body.channel, hk]
      rfl
    · have horder : (s.begin.setInbound .wu rest).zeroSetOrder o =
          ((s.begin.setInbound .wu rest).modChannel k fun c =>
            { c with zeroSet := some { cell := o.cell, take := o.take } }).working o.cell o.take 0 := by
        rw [State.zeroSetOrder, if_neg hrange, hfree.mpr hgo, if_neg Bool.false_ne_true, Body.channel, hk]
      obtain ⟨t, hnext, hrecords, hworking⟩ := takeOrder_working (f := State.zeroSetOrder) htaken horder rfl rfl
      have hchannel (q : Nat) := (State.of_records (fun x => x.channel q) hrecords).trans (State.channel_setChannel ..)
      refine ⟨t, hnext, (hchannel k).trans (if_pos rfl), fun q hq => (hchannel q).trans (if_neg hq), ?_, hworking⟩
      rw [hrecords, State.of_records State.channels hrecords]
      rfl
  · have horder : (s.begin.setInbound .wu rest).zeroRearmOrder o =
        ((s.begin.setInbound .wu rest).modChannel k fun c => { c with latched := false }).reply o .ok := by
      rw [State.zeroRearmOrder, Body.channel, hk, if_neg (by omega)]
    obtain ⟨t, hnext, hrecords, hanswered⟩ := takeOrder_answered (f := State.zeroRearmOrder) htaken horder rfl rfl
    have hchannel (q : Nat) := (State.of_records (fun x => x.channel q) hrecords).trans (State.channel_setChannel ..)
    refine ⟨t, hnext, (hchannel k).trans (if_pos rfl), fun q hq => (hchannel q).trans (if_neg hq), ?_, hanswered⟩
    rw [hrecords, State.of_records State.channels hrecords]
    rfl

/-! ## SET_BAY (R136) -/

/-- Settles O43: the bay takes the values and its group is written. -/
theorem setBayConfiguresTheBay : Obligations.SetBayConfiguresTheBay := by
  intro s o rest b htaken hb hle hspan hhi hclo hchi hline hmin hpm
  have hgood : Body.setBayBad o.body = none := by
    have hlo : fieldNat o.body 2 2 ≤ 60000 := by omega
    have hdmin : orDefault 30 (fieldNat o.body 10 2) ≤ 500 := (orDefault_range (lo := 0) (by omega) (by omega)).2
    have hdpm : orDefault 10 (fieldNat o.body 12 2) ≤ 100 := (orDefault_range (lo := 0) (by omega) (by omega)).2
    refine firstBad_eq_none _ _ ?_
    simp [inRange, Body.bay, Body.bxLo, Body.bxHi, Body.centre, Body.frontLine, Body.checkMin, Body.checkPm, hb, hle, hlo,
      hspan, hhi, hclo, hchi, hline, hdmin, hdpm]
  have horder : (s.begin.setInbound .lu rest).setBayOrder o =
      (((s.begin.setInbound .lu rest).modBay b fun k =>
        { k with
          state := .empty, bxLo := Body.bxLo o.body, bxHi := Body.bxHi o.body, centre := Body.centre o.body
          frontLine := Body.frontLine o.body, checkMin := Body.checkMin o.body, checkPm := Body.checkPm o.body
          occupied := s.areaLow.contains b, bedHold := s.areaLow.contains b }).touch (Group.bay b)).reply o .ok := by
    rw [State.setBayOrder, Body.bay, hb]
    rfl
  obtain ⟨t, hnext, hrecords, hanswered⟩ := checkedOrder_answered (f := State.setBayOrder)
    (bad := fun o => Body.setBayBad o.body) htaken hgood horder rfl rfl
  have hbay (q : Nat) := (State.of_records (fun x => x.bay q) hrecords).trans (State.bay_setBay ..)
  refine ⟨t, hnext, (hbay b).trans (if_pos rfl), fun q hq => (hbay q).trans (if_neg hq), ?_, hanswered, fun hmode => ?_⟩
  · rw [hrecords, State.of_records State.bays hrecords]
    rfl
  · have hshown := takeOrder_shows_group (g := Group.bay b)
      (f := fun s o => s.checked o (Body.setBayBad o.body) State.setBayOrder) htaken hnext
      ((State.checked_of_good hgood).trans horder) rfl hmode (Touched.mem_group _ _) (by simp [Group.bay]; omega)
      (by simp [Group.bay]; omega)
    have hoffset : groupOffset (Group.bay b) + 1 = 0xC1 + 32 * b ∧ groupBodySize (Group.bay b) = 30 := by
      interval_cases b <;> exact ⟨rfl, rfl⟩
    rwa [hoffset.1, hoffset.2] at hshown

/-! ## SET_COLUMN (R1, R2) -/

/-- The slots of a list each remasked. -/
def State.remaskSlots (s : State) (mask : BitVec 12) (l : List Nat) : State :=
  l.foldl (init := s) fun s i => s.setSlot i (remasked mask i (s.slot i))

theorem State.slot_remaskSlots (mask : BitVec 12) {l : List Nat} (hl : l.Nodup) (s : State) (i : Nat) :
    (s.remaskSlots mask l).slot i = if i ∈ l then remasked mask i (s.slot i) else s.slot i := by
  induction l generalizing s with
  | nil => rfl
  | cons j rest ih =>
    obtain ⟨hj, hrest⟩ := List.nodup_cons.mp hl
    rw [show s.remaskSlots mask (j :: rest) = (s.setSlot j (remasked mask j (s.slot j))).remaskSlots mask rest from rfl,
      ih hrest, State.slot_setSlot]
    by_cases hij : i = j
    · subst hij
      simp [hj]
    · simp [hij]

theorem State.remaskSlots_keeps {β : Type} (p : State → β) (hp : ∀ s i v, p (s.setSlot i v) = p s) (s : State)
    (mask : BitVec 12) (l : List Nat) : p (s.remaskSlots mask l) = p s :=
  foldl_field p (fun _ _ => hp ..) l s

theorem State.remaskSlots_records (s : State) (mask : BitVec 12) (l : List Nat) :
    (s.remaskSlots mask l).records = State.records { s with slots := (s.remaskSlots mask l).slots } :=
  calc (s.remaskSlots mask l).records
      = { (State.records { s.remaskSlots mask l with slots := [] }) with slots := (s.remaskSlots mask l).slots } := rfl
    _ = { (State.records { s with slots := [] }) with slots := (s.remaskSlots mask l).slots } := by
      rw [State.remaskSlots_keeps (fun s => State.records { s with slots := [] }) fun _ _ _ => rfl]
    _ = _ := rfl

theorem mem_columnSlots {c i : Nat} : i ∈ columnSlots c ↔ i / 24 = c := by
  simp only [columnSlots, List.mem_map, List.mem_range]
  constructor
  · rintro ⟨p, hp, rfl⟩
    omega
  · rintro rfl
    exact ⟨i % 24, Nat.mod_lt _ (by omega), by omega⟩

theorem columnSlots_nodup (c : Nat) : (columnSlots c).Nodup :=
  List.nodup_range.map fun a b h => by simpa using h

/-- The column and the row table a SET_COLUMN gives, the slots not yet following. -/
def State.columnEntered (s : State) (b : Body) : State :=
  { s.setColumn b.column { b.columnRecord with out := (s.column b.column).out } with rowY := b.rows }

/-- The state SET_COLUMN leaves before its answer, where no HELD slot is lost. -/
def State.columnSet (s : State) (b : Body) : State :=
  ((s.columnEntered b).remaskSlots b.columnRecord.mask (columnSlots b.column)).touch (Group.column b.column)

theorem State.setColumnOrder_of_kept (h : s.heldUnderMask (Body.column o.body) (Body.columnRecord o.body).mask = none) :
    s.setColumnOrder o = (s.columnSet o.body).reply o .ok := by
  unfold State.setColumnOrder
  dsimp only
  rw [h]
  rfl

theorem State.setColumnOrder_of_lost {i : Nat}
    (h : s.heldUnderMask (Body.column o.body) (Body.columnRecord o.body).mask = some i) :
    s.setColumnOrder o = s.reply o (.coilState (s.slotCoilId i)) := by
  unfold State.setColumnOrder
  dsimp only
  rw [h]

theorem State.columnSet_keeps {β : Type} (p : State → β) (s : State) (b : Body) (hp : ∀ s i v, p (State.setSlot s i v) = p s)
    (htouch : ∀ (s : State) (g : Nat), p (s.touch g) = p s) (hset : p (s.columnEntered b) = p s) :
    p (s.columnSet b) = p s :=
  (htouch _ _).trans ((State.remaskSlots_keeps p hp _ _ _).trans hset)

theorem State.columnSet_records (s : State) (b : Body) :
    (s.columnSet b).records = State.records { s.columnEntered b with slots := (s.columnSet b).slots } := by
  have hrecords := (s.columnEntered b).remaskSlots_records b.columnRecord.mask (columnSlots b.column)
  unfold State.columnSet
  generalize (s.columnEntered b).remaskSlots b.columnRecord.mask (columnSlots b.column) = w at hrecords
  exact hrecords

theorem State.slot_columnSet (s : State) (b : Body) (i : Nat) : (s.columnSet b).slot i =
    if i / 24 = b.column then remasked b.columnRecord.mask i (s.slot i) else s.slot i := by
  have hslot := State.slot_remaskSlots b.columnRecord.mask (columnSlots_nodup b.column) (s.columnEntered b) i
  simp only [mem_columnSlots] at hslot
  unfold State.columnSet
  generalize (s.columnEntered b).remaskSlots b.columnRecord.mask (columnSlots b.column) = w at hslot
  exact hslot

theorem State.column_columnSet (s : State) (b : Body) (d : Nat) : (s.columnSet b).column d =
    if d = b.column then { b.columnRecord with out := (s.column b.column).out } else s.column d :=
  (State.of_records (u := { s.columnEntered b with slots := (s.columnSet b).slots }) (fun x => x.column d)
    (s.columnSet_records b)).trans (State.column_setColumn s b.column _ d)

/-- No HELD slot of the column is lost under the mask. -/
theorem State.heldUnderMask_eq_none {c : Nat} {mask : BitVec 12} :
    s.heldUnderMask c mask = none ↔ ∀ p < 24, (s.slot (24 * c + p)).state = .held → slotExists mask p = true := by
  have hpos (p : Nat) (h : p < 24) : slotPos (24 * c + p) = p := by
    unfold slotPos
    omega
  simp only [State.heldUnderMask, columnSlots, List.find?_eq_none, List.mem_map, List.mem_range, forall_exists_index, and_imp,
    forall_apply_eq_imp_iff₂, Bool.and_eq_true, beq_iff_eq, Bool.not_eq_true', not_and, Bool.not_eq_false]
  exact forall₂_congr fun p h => by rw [hpos p h]

theorem find?_range_of_least {q : Nat → Bool} {n p : Nat} (hp : p < n) (hq : q p = true) (hleast : ∀ i < p, q i = false) :
    (List.range n).find? q = some p := by
  rw [List.find?_range_eq_some]
  exact ⟨hq, List.mem_range.mpr hp, fun i hi => by simp [hleast i hi]⟩

/-- The lowest HELD slot of the column lost under the mask. -/
theorem State.heldUnderMask_eq_some {c p : Nat} {mask : BitVec 12} (hp : p < 24)
    (hheld : (s.slot (24 * c + p)).state = .held) (hlost : slotExists mask p = false)
    (hleast : ∀ q < p, (s.slot (24 * c + q)).state = .held → slotExists mask q = true) :
    s.heldUnderMask c mask = some (24 * c + p) := by
  have hpos (p : Nat) (h : p < 24) : slotPos (24 * c + p) = p := by
    unfold slotPos
    omega
  rw [State.heldUnderMask, columnSlots, List.find?_map,
    find?_range_of_least hp (by simp [hheld, hlost, hpos p hp]) fun q hq => by
      have hkept := hleast q hq
      simp only [Function.comp_apply, hpos q (by omega), Bool.and_eq_false_iff, beq_eq_false_iff_ne, Bool.not_eq_false']
      tauto]
  rfl

theorem Body.setColumnBad_eq_none {b : Body} (hc : b.column ≤ 63) (hx : fieldNat b 2 2 ≤ 60000)
    (hwlo : 600 ≤ fieldNat b 6 2) (hwhi : fieldNat b 6 2 ≤ 2200) (hdlo : 800 ≤ fieldNat b 8 2) (hdhi : fieldNat b 8 2 ≤ 2500)
    (hllo : 1 ≤ fieldNat b 10 2) (hlhi : fieldNat b 10 2 ≤ 4500) (hulo : 1 ≤ fieldNat b 12 2) (huhi : fieldNat b 12 2 ≤ 4500)
    (hrow : ∀ r < 12, b.rowY r ≤ 4000) (hrise : ∀ r < 11, b.rowY r < b.rowY (r + 1)) : b.setColumnBad = none := by
  refine firstBad_eq_none _ _ fun ok hok => ?_
  rcases List.mem_append.mp hok with hok | hok
  · revert ok
    simp [inRange, Body.columnRecord, hc, hx, hwlo, hwhi, hdlo, hdhi, hllo, hlhi, hulo, huhi]
  · obtain ⟨r, hr, rfl⟩ := List.mem_map.mp hok
    have hr := List.mem_range.mp hr
    cases r with
    | zero => simp [inRange, hrow 0 hr]
    | succ r => simp [inRange, hrow _ hr, hrise r (by omega)]

/-- A column's group written by an order that noted it, with its edition (R195). -/
theorem setColumn_shows_group {c : Nat} (htaken : TakenUp s .su Kind.setColumn o rest)
    (hnext : exec .setColumn s = .next t)
    (horder : (s.begin.setInbound .su rest).checked o (Body.setColumnBad o.body) State.setColumnOrder = u.reply o a)
    (hmem : u.mem = s.mem) (heditions : u.groupEditions = s.groupEditions) (hmode : u.mode ≠ .resetting)
    (hlaw : s.tablesLaw = true) (hc : c ≤ 63) (hlisted : c ∈ u.columns.keys)
    (htouched : Group.column c ∈ u.touched.groups) :
    Tab.get 0 t.groupEditions (20 + c) = Tab.get 0 s.groupEditions (20 + c) + 1 ∧
      t.readBytes (0x200 + 4 * c) 4 = (Tab.get 0 s.groupEditions (20 + c) + 1) :: groupBody t (20 + c) ++
        [Tab.get 0 s.groupEditions (20 + c) + 1] := by
  have hcurrent : u.cellIsOf o.cell o.take = true :=
    (State.cellIsOf_congr fun b _ _ => State.readByte_congr hmem b).trans htaken.current
  have hbegin := (takeOrder_begin (f := fun s o => s.checked o (Body.setColumnBad o.body) State.setColumnOrder)
    htaken).trans horder
  have hlaws := setColumn_laws s.begin
  rw [hbegin] at hlaws
  have hrecords := State.reply_records hcurrent a
  have hreply : (u.reply o a).groupEditions = s.groupEditions := by
    rw [State.reply_eq hcurrent, State.writeAnswer_raise_eq]
    exact heditions
  have hnoted := State.reply_touched hcurrent a
  have hfinal : t = publish s.begin (u.reply o a) := by
    have hexec : exec .setColumn s = .next (publish s.begin (u.reply o a)) := by
      rw [← hbegin]
      exact handle_next _ s
    rw [hexec] at hnext
    cases hnext
    rfl
  generalize u.reply o a = w at *
  have hkeys : w.columns.keys = u.columns.keys := congrArg Tab.keys (State.of_records State.columns hrecords)
  have hmem : 20 + c ∈ recordGroups s.begin w := mem_recordGroups.mpr
    (.inr (.inl ⟨by omega, .inr (by rw [Nat.add_sub_cancel_left, hkeys]; exact hlisted)⟩))
  obtain ⟨hold, -⟩ := State.tablesLaw_iff.mp hlaw
  obtain ⟨hnew, -⟩ := State.tablesLaw_iff.mp (hlaws.tables hlaw)
  have honce := groupsWritten_count
    (recordGroups_count (g := 20 + c) (nodup_of_rising hold) (nodup_of_rising hnew) (by omega) hmem)
    (mem_groupsWritten.mpr ⟨hmem, .inl (by rw [hnoted]; exact htouched)⟩)
  obtain ⟨hedition, hbytes⟩ := publish_group_written
    (by rwa [State.of_records State.mode hrecords]) honce (.inl (by omega))
  have hoffset : groupOffset (20 + c) = 0x200 + 4 * c ∧ groupBodySize (20 + c) + 2 = 4 := by
    interval_cases c <;> exact ⟨rfl, rfl⟩
  rw [hoffset.1, hoffset.2, hreply] at hbytes
  rw [hreply] at hedition
  subst hfinal
  refine ⟨hedition, hbytes.trans ?_⟩
  rw [State.of_records (fun x => groupBody x (20 + c)) (publish_records s.begin w)]

theorem State.mem_columnSet_columns (s : State) (b : Body) : b.column ∈ (s.columnSet b).columns.keys := by
  have hcolumns := State.of_records (u := { s.columnEntered b with slots := (s.columnSet b).slots }) State.columns
    (s.columnSet_records b)
  rw [hcolumns]
  by_contra hnone
  have hfind := Tab.find_of_not_mem_keys hnone
  exact absurd ((Tab.find_put_self s.columns b.column { b.columnRecord with out := (s.column b.column).out }).symm.trans hfind)
    (by simp)

/-- Settles O14: the column, the rows and the slots follow, or the lowest lost HELD slot is named. -/
theorem setColumnFollowsTheOrder : Obligations.SetColumnFollowsTheOrder := by
  intro s o rest c mask htaken hc hle hx hmask hwlo hwhi hdlo hdhi hllo hlhi hulo huhi hrow hrise
  have hgood : Body.setColumnBad o.body = none :=
    Body.setColumnBad_eq_none (by rw [Body.column, hc]; exact hle) hx hwlo hwhi hdlo hdhi hllo hlhi hulo huhi hrow hrise
  have hcolumn : Body.column o.body = c := hc
  have hrecord : (Body.columnRecord o.body).mask = mask := hmask.symm
  refine ⟨fun hkept => ?_, fun p r k hp hheld hlost hleast hcoil hk => ?_⟩
  · have horder : (s.begin.setInbound .su rest).checked o (Body.setColumnBad o.body) State.setColumnOrder =
        ((s.begin.setInbound .su rest).columnSet o.body).reply o .ok := by
      rw [State.checked_of_good hgood, State.setColumnOrder_of_kept]
      rw [hcolumn, hrecord]
      exact State.heldUnderMask_eq_none.mpr hkept
    have hmem : ((s.begin.setInbound .su rest).columnSet o.body).mem = s.mem :=
      State.columnSet_keeps State.mem _ _ (fun _ _ _ => rfl) (fun _ _ => rfl) rfl
    have hflags : ((s.begin.setInbound .su rest).columnSet o.body).flags = s.flags :=
      State.columnSet_keeps State.flags _ _ (fun _ _ _ => rfl) (fun _ _ => rfl) rfl
    obtain ⟨t, hnext, hrecords, hanswered⟩ := takeOrder_answered (f := fun s o =>
      s.checked o (Body.setColumnBad o.body) State.setColumnOrder) htaken horder hmem hflags
    have hcolumns (d : Nat) := (State.of_records (fun x => x.column d) hrecords).trans (State.column_columnSet ..)
    have hslot (i : Nat) := (State.of_records (fun x => x.slot i) hrecords).trans (State.slot_columnSet ..)
    have hset := State.columnSet_records (s.begin.setInbound .su rest) o.body
    have hrows : t.rowY = Body.rows o.body :=
      (State.of_records State.rowY hrecords).trans (State.of_records
        (u := { (s.begin.setInbound .su rest).columnEntered o.body with
          slots := ((s.begin.setInbound .su rest).columnSet o.body).slots }) State.rowY hset)
    refine ⟨t, hnext, ?_, fun d hd => ?_, hrows, fun i => ?_, ?_, hanswered, fun hmode hlaw => ?_⟩
    · rw [hcolumns, if_pos hcolumn.symm, hcolumn, hmask]
      rfl
    · rw [hcolumns, if_neg (hcolumn ▸ hd)]
      rfl
    · rw [hslot, hcolumn, hrecord]
      rfl
    · have htcolumns : t.columns = _ :=
        (State.of_records State.columns hrecords).trans (State.of_records
          (u := { (s.begin.setInbound .su rest).columnEntered o.body with
            slots := ((s.begin.setInbound .su rest).columnSet o.body).slots }) State.columns hset)
      rw [hrecords, State.of_records State.slots hrecords, hrows, htcolumns, hset]
      rfl
    · refine setColumn_shows_group (c := c) htaken hnext horder hmem
        (State.columnSet_keeps State.groupEditions _ _ (fun _ _ _ => rfl) (fun _ _ => rfl) rfl) ?_ hlaw hle
        (hcolumn ▸ State.mem_columnSet_columns ..) (hcolumn ▸ Touched.mem_group ..)
      rwa [show ((s.begin.setInbound .su rest).columnSet o.body).mode = s.mode from
        State.columnSet_keeps State.mode _ _ (fun _ _ _ => rfl) (fun _ _ => rfl) rfl]
  · have hlow : (s.begin.setInbound .su rest).heldUnderMask (Body.column o.body) (Body.columnRecord o.body).mask =
        some (24 * c + p) := by
      rw [hcolumn, hrecord]
      exact State.heldUnderMask_eq_some hp hheld hlost hleast
    have hid : (s.begin.setInbound .su rest).slotCoilId (24 * c + p) = k.id := by
      have hslot : ((s.begin.setInbound .su rest).slot (24 * c + p)).coil = some r := hcoil
      have hcoil? : (s.begin.setInbound .su rest).coil? r = some k := hk
      rw [State.slotCoilId, hslot, Option.bind_some, hcoil?]
      rfl
    refine handle_takeOrder_reply (f := fun s o => s.checked o (Body.setColumnBad o.body) State.setColumnOrder) htaken ?_
    refine (State.checked_of_good hgood).trans ((State.setColumnOrder_of_lost hlow).trans ?_)
    rw [hid]
    rfl

end Sys2Proof.Machine
end

section
/-! PROOF. Telegrams on the lines: a receiver inside a telegram waits for its check character, and the body is read back
(R42, R112, R202). -/

namespace Sys2Proof.Machine

variable {sort : LineSort} {address n : Nat} {kind : Byte} {body got : List Byte} {e : LineEvent}

theorem sum8_append_singleton (bs : List Byte) (x : Byte) : sum8 (bs ++ [x]) = sum8 bs + x := by
  rw [sum8, List.foldl_append]
  rfl

/-- The telegram so far, of a kind known on its line with the length laid down, is not whole before its check character. -/
theorem judge_incomplete (hkind : sort.bodyLength kind = some n) (hbody : body.length = n) {l : List Byte}
    (hl : l <+: frameCore address kind body) : judge sort address l = none := by
  unfold frameCore at hl
  obtain ⟨rest, hrest⟩ := hl
  match l, hrest with
  | [], _ => rfl
  | [a], hrest =>
    obtain rfl := (List.cons.inj hrest).1
    simp [judge]
  | [a, k], hrest =>
    obtain ⟨rfl, htail⟩ := List.cons.inj hrest
    obtain rfl := (List.cons.inj htail).1
    simp [judge, hkind]
  | a :: k :: len :: b, hrest =>
    simp only [List.cons_append, List.cons.injEq] at hrest
    obtain ⟨rfl, rfl, rfl, htail⟩ := hrest
    have hlen : b.length ≤ n := by
      have := congrArg List.length htail
      rw [List.length_append] at this
      omega
    simp [judge, hkind, hbody, hlen]

/-- The check character decides: with the sum 0 the telegram is the event its body spells, else it is bad. -/
theorem judge_whole (hkind : sort.bodyLength kind = some n) (hbody : body.length = n) (x : Byte) :
    judge sort address (frameCore address kind body ++ [x]) =
      some (if x = -(sum8 (frameCore address kind body)) then eventOf kind body else .bad) := by
  have hsum : sum8 (frameCore address kind body ++ [x]) = 0 ↔ x = -(sum8 (frameCore address kind body)) := by
    rw [sum8_append_singleton, add_comm, add_eq_zero_iff_eq_neg]
  have htake : (body ++ [x]).take n = body := by rw [← hbody, List.take_left']; rfl
  unfold frameCore at hsum ⊢
  rw [hbody] at hsum ⊢
  simp only [List.cons_append] at hsum ⊢
  simp only [judge, ne_eq, not_true_eq_false, if_false, hkind, List.length_append, List.length_singleton, hbody, hsum, htake]
  rw [if_neg (by omega)]
  exact (apply_ite some ..).symm

/-- A receiver inside a telegram that is not whole yet takes its characters in. -/
theorem receiveAll_quiet {l : List Byte} (hquiet : ∀ p, p <+: l → judge sort address (got ++ p) = none) (rest : List LineChar) :
    receiveAll sort address (some got) (l.map (fun b => { data := b }) ++ rest) =
      receiveAll sort address (some (got ++ l)) rest := by
  induction l generalizing got with
  | nil => simp
  | cons b l ih =>
    have hfirst : judge sort address (got ++ [b]) = none := hquiet [b] ⟨l, rfl⟩
    have hstep : receive sort address (some got) { data := b } = (some (got ++ [b]), none) := by
      simp only [receive, Bool.not_true, Bool.false_eq_true, if_false, hfirst]
    have hrest := ih (got := got ++ [b]) fun p ⟨q, hq⟩ => by
      rw [List.append_assoc]
      exact hquiet (b :: p) ⟨q, by rw [← hq]; rfl⟩
    rw [List.append_assoc, List.singleton_append] at hrest
    rw [List.map_cons, List.cons_append, receiveAll, hstep, hrest]
    rfl

/-- A telegram of a known kind with the length laid down, ended by any character. -/
theorem receiveAll_telegram (hkind : sort.bodyLength kind = some n) (hbody : body.length = n) (x : Byte) :
    receiveAll sort address none (((startChar :: frameCore address kind body) ++ [x]).map fun b => { data := b }) =
      (none, [if x = -(sum8 (frameCore address kind body)) then eventOf kind body else .bad]) := by
  have hstart : receive sort address none { data := startChar } = (some [], none) := rfl
  have hlast : receive sort address (some (frameCore address kind body)) { data := x } =
      (none, some (if x = -(sum8 (frameCore address kind body)) then eventOf kind body else .bad)) := by
    simp only [receive, Bool.not_true, Bool.false_eq_true, if_false, judge_whole hkind hbody]
  rw [List.cons_append, List.map_cons, receiveAll, hstart, List.map_append]
  dsimp only
  rw [receiveAll_quiet fun p hp => by rw [List.nil_append]; exact judge_incomplete hkind hbody hp, List.nil_append]
  simp only [List.map_cons, List.map_nil, receiveAll, hlast]
  rfl

/-! ## The bodies read back (11.7) -/

theorem toNat_append_byte {m : Nat} (x : BitVec m) (a : Byte) : (x ++ a).toNat = x.toNat * 256 + a.toNat := by
  rw [BitVec.toNat_append, ← Nat.shiftLeft_add_eq_or_of_lt a.isLt, Nat.shiftLeft_eq]

theorem toNat_extract_byte {w : Nat} (v : BitVec w) (i : Nat) : (v.extractLsb' i 8).toNat = v.toNat / 2 ^ i % 256 := by
  rw [BitVec.extractLsb'_toNat, Nat.shiftRight_eq_div_pow]

theorem word16_extract (v : BitVec 16) : word16 (v.extractLsb' 0 8) (v.extractLsb' 8 8) = v := by
  refine BitVec.eq_of_toNat_eq ((toNat_append_byte ..).trans ?_)
  have hv := v.isLt
  simp only [toNat_extract_byte]
  omega

theorem word24_extract (v : BitVec 24) :
    word24 (v.extractLsb' 0 8) (v.extractLsb' 8 8) (v.extractLsb' 16 8) = v := by
  refine BitVec.eq_of_toNat_eq ?_
  have happend : (word24 (v.extractLsb' 0 8) (v.extractLsb' 8 8) (v.extractLsb' 16 8)).toNat =
      (v.extractLsb' 16 8).toNat * 65536 + ((v.extractLsb' 8 8).toNat * 256 + (v.extractLsb' 0 8).toNat) := by
    rw [← toNat_append_byte]
    refine (BitVec.toNat_append ..).trans ?_
    rw [← Nat.shiftLeft_add_eq_or_of_lt (BitVec.isLt _), Nat.shiftLeft_eq]
  have hv := v.isLt
  rw [happend]
  simp only [toNat_extract_byte]
  omega

theorem word32_extract (v : BitVec 32) :
    word32 (v.extractLsb' 0 8) (v.extractLsb' 8 8) (v.extractLsb' 16 8) (v.extractLsb' 24 8) = v := by
  refine BitVec.eq_of_toNat_eq ?_
  have happend : (word32 (v.extractLsb' 0 8) (v.extractLsb' 8 8) (v.extractLsb' 16 8) (v.extractLsb' 24 8)).toNat =
      (v.extractLsb' 24 8).toNat * 16777216 + ((v.extractLsb' 16 8).toNat * 65536 +
        ((v.extractLsb' 8 8).toNat * 256 + (v.extractLsb' 0 8).toNat)) := by
    refine (BitVec.toNat_append ..).trans ?_
    rw [← Nat.shiftLeft_add_eq_or_of_lt (BitVec.isLt _), BitVec.toNat_append,
      ← Nat.shiftLeft_add_eq_or_of_lt (BitVec.isLt _), toNat_append_byte, Nat.shiftLeft_eq, Nat.shiftLeft_eq]
  have hv := v.isLt
  rw [happend]
  simp only [toNat_extract_byte]
  omega

theorem eventOf_statusBody (r : StatusReport) : eventOf 0x41 (statusBody r) = .status r := by
  simp only [eventOf, statusBody, Nat.mul_zero, Nat.mul_one, word16_extract, word24_extract, Nat.reduceMul]

theorem eventOf_tagBody (r : TagReport) : eventOf 0x42 (tagBody r) = .tag r := by
  have hbody : tagBody r = [r.seq, r.present, r.id.extractLsb' 0 8, r.id.extractLsb' 8 8, r.id.extractLsb' 16 8,
    r.id.extractLsb' 24 8] := rfl
  rw [hbody, eventOf, word32_extract]
  rfl

theorem eventOf_sampleBody (r : SampleReport) : eventOf 0x51 (sampleBody r) = .sample r := by
  have hbody : sampleBody r = [r.front.extractLsb' 0 8, r.front.extractLsb' 8 8, r.front.extractLsb' 16 8,
    r.rear.extractLsb' 0 8, r.rear.extractLsb' 8 8, r.rear.extractLsb' 16 8] := rfl
  rw [hbody, eventOf, word24_extract, word24_extract]
  rfl

/-- Settles O60: a telegram is taken in whole and judged by its check character; bad parity inside one makes it bad. -/
theorem telegramsAreReadBack : Obligations.TelegramsAreReadBack := by
  refine ⟨fun address sort kind body e hreport => ?_, fun sort address got b => rfl⟩
  obtain ⟨n, hkind, hbody, hevent⟩ : ∃ n, sort.bodyLength kind = some n ∧ body.length = n ∧ eventOf kind body = e := by
    rcases hreport with ⟨rfl, rfl, r, rfl, rfl⟩ | ⟨rfl, rfl, r, rfl, rfl⟩ | ⟨rfl, rfl, r, rfl, rfl⟩
    · exact ⟨16, rfl, rfl, eventOf_statusBody r⟩
    · exact ⟨6, rfl, rfl, eventOf_tagBody r⟩
    · exact ⟨6, rfl, rfl, eventOf_sampleBody r⟩
  refine ⟨?_, fun x hx => ?_⟩
  · have hwhole := receiveAll_telegram (address := address) hkind hbody (-(sum8 (frameCore address kind body)))
    rw [if_pos rfl, hevent] at hwhole
    exact hwhole
  · have hbad := receiveAll_telegram (address := address) hkind hbody x
    rwa [if_neg hx] at hbad

end Sys2Proof.Machine
end

section
/-! PROOF. Where the fields of image entries and directory groups stand (R22, 11.4, 11.5). -/

namespace Sys2Proof.Machine

variable {s t : State} {k n off v : Nat} {l : List Byte}

/-! ## A field of a run of bytes -/

/-- A run read from within another is the other's part. -/
theorem State.readBytes_within (s : State) (off k n m : Nat) :
    s.readBytes (off + k) n = ((s.readBytes off (k + n + m)).drop k).take n := by
  rw [Nat.add_assoc, State.readBytes_append, List.drop_left' (State.readBytes_length ..), State.readBytes_append,
    List.take_left' (State.readBytes_length ..)]

/-- A little-endian field stands where its bytes do. -/
theorem readNat_of_bytes {size : Nat} (h : t.readBytes off size = l) (hfit : k + n ≤ size)
    (hfield : (l.drop k).take n = leBytes n v) : t.readNat (off + k) n = v % 256 ^ n := by
  obtain ⟨m, rfl⟩ := Nat.exists_eq_add_of_le hfit
  rw [State.readNat, State.readBytes_within t off k n m, h, hfield, leNat_leBytes]

/-- A signed field is the number's two's complement. -/
theorem toNat_ofInt_eq (w : Nat) (z : Int) : (z % ((2 ^ w : Nat) : Int)).toNat % 2 ^ w = (BitVec.ofInt w z).toNat := by
  have hpos : (0 : Int) < ((2 ^ w : Nat) : Int) := by exact_mod_cast Nat.two_pow_pos w
  have hlt := Int.emod_lt_of_pos z hpos
  have hnonneg := Int.emod_nonneg z hpos.ne'
  rw [BitVec.toNat_ofInt, Nat.mod_eq_of_lt (by omega)]

/-! ## Counts of a table's numbers (R22) -/

theorem Tab.find_eq_some_iff {α : Type} {tab : Tab α} (h : tab.keys.Nodup) {k : Nat} {v : α} :
    tab.find k = some v ↔ (k, v) ∈ tab := by
  induction tab with
  | nil => simp [Tab.find]
  | cons p rest ih =>
    obtain ⟨hp, hrest⟩ := List.nodup_cons.mp h
    rw [Tab.find, List.mem_cons]
    by_cases hk : p.1 = k
    · rw [if_pos hk]
      have hnot : (k, v) ∉ rest := fun hmem => hp (by
        have hkey := List.mem_map_of_mem (f := fun q : Nat × α => q.1) hmem
        rwa [← hk] at hkey)
      simp only [hnot, or_false, Option.some.injEq, Prod.ext_iff, hk, true_and, eq_comm]
    · rw [if_neg hk, ih hrest]
      simp only [Prod.ext_iff, Ne.symm hk, false_and, false_or]

theorem isLower_iff {i : Nat} : isLower i = true ↔ i % 24 < 12 := by
  unfold isLower slotPos
  exact decide_eq_true_iff

theorem isUpper_iff {i : Nat} : isUpper i = true ↔ 12 ≤ i % 24 ∧ i % 24 < 23 := by
  unfold isUpper slotPos
  exact decide_eq_true_iff

/-- The slots of a kind, counted in the table and by their numbers. -/
theorem State.slots_count (h : s.slots.keys.Nodup) (q : Nat → SlotState → Bool) :
    (s.slots.filter fun p => q p.1 p.2.state).length = (s.slots.keys.filter fun i => q i (s.slot i).state).length := by
  rw [Tab.keys, List.filter_map, List.length_map]
  congr 1
  refine List.filter_congr fun p hp => ?_
  have hfind : s.slots.find p.1 = some p.2 := (Tab.find_eq_some_iff h).mpr hp
  simp only [Function.comp_apply, State.slot, Tab.get, hfind, Option.getD_some]

/-- A column's slots of a kind, of which an OFF slot is none, counted over the column's positions. -/
theorem State.columnSlots_count (h : s.slots.keys.Nodup) {c m : Nat} {q : Nat → SlotState → Bool} {f : Nat → Nat}
    (hf : ∀ a < m, ∀ b < m, f a = f b → a = b)
    (hq : ∀ i st, q i st = true → st ≠ .off ∧ i / 24 = c ∧ ∃ a < m, f a = i % 24)
    (hqf : ∀ a < m, ∀ st, q (24 * c + f a) st = (st == .free)) :
    (s.slots.filter fun p => q p.1 p.2.state).length =
      (((List.range m).map f).filter fun p => (s.slot (24 * c + p)).state == .free).length := by
  rw [State.slots_count h, ← List.length_map (f := (24 * c + ·)) (as := ((List.range m).map f).filter _)]
  refine List.Perm.length_eq ((List.perm_ext_iff_of_nodup (h.filter _) ?_).mpr fun i => ?_)
  · refine ((List.Nodup.filter _ ?_)).map fun a b hab => by simpa using hab
    exact List.Nodup.map_on (fun a ha b hb hab => hf a (List.mem_range.mp ha) b (List.mem_range.mp hb) hab) List.nodup_range
  · simp only [List.mem_filter, List.mem_map, List.mem_range]
    constructor
    · rintro ⟨-, hi⟩
      obtain ⟨-, rfl, a, ha, hfa⟩ := hq _ _ hi
      have hpos : 24 * (i / 24) + f a = i := by omega
      have hfree := hqf a ha (s.slot i).state
      rw [hpos, hi] at hfree
      exact ⟨f a, ⟨⟨a, ha, rfl⟩, by rw [hpos]; exact hfree.symm⟩, hpos⟩
    · rintro ⟨p, ⟨⟨a, ha, rfl⟩, hfree⟩, rfl⟩
      have hq' := hqf a ha (s.slot (24 * c + f a)).state
      rw [hfree] at hq'
      refine ⟨?_, hq'⟩
      by_contra hnone
      have hslot : s.slot (24 * c + f a) = {} := by
        rw [State.slot, Tab.get, Tab.find_of_not_mem_keys hnone]
        rfl
      exact (hq _ _ hq').1 (by rw [hslot])

/-! ## The groups' offsets -/

theorem groupOffset_crane {c : Nat} (h : c < 4) : groupOffset (3 + c) = 0x40 + 32 * c ∧ groupBodySize (3 + c) = 30 := by
  interval_cases c <;> exact ⟨rfl, rfl⟩

theorem groupOffset_bay {b : Nat} (h : b < 3) : groupOffset (7 + b) = 0xC0 + 32 * b ∧ groupBodySize (7 + b) = 30 := by
  interval_cases b <;> exact ⟨rfl, rfl⟩

theorem groupOffset_channel {k : Nat} (h : k < 10) : groupOffset (10 + k) = 0x120 + 16 * k ∧ groupBodySize (10 + k) = 14 := by
  interval_cases k <;> exact ⟨rfl, rfl⟩

theorem groupOffset_column {c : Nat} (h : c < 64) : groupOffset (20 + c) = 0x200 + 4 * c ∧ groupBodySize (20 + c) = 2 := by
  interval_cases c <;> exact ⟨rfl, rfl⟩

theorem groupBody_crane (s : State) {c : Nat} (h : c < 4) : groupBody s (3 + c) = padTo 30 (craneBody s c) := by
  interval_cases c <;> rfl

theorem groupBody_bay (s : State) {b : Nat} (h : b < 3) : groupBody s (7 + b) = padTo 30 (bayBody s b) := by
  interval_cases b <;> rfl

theorem groupBody_channel (s : State) {k : Nat} (h : k < 10) : groupBody s (10 + k) = padTo 14 (channelBody s k) := by
  interval_cases k <;> rfl

theorem groupBody_column (s : State) {c : Nat} (h : c < 64) :
    groupBody s (20 + c) = [byte (columnCounts s c).1, byte (columnCounts s c).2] := by
  rw [groupBody, if_neg (by omega), if_neg (by omega), if_neg (by omega), if_neg (by omega), if_neg (by omega),
    if_neg (by omega), if_pos (by omega), Nat.add_sub_cancel_left, (groupOffset_column h).2]
  rfl

/-- A group written stands in its place between two equal editions. -/
theorem State.readBytes_writeGroup (s : State) {g off size : Nat} (hg : groupOffset g = off ∧ groupBodySize g = size) :
    ∃ e, (s.writeGroup g).readBytes off (size + 2) = e :: groupBody s g ++ [e] := by
  rw [← hg.1, ← hg.2]
  exact ⟨_, group_editionWrites.bytes s g⟩

/-! ## The fields (11.4, 11.5) -/

theorem slotImage_shows (s : State) (i : Nat) :
    let v := s.slot i
    let code := match v.state with | .off => 0 | .free => 1 | .targeted => 2 | .held => 3 | .leaving => 4
    (s.writeSlotImage i).readNat (0xD000 + 8 * i + 1) 2 = (v.coil.getD 0 + 4096 * code) % 65536 ∧
      (s.writeSlotImage i).readNat (0xD000 + 8 * i + 3) 4 = (((v.coil.bind s.coil?).map Coil.id).getD 0) % 4294967296 := by
  have hbytes := slotImage_editionWrites.bytes s i
  refine ⟨?_, readNat_of_bytes hbytes (by omega) rfl⟩
  rw [show (match (s.slot i).state with | .off => 0 | .free => 1 | .targeted => 2 | .held => 3 | .leaving => 4) =
    (s.slot i).state.code by cases (s.slot i).state <;> rfl]
  exact readNat_of_bytes (n := 2) hbytes (by omega) rfl

/-- The fields of a coil image entry, by their bytes. -/
theorem coilImage_bytes {r : Nat} {c : Coil} (hc : s.coil? r = some c) :
    ∃ e, (s.writeCoilImage r).readBytes (0x10000 + 32 * r) 32 =
      e :: ([byte c.status.code, byte (c.qualityHold.toNat + 2 * c.outbound.toNat + 4 * c.placeDoubt.toNat),
        byte c.place.kindCode] ++ leBytes 2 c.place.valueCode ++ leBytes 2 c.declared
        ++ leBytes 2 (c.measured.getD 0xFFFF) ++ leBytes 2 c.width ++ leBytes 2 c.diameter
        ++ [byte c.group, byte (c.move.getD 0xFF)] ++ leBytes 4 c.id ++ zeros 11) ++ [e] := by
  rw [← coilImageBody_of_some hc]
  exact ⟨_, coilImage_editionWrites.bytes s r⟩

theorem coilImage_shows {r : Nat} {c : Coil} (hc : s.coil? r = some c) :
    let t := s.writeCoilImage r
    let shows := fun at_ n v : Nat => t.readNat (0x10000 + 32 * r + at_) n = v % 256 ^ n
    let place := match c.place with
      | .slot i => (1, i)
      | .station n => (2, n)
      | .hook k => (3, k)
      | .bed b e => (4, b + 256 * e)
    shows 1 1 (match c.status with
      | .unweighed => 0 | .weighed => 1 | .mismatch => 2 | .unsettled => 3 | .over => 4) ∧
    shows 2 1 (c.qualityHold.toNat + 2 * c.outbound.toNat + 4 * c.placeDoubt.toNat) ∧ shows 3 1 place.1 ∧
    shows 4 2 place.2 ∧ shows 6 2 c.declared ∧ shows 8 2 (c.measured.getD 0xFFFF) ∧ shows 10 2 c.width ∧
    shows 12 2 c.diameter ∧ shows 14 1 c.group ∧ shows 15 1 (c.move.getD 0xFF) ∧ shows 16 4 c.id := by
  obtain ⟨e, hbytes⟩ := coilImage_bytes hc
  intro t shows place
  have hfield {at_ n v : Nat} (hfit : at_ + n ≤ 32) (hfield : _) : shows at_ n v := readNat_of_bytes hbytes hfit hfield
  have hstatus : (match c.status with
      | .unweighed => 0 | .weighed => 1 | .mismatch => 2 | .unsettled => 3 | .over => 4) = c.status.code := by
    cases c.status <;> rfl
  have hplace : place = (c.place.kindCode, c.place.valueCode) := by
    simp only [place]
    cases c.place <;> rfl
  rw [hstatus, hplace]
  exact ⟨hfield (by omega) rfl, hfield (by omega) rfl, hfield (by omega) rfl, hfield (by omega) rfl,
    hfield (by omega) rfl, hfield (by omega) rfl, hfield (by omega) rfl, hfield (by omega) rfl,
    hfield (by omega) rfl, hfield (by omega) rfl, hfield (by omega) rfl⟩

theorem craneGroup_shows {c : Nat} (hc : c < 4) (hfitted : (s.crane c).state ≠ .absent) :
    let k := s.crane c
    let t := s.writeGroup (3 + c)
    let shows := fun at_ n v : Nat => t.readNat (0x40 + 32 * c + at_) n = v % 256 ^ n
    shows 1 1 (match k.state with
      | .absent => 0 | .out => 1 | .idle => 2 | .busy => 3 | .yielding => 4 | .stopped => 5 | .fault => 6) ∧
    shows 2 1 (k.causes.haltAll.toNat + 2 * k.causes.lockLost.toNat + 4 * k.causes.west.toNat
      + 8 * k.causes.east.toNat) ∧
    shows 3 1 (match k.link with | .up => 0 | .doubt => 1 | .lost => 2) ∧
    shows 4 1 (match k.lock with | .locked => 0 | .lost => 1) ∧
    shows 5 1 (match k.tong with | .open_ => 0 | .closedEmpty => 1 | .closedLoaded => 2) ∧
    shows 6 1 ((s.currentMove c).getD 0xFF) ∧ shows 7 1 k.queue.length ∧
    shows 8 2 (match k.lock with | .locked => k.wholeLaser | .lost => (k.wholeEncoder + k.wholeLaser) / 2) ∧
    shows 10 2 k.y ∧ t.readNat (0x40 + 32 * c + 12) 2 = (BitVec.ofInt 16 k.speed).toNat ∧ shows 14 2 k.grant.lo.toNat ∧
    shows 16 2 k.grant.hi.toNat := by
  obtain ⟨e, hbytes⟩ := s.readBytes_writeGroup (groupOffset_crane hc)
  rw [groupBody_crane s hc, craneBody, if_neg hfitted] at hbytes
  intro k t shows
  have hfield {at_ n v : Nat} (hfit : at_ + n ≤ 32) (hfield : _) : shows at_ n v := readNat_of_bytes hbytes hfit hfield
  have hstate : (match k.state with
      | .absent => 0 | .out => 1 | .idle => 2 | .busy => 3 | .yielding => 4 | .stopped => 5 | .fault => 6) =
      k.state.code := by cases k.state <;> rfl
  have hlink : (match k.link with | .up => 0 | .doubt => 1 | .lost => 2) = k.link.code := by cases k.link <;> rfl
  have hlock : (match k.lock with | .locked => 0 | .lost => 1) = k.lock.code := by cases k.lock <;> rfl
  have htong : (match k.tong with | .open_ => 0 | .closedEmpty => 1 | .closedLoaded => 2) = k.tong.code := by
    cases k.tong <;> rfl
  have hx : (match k.lock with | .locked => k.wholeLaser | .lost => (k.wholeEncoder + k.wholeLaser) / 2) = k.shownX := by
    unfold Crane.shownX
    cases k.lock <;> rfl
  rw [hstate, hlink, hlock, htong, hx]
  refine ⟨hfield (by omega) rfl, hfield (by omega) rfl, hfield (by omega) rfl, hfield (by omega) rfl,
    hfield (by omega) rfl, hfield (by omega) rfl, hfield (by omega) rfl, hfield (by omega) rfl,
    hfield (by omega) rfl, ?_, hfield (by omega) rfl, hfield (by omega) rfl⟩
  rw [← toNat_ofInt_eq 16 k.speed]
  exact hfield (n := 2) (by omega) rfl

theorem craneGroup_absent {c : Nat} (hc : c < 4) (habsent : (s.crane c).state = .absent) :
    (s.writeGroup (3 + c)).readBytes (0x41 + 32 * c) 30 = List.replicate 30 0 := by
  obtain ⟨e, hbytes⟩ := s.readBytes_writeGroup (groupOffset_crane hc)
  rw [groupBody_crane s hc, craneBody, habsent] at hbytes
  have hbody := readBytes_of_editions (n := 30) rfl hbytes
  rwa [show 0x40 + 32 * c + 1 = 0x41 + 32 * c by omega] at hbody

theorem bayGroup_shows {b : Nat} (hb : b < 3) :
    let k := s.bay b
    let t := s.writeGroup (7 + b)
    let shows := fun at_ n v : Nat => t.readNat (0xC0 + 32 * b + at_) n = v % 256 ^ n
    shows 1 1 (match k.state with
      | .unconfigured => 0 | .empty => 1 | .arriving => 2 | .arrived => 3 | .loading => 4 | .planHold => 5 | .check => 6
      | .ready => 7 | .discrepant => 8) ∧
    shows 2 1 k.occupied.toNat ∧ shows 3 1 k.remaining ∧ shows 4 4 k.truckRef ∧ shows 8 2 k.tareFront ∧
    shows 10 2 k.tareRear ∧ shows 12 2 k.front ∧ shows 14 2 k.rear := by
  obtain ⟨e, hbytes⟩ := s.readBytes_writeGroup (groupOffset_bay hb)
  rw [groupBody_bay s hb, bayBody] at hbytes
  intro k t shows
  have hfield {at_ n v : Nat} (hfit : at_ + n ≤ 32) (hfield : _) : shows at_ n v := readNat_of_bytes hbytes hfit hfield
  have hstate : (match k.state with
      | .unconfigured => 0 | .empty => 1 | .arriving => 2 | .arrived => 3 | .loading => 4 | .planHold => 5 | .check => 6
      | .ready => 7 | .discrepant => 8) = k.state.code := by cases k.state <;> rfl
  rw [hstate]
  exact ⟨hfield (by omega) rfl, hfield (by omega) rfl, hfield (by omega) rfl, hfield (by omega) rfl,
    hfield (by omega) rfl, hfield (by omega) rfl, hfield (by omega) rfl, hfield (by omega) rfl⟩

theorem channelGroup_shows {k : Nat} (hk : k < 10) :
    let h := s.channel k
    let t := s.writeGroup (10 + k)
    t.readNat (0x120 + 16 * k + 1) 1 =
      (if h.fault = true then 2 else if h.configured = true ∧ h.data = true then 1 else 0) ∧
    t.readNat (0x120 + 16 * k + 2) 1 = h.latched.toNat ∧
    t.readNat (0x120 + 16 * k + 4) 4 = (BitVec.ofInt 32 h.zero).toNat ∧
    t.readNat (0x120 + 16 * k + 8) 2 = h.lastWeight % 65536 := by
  obtain ⟨e, hbytes⟩ := s.readBytes_writeGroup (groupOffset_channel hk)
  rw [groupBody_channel s hk, channelBody] at hbytes
  intro h t
  have hfield {at_ n v : Nat} (hfit : at_ + n ≤ 16) (hfield : _) : t.readNat (0x120 + 16 * k + at_) n = v % 256 ^ n :=
    readNat_of_bytes hbytes hfit hfield
  refine ⟨?_, ?_, ?_, hfield (n := 2) (by omega) rfl⟩
  · have hcode : h.stateCode = (if h.fault = true then 2 else if h.configured = true ∧ h.data = true then 1 else 0) := by
      simp only [Channel.stateCode, Bool.and_eq_true]
    have hlt : h.stateCode % 256 ^ 1 = h.stateCode := by
      rw [hcode]
      split_ifs <;> rfl
    rw [← hcode, ← hlt]
    exact hfield (by omega) rfl
  · have hlt : h.latched.toNat % 256 ^ 1 = h.latched.toNat := by cases h.latched <;> rfl
    rw [← hlt]
    exact hfield (by omega) rfl
  · rw [← toNat_ofInt_eq 32 h.zero]
    exact hfield (n := 4) (by omega) rfl

theorem columnGroup_shows (hslots : s.slots.keys.Nodup) {c : Nat} (hc : c < 64) :
    let t := s.writeGroup (20 + c)
    let free := fun l : List Nat => (l.filter fun p => (s.slot (24 * c + p)).state == .free).length
    t.readNat (0x200 + 4 * c + 1) 1 = free (List.range 12) ∧
      t.readNat (0x200 + 4 * c + 2) 1 = free ((List.range 11).map (12 + ·)) := by
  obtain ⟨e, hbytes⟩ := s.readBytes_writeGroup (groupOffset_column hc)
  rw [groupBody_column s hc] at hbytes
  intro t free
  have hfree (l : List Nat) (hl : l.length ≤ 12) : free l % 256 ^ 1 = free l :=
    Nat.mod_eq_of_lt (lt_of_le_of_lt ((List.length_filter_le _ _).trans hl) (by decide))
  have hlower : (columnCounts s c).1 = free (List.range 12) := by
    have hcount := State.columnSlots_count (s := s) hslots (c := c) (m := 12) (f := id)
      (q := fun i st => (slotColumn i == c && st == .free) && isLower i) (fun a _ b _ h => h)
      (fun i st h => by
        simp only [Bool.and_eq_true, beq_iff_eq, isLower_iff] at h
        obtain ⟨⟨hcol, rfl⟩, hlow⟩ := h
        exact ⟨by decide, hcol, i % 24, hlow, rfl⟩)
      (fun a ha st => by
        have hcol : slotColumn (24 * c + a) = c := by unfold slotColumn; omega
        have hlow : isLower (24 * c + a) = true := isLower_iff.mpr (by omega)
        simp only [id, hcol, hlow, beq_self_eq_true, Bool.true_and, Bool.and_true])
    rw [List.map_id] at hcount
    refine Eq.trans ?_ hcount
    rw [columnCounts, List.filter_filter]
    exact congrArg List.length (List.filter_congr fun p _ => Bool.and_comm ..)
  have hupper : (columnCounts s c).2 = free ((List.range 11).map (12 + ·)) := by
    have hcount := State.columnSlots_count (s := s) hslots (c := c) (m := 11) (f := (12 + ·))
      (q := fun i st => (slotColumn i == c && st == .free) && isUpper i) (fun a _ b _ h => by omega)
      (fun i st h => by
        simp only [Bool.and_eq_true, beq_iff_eq, isUpper_iff] at h
        obtain ⟨⟨hcol, rfl⟩, hup⟩ := h
        exact ⟨by decide, hcol, i % 24 - 12, by omega, by omega⟩)
      (fun a ha st => by
        have hcol : slotColumn (24 * c + (12 + a)) = c := by unfold slotColumn; omega
        have hup : isUpper (24 * c + (12 + a)) = true := isUpper_iff.mpr (by omega)
        simp only [hcol, hup, beq_self_eq_true, Bool.true_and, Bool.and_true])
    refine Eq.trans ?_ hcount
    rw [columnCounts, List.filter_filter, List.filter_filter]
    exact congrArg List.length (List.filter_congr fun p _ => Bool.and_comm ..)
  constructor
  · rw [← hfree _ (by simp), ← hlower]
    exact readNat_of_bytes hbytes (by omega) rfl
  · rw [← hfree _ (by simp), ← hupper]
    exact readNat_of_bytes hbytes (by omega) rfl

theorem totalsGroup_shows (hslots : s.slots.keys.Nodup) :
    let t := s.writeGroup 84
    let count := fun p : Nat → Bool => (s.slots.keys.filter p).length % 65536
    t.readNat 0x302 2 = s.coils.keys.length % 65536 ∧
      t.readNat 0x304 2 = count (fun i => (s.slot i).state == .free && decide (i % 24 < 12)) ∧
      t.readNat 0x306 2 = count (fun i => (s.slot i).state == .free && decide (12 ≤ i % 24 ∧ i % 24 < 23)) ∧
      t.readNat 0x308 2 = count (fun i => (s.slot i).state == .held) := by
  obtain ⟨e, hbytes⟩ := s.readBytes_writeGroup (g := 84) (off := 0x300) (size := 14) ⟨rfl, rfl⟩
  intro t count
  have hcount (q : Nat → SlotState → Bool) : count (fun i => q i (s.slot i).state) =
      (s.slots.filter fun p => q p.1 p.2.state).length % 65536 := by
    rw [State.slots_count hslots]
  rw [hcount fun i st => st == .free && decide (i % 24 < 12),
    hcount fun i st => st == .free && decide (12 ≤ i % 24 ∧ i % 24 < 23), hcount fun _ st => st == .held]
  have hboth (r : Nat → Bool) : (s.slots.filter fun p => p.2.state == .free && r p.1) =
      (s.slots.filter fun p => p.2.state == .free).filter fun p => r p.1 := by
    rw [List.filter_filter]
    exact List.filter_congr fun p _ => Bool.and_comm ..
  rw [hboth fun i => decide (i % 24 < 12), hboth fun i => decide (12 ≤ i % 24 ∧ i % 24 < 23)]
  have hkeys : s.coils.keys.length = s.coils.length := List.length_map ..
  rw [hkeys]
  exact ⟨readNat_of_bytes (off := 0x300) (k := 2) (n := 2) hbytes (by omega) rfl,
    readNat_of_bytes (off := 0x300) (k := 4) (n := 2) hbytes (by omega) rfl,
    readNat_of_bytes (off := 0x300) (k := 6) (n := 2) hbytes (by omega) rfl,
    readNat_of_bytes (off := 0x300) (k := 8) (n := 2) hbytes (by omega) rfl⟩

/-- Settles O53: each image entry and group, written, shows its fields. -/
theorem imagesAndGroupsShowTheirFields : Obligations.ImagesAndGroupsShowTheirFields := by
  refine ⟨slotImage_shows, fun s r c hc => coilImage_shows hc, fun s c hc hfitted => craneGroup_shows hc hfitted,
    fun s c hc habsent => craneGroup_absent hc habsent, fun s b hb => bayGroup_shows hb,
    fun s k hk => channelGroup_shows hk, fun s hlaw => ?_⟩
  obtain ⟨-, hslots, -⟩ := State.tablesLaw_iff.mp hlaw
  exact ⟨fun c hc => columnGroup_shows (nodup_of_rising hslots) hc, totalsGroup_shows (nodup_of_rising hslots)⟩

end Sys2Proof.Machine
end

section
/-! PROOF. The first field out of its range (R200, section 11.2). -/

namespace Sys2Proof.Machine

variable {s : State} {o : Order} {rest : List Order} {n k : Nat}

/-! ## A list of checks, computed and stated -/

/-- The computed checks decide the stated ones, one by one. -/
def Decides : List Bool → List Prop → Prop := List.Forall₂ fun b q => (b = true ↔ q)

theorem Decides.nil : Decides [] [] := List.Forall₂.nil

theorem Decides.cons {b : Bool} {q : Prop} {l : List Bool} {ps : List Prop} (h : b = true ↔ q) (hrest : Decides l ps) :
    Decides (b :: l) (q :: ps) := List.Forall₂.cons h hrest

theorem Decides.append {l m : List Bool} {ps qs : List Prop} (h : Decides l ps) (hrest : Decides m qs) :
    Decides (l ++ m) (ps ++ qs) := List.rel_append h hrest

theorem Decides.map {α : Type} {l : List α} {f : α → Bool} {p : α → Prop} (h : ∀ a ∈ l, f a = true ↔ p a) :
    Decides (l.map f) (l.map p) := by
  induction l with
  | nil => exact .nil
  | cons a l ih =>
    obtain ⟨ha, hl⟩ := List.forall_mem_cons.mp h
    exact .cons ha (ih hl)

/-- The first stated check that fails is the first computed one. -/
theorem Decides.firstBad {l : List Bool} {ps : List Prop} (h : Decides l ps) (start : Nat) {n : Nat}
    (hbefore : ∀ i < n, ∀ q, ps[i]? = some q → q) (hbad : ∃ q, ps[n]? = some q ∧ ¬q) :
    firstBad start l = some (start + n) := by
  obtain ⟨bad, hat, hnot⟩ := hbad
  induction h generalizing start n with
  | nil => cases hat
  | @cons b q l ps hb _ ih =>
    cases n with
    | zero =>
      obtain rfl : q = bad := Option.some.inj hat
      rw [Machine.firstBad, if_neg fun h => hnot (hb.mp h), Nat.add_zero]
    | succ n =>
      have hq : q := hbefore 0 (Nat.succ_pos n) q rfl
      rw [Machine.firstBad, if_pos (hb.mpr hq), ih (start + 1) (fun i hi => hbefore (i + 1) (Nat.succ_lt_succ hi)) hat]
      exact congrArg some (by omega)

/-- Where the list holds one check, it is the one that fails. -/
theorem only_check {p : Prop} (hbad : ∃ q, [p][n]? = some q ∧ ¬q) : n = 0 ∧ ¬p := by
  obtain ⟨q, hat, hnot⟩ := hbad
  cases n with
  | zero => exact ⟨rfl, Option.some.inj hat ▸ hnot⟩
  | succ n => cases hat

theorem atMost_iff {hi n : Nat} : inRange 0 hi n = true ↔ n ≤ hi :=
  inRange_iff.trans ⟨And.right, fun h => ⟨Nat.zero_le n, h⟩⟩

theorem inRangeInt_iff {lo hi n : Int} : inRangeInt lo hi n = true ↔ lo ≤ n ∧ n ≤ hi := decide_eq_true_iff

theorem atMost_and_iff {hi n : Nat} {p : Prop} [Decidable p] :
    (inRange 0 hi n && decide p) = true ↔ n ≤ hi ∧ p := by
  rw [Bool.and_eq_true, atMost_iff, decide_eq_true_iff]

/-- A field in which 0 selects a value within the range. -/
theorem orDefault_inRange_iff {lo hi d n : Nat} (hd : lo ≤ d ∧ d ≤ hi) :
    inRange lo hi (orDefault d n) = true ↔ n = 0 ∨ lo ≤ n ∧ n ≤ hi := by
  rw [inRange_iff, orDefault]
  split_ifs <;> omega

theorem any_iff : true = true ↔ True := iff_of_true rfl trivial

/-! ## The checks of the bodies -/

theorem setColumn_decides (f : Nat → Nat → Nat) (y : Nat → Nat) (hy : ∀ i, y i = f (14 + 2 * i) 2) :
    Decides ([inRange 0 63 (f 0 1), inRange 0 60000 (f 2 2), true, inRange 600 2200 (f 6 2), inRange 800 2500 (f 8 2),
        inRange 1 4500 (f 10 2), inRange 1 4500 (f 12 2)]
      ++ (List.range 12).map fun i => inRange 0 4000 (y i) && (i == 0 || decide (y (i - 1) < y i)))
      ([f 0 1 ≤ 63, f 2 2 ≤ 60000, True, 600 ≤ f 6 2 ∧ f 6 2 ≤ 2200, 800 ≤ f 8 2 ∧ f 8 2 ≤ 2500,
          1 ≤ f 10 2 ∧ f 10 2 ≤ 4500, 1 ≤ f 12 2 ∧ f 12 2 ≤ 4500]
        ++ (List.range 12).map fun r => f (14 + 2 * r) 2 ≤ 4000 ∧ (r = 0 ∨ f (12 + 2 * r) 2 < f (14 + 2 * r) 2)) := by
  refine .append (.cons atMost_iff (.cons atMost_iff (.cons any_iff (.cons inRange_iff (.cons inRange_iff
    (.cons inRange_iff (.cons inRange_iff .nil))))))) (.map fun i _ => ?_)
  rw [Bool.and_eq_true, atMost_iff, Bool.or_eq_true, beq_iff_eq, decide_eq_true_iff, hy, hy]
  cases i with
  | zero => simp only [true_or]
  | succ i => rw [show 14 + 2 * (i + 1 - 1) = 12 + 2 * (i + 1) by omega]

theorem coilFields_decide (id declared width diameter : Nat) :
    Decides (coilFieldChecks id declared width diameter)
      [1 ≤ id, 1 ≤ declared ∧ declared ≤ 4500, 600 ≤ width ∧ width ≤ 2200, 800 ≤ diameter ∧ diameter ≤ 2500, True] :=
  .cons decide_eq_true_iff (.cons inRange_iff (.cons inRange_iff (.cons inRange_iff (.cons any_iff .nil))))

theorem target_all_iff {b : Body} :
    (b.target.all fun i => decide (i < 1536)) = true ↔ fieldNat b 4 2 ≤ 1535 ∨ fieldNat b 4 2 = 0xFFFF := by
  unfold Body.target
  split_ifs with hauto
  · exact iff_of_true rfl (.inr hauto)
  · rw [Option.all_some, decide_eq_true_iff]
    omega

theorem craneNamed_all_iff {b : Body} :
    (b.craneNamed.all fun c => decide (c < 4)) = true ↔ fieldNat b 6 1 ≤ 3 ∨ fieldNat b 6 1 = 0xFF := by
  unfold Body.craneNamed
  split_ifs with hauto
  · exact iff_of_true rfl (.inr hauto)
  · rw [Option.all_some, decide_eq_true_iff]
    omega

theorem moveOrder_decides (b : Body) :
    Decides [decide (1 ≤ b.coilId), b.target.all fun i => decide (i < 1536), b.craneNamed.all fun c => decide (c < 4)]
      [1 ≤ fieldNat b 0 4, fieldNat b 4 2 ≤ 1535 ∨ fieldNat b 4 2 = 0xFFFF,
        fieldNat b 6 1 ≤ 3 ∨ fieldNat b 6 1 = 0xFF] :=
  .cons decide_eq_true_iff (.cons target_all_iff (.cons craneNamed_all_iff .nil))

theorem variant_isSome_iff {b : Body} : b.variant.isSome = true ↔ 1 ≤ fieldNat b 3 1 ∧ fieldNat b 3 1 ≤ 3 := by
  unfold Body.variant
  split_ifs <;> simp only [Option.isSome_some, Option.isSome_none, true_iff, false_iff, Bool.false_eq_true] <;> omega

/-! ## The orders -/

/-- An order whose checks the stated ones are, the first that fails being number `n`. -/
theorem checkedOrder_badField {w : Owner} {k n : Nat} {l : List Bool} {ps : List Prop} {bad : State → Order → Option Nat}
    {f : State → Order → State} (h : TakenUp s w k o rest) (hl : bad (s.begin.setInbound w rest) o = firstBad 1 l)
    (hdec : Decides l ps) (hbefore : ∀ i < n, ∀ q, ps[i]? = some q → q) (hbad : ∃ q, ps[n]? = some q ∧ ¬q) :
    handle (takeOrder w k fun s o => s.checked o (bad s o) f) s =
      .next (answeredAlone s w rest o { code := .badField, area := [byte (n + 1), 0] }) := by
  refine handle_takeOrder_reply h ?_
  rw [State.checked_of_bad (hl.trans (hdec.firstBad 1 hbefore hbad)), Nat.add_comm 1 n]
  rfl

/-- An order whose one check is its first field's. -/
theorem onlyField_badField {w : Owner} {k n : Nat} {p : Prop} {f : State → Order → State} (h : TakenUp s w k o rest)
    (hf : ¬p → f (s.begin.setInbound w rest) o = (s.begin.setInbound w rest).reply o (.badField 1))
    (hbad : ∃ q, [p][n]? = some q ∧ ¬q) :
    handle (takeOrder w k f) s =
      .next (answeredAlone s w rest o { code := .badField, area := [byte (n + 1), 0] }) := by
  obtain ⟨rfl, hnot⟩ := only_check hbad
  exact handle_takeOrder_reply h (hf hnot)

theorem State.holdOrder_badField (hbefore : ∀ i < n, ∀ q, [True, fieldNat o.body 4 1 ≤ 1][i]? = some q → q)
    (hbad : ∃ q, [True, fieldNat o.body 4 1 ≤ 1][n]? = some q ∧ ¬q) :
    s.holdOrder o = s.reply o (.badField (n + 1)) := by
  obtain ⟨q, hat, hnot⟩ := hbad
  match n, hat with
  | 0, hat => exact absurd (Option.some.inj hat ▸ trivial : q) hnot
  | 1, hat =>
    obtain rfl : (fieldNat o.body 4 1 ≤ 1) = q := Option.some.inj hat
    exact if_pos (Nat.lt_of_not_le hnot)

/-- SET_CRANE: the crane's number first, then, of a fitted crane, the three values (R61). -/
theorem State.setCraneOrder_badField {checks : List Prop}
    (hchecks : checks = [fieldNat o.body 0 1 ≤ 3,
      3 < fieldNat o.body 0 1 ∨ s.straps < fieldNat o.body 0 1 ∨ fieldNat o.body 2 2 ≤ 60000,
      3 < fieldNat o.body 0 1 ∨ s.straps < fieldNat o.body 0 1 ∨ fieldNat o.body 4 2 ≤ 60000,
      3 < fieldNat o.body 0 1 ∨ s.straps < fieldNat o.body 0 1 ∨
        300 ≤ fieldNat o.body 6 2 ∧ fieldNat o.body 6 2 ≤ 1500])
    (hbefore : ∀ i < n, ∀ q, checks[i]? = some q → q) (hbad : ∃ q, checks[n]? = some q ∧ ¬q) :
    s.setCraneOrder o = s.reply o (.badField (n + 1)) := by
  subst hchecks
  cases n with
  | zero =>
    obtain ⟨q, hat, hnot⟩ := hbad
    obtain rfl := Option.some.inj hat
    exact if_pos (Nat.lt_of_not_le hnot)
  | succ n =>
    have hcrane : fieldNat o.body 0 1 ≤ 3 := hbefore 0 (Nat.succ_pos n) _ rfl
    have hfitted : fieldNat o.body 0 1 ≤ s.straps := by
      by_contra hnot
      obtain ⟨q, hat, hq⟩ := hbad
      match n, hat with
      | 0, hat | 1, hat | 2, hat => exact hq (Option.some.inj hat ▸ .inr (.inl (Nat.lt_of_not_le hnot)))
    have hfields {p : Prop} :
        p ↔ 3 < fieldNat o.body 0 1 ∨ s.straps < fieldNat o.body 0 1 ∨ p := by
      rw [or_iff_right (Nat.not_lt.mpr hcrane), or_iff_right (Nat.not_lt.mpr hfitted)]
    have hfirst : Body.setCraneBad o.body = some (2 + n) :=
      Decides.firstBad (.cons (atMost_iff.trans hfields) (.cons (atMost_iff.trans hfields)
        (.cons (inRange_iff.trans hfields) .nil))) 2 (fun i hi => hbefore (i + 1) (Nat.succ_lt_succ hi)) hbad
    have hin : s.fitted (fieldNat o.body 0 1) = true := (State.fitted_iff hcrane).mpr hfitted
    unfold State.setCraneOrder
    refine (if_neg (Nat.not_lt.mpr hcrane)).trans ?_
    refine (if_neg (by simp [Body.crane, hin])).trans ?_
    rw [State.checked_of_bad hfirst, Nat.add_comm 2 n]

/-! ## LOAD_PLAN's entries -/

/-- The field of the entry that is out of its range, 0 for none. -/
def planFieldBad (spacing : Nat) (id position : Nat → Nat) (k : Nat) : Nat :=
  if id k = 0 ∨ ∃ j ∈ List.range k, id j = id k then 3
  else if spacing < position k ∨ ∃ j ∈ List.range k, position j < position k + 120 ∧ position k < position j + 120 then 4
  else 0

theorem absDiff_lt_iff {a b d : Nat} : absDiff a b < d ↔ a < b + d ∧ b < a + d := by
  unfold absDiff
  omega

/-- Of the entries from `k` on, those before them seen, the first bad one is answered. -/
theorem itemsBad_eq {spacing : Nat} {id position : Nat → Nat} {seen : List PlanItem} {count m : Nat}
    (hseen : ∀ p, p ∈ seen ↔ ∃ j < k, p = ⟨id j, position j⟩) (hkm : k ≤ m) (hm : m < k + count)
    (hbefore : ∀ j, k ≤ j → j < m → planFieldBad spacing id position j = 0)
    (hbad : planFieldBad spacing id position m ≠ 0) :
    itemsBad spacing k seen ((List.range' k count).map fun j => ⟨id j, position j⟩) =
      some (planFieldBad spacing id position m, m) := by
  induction count generalizing k seen with
  | zero => omega
  | succ count ih =>
    have hid : (id k = 0 ∨ seen.any (fun p => p.id == id k) = true) ↔ id k = 0 ∨ ∃ j ∈ List.range k, id j = id k := by
      refine or_congr_right ?_
      simp only [List.any_eq_true, beq_iff_eq, List.mem_range]
      exact ⟨fun ⟨p, hp, he⟩ => by obtain ⟨j, hj, rfl⟩ := (hseen p).mp hp; exact ⟨j, hj, he⟩,
        fun ⟨j, hj, he⟩ => ⟨_, (hseen _).mpr ⟨j, hj, rfl⟩, he⟩⟩
    have hposition : (spacing < position k ∨ seen.any (fun p => decide (absDiff p.position (position k) < 120)) = true) ↔
        spacing < position k ∨ ∃ j ∈ List.range k, position j < position k + 120 ∧ position k < position j + 120 := by
      refine or_congr_right ?_
      simp only [List.any_eq_true, decide_eq_true_eq, absDiff_lt_iff, List.mem_range]
      exact ⟨fun ⟨p, hp, he⟩ => by obtain ⟨j, hj, rfl⟩ := (hseen p).mp hp; exact ⟨j, hj, he⟩,
        fun ⟨j, hj, he⟩ => ⟨_, (hseen _).mpr ⟨j, hj, rfl⟩, he⟩⟩
    have hstep : itemsBad spacing k seen ((List.range' k (count + 1)).map fun j => ⟨id j, position j⟩) =
        if planFieldBad spacing id position k = 0 then
          itemsBad spacing (k + 1) (⟨id k, position k⟩ :: seen) ((List.range' (k + 1) count).map fun j => ⟨id j, position j⟩)
        else some (planFieldBad spacing id position k, k) := by
      rw [List.range'_succ, List.map_cons, itemsBad]
      unfold planFieldBad
      simp only [hid, hposition]
      split_ifs <;> first | rfl | contradiction
    rw [hstep]
    rcases Nat.eq_or_lt_of_le hkm with rfl | hlt
    · rw [if_neg hbad]
    · rw [if_pos (hbefore k le_rfl hlt)]
      refine ih (fun p => ?_) hlt (by omega) fun j hj => hbefore j (by omega)
      rw [List.mem_cons, hseen]
      constructor
      · rintro (rfl | ⟨j, hj, rfl⟩)
        · exact ⟨k, Nat.lt_succ_self k, rfl⟩
        · exact ⟨j, by omega, rfl⟩
      · rintro ⟨j, hj, rfl⟩
        rcases Nat.lt_succ_iff_lt_or_eq.mp hj with hj | rfl
        · exact .inr ⟨j, hj, rfl⟩
        · exact .inl rfl

/-- A LOAD_PLAN in ARRIVED, where the bay has no plan, answered with what its checks refuse. -/
theorem State.loadPlanOrder_of_refused {b : Nat} {a : Answer} (hb : fieldNat o.body 0 1 = b) (hle : b ≤ 2)
    (harrived : (s.bay b).state = .arrived) (hplan : s.checkPlan b 1 o.body = .error a) :
    s.loadPlanOrder o = s.reply o a := by
  subst hb
  unfold State.loadPlanOrder
  refine (if_neg (Nat.not_lt.mpr hle)).trans ?_
  have harrived' : (s.bay (Body.bay o.body)).state = .arrived := harrived
  have hplan' : s.checkPlan (Body.bay o.body) 1 o.body = .error a := hplan
  simp only [harrived', State.planOrder, hplan']

theorem State.checkPlan_of_count {b : Nat} {d : Body} (hcount : d.entryCount = 0 ∨ 6 < d.entryCount) :
    s.checkPlan b 1 d = .error (.badField 2) := by
  unfold State.checkPlan
  refine if_pos ?_
  have hout : inRange 1 6 d.entryCount = false := Bool.eq_false_iff.mpr fun h => by
    have hin := inRange_iff.mp h
    omega
  rw [hout]
  rfl

theorem State.checkPlan_of_entry {b m : Nat} {d : Body} (hplan : (s.bay b).plan = []) (hcount : d.entryCount ≤ 6)
    (hm : m < d.entryCount)
    (hbefore : ∀ j < m, planFieldBad (s.bay b).spacing (fun k => fieldNat d (8 + 8 * k) 4)
      (fun k => fieldNat d (12 + 8 * k) 2) j = 0)
    (hbad : planFieldBad (s.bay b).spacing (fun k => fieldNat d (8 + 8 * k) 4) (fun k => fieldNat d (12 + 8 * k) 2) m ≠ 0) :
    s.checkPlan b 1 d = .error (.badEntryField (planFieldBad (s.bay b).spacing (fun k => fieldNat d (8 + 8 * k) 4)
      (fun k => fieldNat d (12 + 8 * k) 2) m) m) := by
  have hloaded : (s.bay b).loadedPlan = [] := by rw [Bay.loadedPlan, hplan]; rfl
  have hitems : s.loadedItems b = [] := by rw [State.loadedItems, hloaded]; rfl
  have hin : inRange 1 6 d.entryCount = true := inRange_iff.mpr ⟨by omega, hcount⟩
  have hfirst := itemsBad_eq (k := 0) (seen := []) (count := d.entryCount) (m := m) (by simp) (Nat.zero_le m)
    (by omega) (fun j _ hj => hbefore j hj) hbad
  have hbody : d.planItems = (List.range' 0 d.entryCount).map
      fun j => ⟨fieldNat d (8 + 8 * j) 4, fieldNat d (12 + 8 * j) 2⟩ := by
    rw [← List.range_eq_range']
    rfl
  simp only [State.checkPlan, hloaded, hitems, hin, hbody, hfirst]
  simp [Nat.not_lt.mpr hcount]

/-! ## The obligation -/

theorem Body.setRunway_decides (b : Body) :
    Decides [inRange 0 60000 (fieldNat b 0 2), inRange 0 60000 (fieldNat b 2 2) && decide (fieldNat b 0 2 < fieldNat b 2 2),
      inRange 10 500 (fieldNat b 4 2), inRange 100 1000 (fieldNat b 6 2), inRange 10 200 (fieldNat b 8 2),
      inRange 5 200 (fieldNat b 10 2), inRange 100 2000 (fieldNat b 12 2), inRange 0 1000 (fieldNat b 14 2)]
      [fieldNat b 0 2 ≤ 60000, fieldNat b 2 2 ≤ 60000 ∧ fieldNat b 0 2 < fieldNat b 2 2,
        10 ≤ fieldNat b 4 2 ∧ fieldNat b 4 2 ≤ 500, 100 ≤ fieldNat b 6 2 ∧ fieldNat b 6 2 ≤ 1000,
        10 ≤ fieldNat b 8 2 ∧ fieldNat b 8 2 ≤ 200, 5 ≤ fieldNat b 10 2 ∧ fieldNat b 10 2 ≤ 200,
        100 ≤ fieldNat b 12 2 ∧ fieldNat b 12 2 ≤ 2000, fieldNat b 14 2 ≤ 1000] :=
  .cons atMost_iff (.cons atMost_and_iff (.cons inRange_iff (.cons inRange_iff (.cons inRange_iff
    (.cons inRange_iff (.cons inRange_iff (.cons atMost_iff .nil)))))))

theorem setChannel_decides (b : Body) (straps : Nat) (fitted : Bool)
    (hfitted : fitted = true ↔ fieldNat b 0 1 ≤ straps ∧ fieldNat b 0 1 < 4) :
    Decides
      ([inRange 0 9 b.channel && (fitted || decide (4 ≤ b.channel)), inRange 8000 60000 (fieldNat b 2 2) && fieldNat b 2 2 % 8 == 0,
        inRangeInt (-8000000) 8000000 (fieldInt b 4 4), inRange 1 8000000 (fieldNat b 8 4), inRange 1 60000 (fieldNat b 12 2)]
      ++ ((List.range 9).map fun i => fieldInt b (14 + 2 * i) 2).map (inRangeInt (-500) 500)
      ++ [inRange 5 500 (orDefault 40 (fieldNat b 32 2)), inRange 3 20 (orDefault 5 (fieldNat b 34 1)),
        inRange 1 31 (orDefault 4 (fieldNat b 35 1)), inRange 5 200 (orDefault 20 (fieldNat b 36 2)),
        inRange 0 4 (fieldNat b 38 1), inRange 0 1 (fieldNat b 39 1)])
      ([fieldNat b 0 1 ≤ 9 ∧ (fieldNat b 0 1 ≤ straps ∨ 4 ≤ fieldNat b 0 1),
        8000 ≤ fieldNat b 2 2 ∧ fieldNat b 2 2 ≤ 60000 ∧ fieldNat b 2 2 % 8 = 0,
        -8000000 ≤ fieldInt b 4 4 ∧ fieldInt b 4 4 ≤ 8000000, 1 ≤ fieldNat b 8 4 ∧ fieldNat b 8 4 ≤ 8000000,
        1 ≤ fieldNat b 12 2 ∧ fieldNat b 12 2 ≤ 60000]
      ++ (List.range 9).map (fun i => -500 ≤ fieldInt b (14 + 2 * i) 2 ∧ fieldInt b (14 + 2 * i) 2 ≤ 500)
      ++ [fieldNat b 32 2 = 0 ∨ 5 ≤ fieldNat b 32 2 ∧ fieldNat b 32 2 ≤ 500,
        fieldNat b 34 1 = 0 ∨ 3 ≤ fieldNat b 34 1 ∧ fieldNat b 34 1 ≤ 20, fieldNat b 35 1 ≤ 31,
        fieldNat b 36 2 = 0 ∨ 5 ≤ fieldNat b 36 2 ∧ fieldNat b 36 2 ≤ 200, fieldNat b 38 1 ≤ 4, fieldNat b 39 1 ≤ 1]) := by
  have hchannel : (inRange 0 9 b.channel && (fitted || decide (4 ≤ b.channel))) = true ↔
      fieldNat b 0 1 ≤ 9 ∧ (fieldNat b 0 1 ≤ straps ∨ 4 ≤ fieldNat b 0 1) := by
    rw [Bool.and_eq_true, Bool.or_eq_true, decide_eq_true_iff, atMost_iff, hfitted, Body.channel]
    omega
  have hcap : (inRange 8000 60000 (fieldNat b 2 2) && fieldNat b 2 2 % 8 == 0) = true ↔
      8000 ≤ fieldNat b 2 2 ∧ fieldNat b 2 2 ≤ 60000 ∧ fieldNat b 2 2 % 8 = 0 := by
    rw [Bool.and_eq_true, inRange_iff, beq_iff_eq, and_assoc]
  have hbatches : inRange 1 31 (orDefault 4 (fieldNat b 35 1)) = true ↔ fieldNat b 35 1 ≤ 31 := by
    rw [orDefault_inRange_iff (by omega)]
    omega
  rw [List.map_map]
  exact .append (.append (.cons hchannel (.cons hcap (.cons inRangeInt_iff (.cons inRange_iff (.cons inRange_iff .nil)))))
    (.map fun i _ => inRangeInt_iff))
    (.cons (orDefault_inRange_iff (by omega)) (.cons (orDefault_inRange_iff (by omega)) (.cons hbatches
      (.cons (orDefault_inRange_iff (by omega)) (.cons atMost_iff (.cons atMost_iff .nil))))))

theorem State.fitted_iff_both {c : Nat} : s.fitted c = true ↔ c ≤ s.straps ∧ c < 4 := by
  simp only [State.fitted, Bool.and_eq_true, decide_eq_true_eq]

theorem setBay_decides (b : Body) :
    Decides [inRange 0 2 b.bay, inRange 0 60000 b.bxLo, inRange 0 60000 b.bxHi && decide (b.bxLo < b.bxHi),
      inRange b.bxLo b.bxHi b.centre, inRange 0 4000 b.frontLine, inRange 0 500 b.checkMin, inRange 0 100 b.checkPm]
      [fieldNat b 0 1 ≤ 2, fieldNat b 2 2 ≤ 60000, fieldNat b 4 2 ≤ 60000 ∧ fieldNat b 2 2 < fieldNat b 4 2,
        fieldNat b 2 2 ≤ fieldNat b 6 2 ∧ fieldNat b 6 2 ≤ fieldNat b 4 2, fieldNat b 8 2 ≤ 4000,
        fieldNat b 10 2 ≤ 500, fieldNat b 12 2 ≤ 100] := by
  have hmin : inRange 0 500 b.checkMin = true ↔ fieldNat b 10 2 ≤ 500 := by
    rw [Body.checkMin, orDefault_inRange_iff (by omega)]
    omega
  have hpm : inRange 0 100 b.checkPm = true ↔ fieldNat b 12 2 ≤ 100 := by
    rw [Body.checkPm, orDefault_inRange_iff (by omega)]
    omega
  exact .cons atMost_iff (.cons atMost_iff (.cons atMost_and_iff (.cons inRange_iff (.cons atMost_iff (.cons hmin
    (.cons hpm .nil))))))

/-- Settles O12: each order's checks are those stated, in their order. -/
theorem badFieldChangesOnlyItsCell : Obligations.BadFieldChangesOnlyItsCell := by
  refine ⟨?_, ?_, ?_⟩
  · intro p hp s o rest n htaken
    simp only [List.mem_cons, List.not_mem_nil, or_false] at hp
    rcases hp with rfl | rfl | rfl | rfl | rfl | rfl | rfl | rfl | rfl | rfl | rfl | rfl | rfl | rfl | rfl | rfl | rfl |
      rfl | rfl | rfl <;> intro checks hbefore hbad
    · exact checkedOrder_badField htaken rfl (setColumn_decides _ _ fun i => rfl) hbefore hbad
    · exact checkedOrder_badField htaken rfl
        (.cons atMost_iff (.cons atMost_iff (.cons atMost_iff .nil))) hbefore hbad
    · exact checkedOrder_badField htaken rfl ((coilFields_decide ..).append (.cons inRange_iff .nil)) hbefore hbad
    · exact checkedOrder_badField htaken rfl (.cons atMost_iff (.cons any_iff (.cons any_iff (.cons any_iff
        (.cons any_iff (.cons atMost_iff (.cons atMost_iff .nil))))))) hbefore hbad
    · exact checkedOrder_badField htaken rfl (.cons atMost_iff (coilFields_decide ..)) hbefore hbad
    · exact handle_takeOrder_reply htaken (State.holdOrder_badField hbefore hbad)
    · exact checkedOrder_badField htaken rfl (moveOrder_decides _) hbefore hbad
    · exact checkedOrder_badField htaken rfl (moveOrder_decides _) hbefore hbad
    · exact checkedOrder_badField htaken rfl (Body.setRunway_decides _) hbefore hbad
    · exact checkedOrder_badField htaken rfl
        (.cons any_iff (.cons atMost_iff (.cons variant_isSome_iff .nil))) hbefore hbad
    · exact onlyField_badField htaken (fun h => if_pos (Nat.lt_of_not_le h)) hbad
    · exact onlyField_badField htaken (fun h => if_pos (Nat.lt_of_not_le h)) hbad
    · exact onlyField_badField htaken (fun h => if_pos (Nat.lt_of_not_le h)) hbad
    · exact onlyField_badField htaken (fun h => if_pos (Nat.lt_of_not_le h)) hbad
    · exact checkedOrder_badField htaken rfl (setBay_decides _) hbefore hbad
    · exact checkedOrder_badField htaken rfl (.cons atMost_iff (.cons any_iff (.cons inRange_iff (.cons inRange_iff
        (.cons inRange_iff (.cons inRange_iff .nil)))))) hbefore hbad
    · exact onlyField_badField htaken (fun h => if_pos (Nat.lt_of_not_le h)) hbad
    · exact onlyField_badField htaken (fun h => if_pos (Nat.lt_of_not_le h)) hbad
    · exact onlyField_badField htaken (fun h => if_pos (Nat.lt_of_not_le h)) hbad
    · exact handle_takeOrder_reply htaken (State.setCraneOrder_badField rfl hbefore hbad)
  · intro s o rest n htaken f p checks hbefore hbad
    exact checkedOrder_badField htaken rfl (setChannel_decides _ _ _ State.fitted_iff_both) hbefore hbad
  · intro s o rest b htaken hb hle harrived hplan count id position bad
    have hrefused {a : Answer} (h : (s.begin.setInbound .lu rest).checkPlan b 1 o.body = .error a) :
        exec .loadPlan s = .next (answeredAlone s .lu rest o a) :=
      handle_takeOrder_reply htaken (State.loadPlanOrder_of_refused (s := s.begin.setInbound .lu rest) hb hle harrived h)
    exact ⟨fun hcount => hrefused (State.checkPlan_of_count hcount),
      fun k hk hcount hbefore hbad =>
        hrefused (State.checkPlan_of_entry (s := s.begin.setInbound .lu rest) hplan hcount hk hbefore hbad)⟩

end Sys2Proof.Machine
end

section
/-! PROOF. The creation of a move (R20, R84, R85). -/

namespace Sys2Proof.Machine

variable {s : State} {o : Order} {c : Coil} {rest : List Order} {r i k m : Nat}

/-! ## The marks on the source -/

theorem State.modEntry_of_some {b e : Nat} {v : Entry} {f : Entry → Entry} (h : s.entry? b e = some v) :
    s.modEntry b e f = s.modBay b fun x => { x with plan := x.plan.put e (f v) } := by
  simp only [State.modEntry, h]

theorem State.modEntry_of_none {b e : Nat} {f : Entry → Entry} (h : s.entry? b e = none) : s.modEntry b e f = s := by
  simp only [State.modEntry, h]

/-- A mark on a source changes slots, stations and bays alone. -/
theorem State.markSource_only (s : State) (p : Place) (m : Nat) :
    (s.markSource p m).records = State.records
      { s with
        slots := (s.markSource p m).slots, stations := (s.markSource p m).stations, bays := (s.markSource p m).bays } ∧
      (s.markSource p m).mem = s.mem ∧ (s.markSource p m).flags = s.flags := by
  cases p with
  | bed b e =>
    unfold State.markSource
    dsimp only
    cases h : s.entry? b e with
    | none => rw [State.modEntry_of_none h]; exact ⟨rfl, rfl, rfl⟩
    | some v => rw [State.modEntry_of_some h]; exact ⟨rfl, rfl, rfl⟩
  | _ => exact ⟨rfl, rfl, rfl⟩

theorem State.slot_markSource (s : State) (p : Place) (m q : Nat) :
    (s.markSource p m).slot q = if p = .slot q then { s.slot q with state := .leaving, move := some m } else s.slot q := by
  cases p with
  | slot j =>
    rw [State.markSource, State.slot_setSlot]
    by_cases hq : q = j
    · subst hq; rw [if_pos rfl, if_pos rfl]
    · rw [if_neg hq, if_neg fun h => hq (Place.slot.inj h).symm]
  | bed b e =>
    rw [if_neg (by simp)]
    unfold State.markSource
    dsimp only
    cases h : s.entry? b e with
    | none => rw [State.modEntry_of_none h]
    | some v => rw [State.modEntry_of_some h]; rfl
  | station n => rw [if_neg (by simp)]; rfl
  | hook k => rw [if_neg (by simp)]; rfl

theorem State.station_markSource (s : State) (p : Place) (m n : Nat) :
    (s.markSource p m).station n =
      if p = .station n then { s.station n with state := .leaving, move := some m } else s.station n := by
  cases p with
  | station j =>
    rw [State.markSource, State.station_setStation]
    by_cases hn : n = j
    · subst hn; rw [if_pos rfl, if_pos rfl]
    · rw [if_neg hn, if_neg fun h => hn (Place.station.inj h).symm]
  | bed b e =>
    rw [if_neg (by simp)]
    unfold State.markSource
    dsimp only
    cases h : s.entry? b e with
    | none => rw [State.modEntry_of_none h]
    | some v => rw [State.modEntry_of_some h]; rfl
  | slot n => rw [if_neg (by simp)]; rfl
  | hook k => rw [if_neg (by simp)]; rfl

theorem State.bays_markSource (h : ∀ b e, c.place ≠ .bed b e) : (s.markSource c.place m).bays = s.bays := by
  cases hp : c.place with
  | bed b e => exact absurd hp (h b e)
  | _ => rfl

/-- A bed source marks its entry LEAVING and leaves the other entries and bays (R20). -/
theorem State.markSource_bed {b e : Nat} {v : Entry} (h : s.entry? b e = some v) :
    (s.markSource (.bed b e) m).entry? b e = some { v with bed := .leaving } ∧
      (∀ f, f ≠ e → (s.markSource (.bed b e) m).entry? b f = s.entry? b f) ∧
      (s.markSource (.bed b e) m).bay b = { s.bay b with plan := ((s.markSource (.bed b e) m).bay b).plan } ∧
      ∀ d, d ≠ b → (s.markSource (.bed b e) m).bay d = s.bay d := by
  have hmark : s.markSource (.bed b e) m =
      s.modBay b fun x => { x with plan := x.plan.put e { v with bed := .leaving } } := State.modEntry_of_some h
  have hbay : (s.markSource (.bed b e) m).bay b =
      { s.bay b with plan := (s.bay b).plan.put e { v with bed := .leaving } } := by
    rw [hmark, State.modBay, State.bay_setBay_self]
  refine ⟨?_, fun f hf => ?_, ?_, fun d hd => ?_⟩
  · rw [State.entry?, hbay, Tab.find_put, if_pos rfl]
  · rw [State.entry?, hbay, Tab.find_put, if_neg hf]
    rfl
  · rw [hbay]
  · rw [hmark, State.modBay, State.bay_setBay, if_neg hd]

/-! ## The queue (R84) -/

theorem State.enqueue_eq (s : State) (k m : Nat) (p : Place) :
    s.enqueue k m (match p with | .hook _ => true | _ => false) =
      match p with
      | .hook _ =>
        if (s.currentMove k).isSome then (s.crane k).queue.take 1 ++ m :: (s.crane k).queue.drop 1
        else m :: (s.crane k).queue
      | _ => (s.crane k).queue ++ [m] := by
  cases p with
  | hook j =>
    unfold State.enqueue
    dsimp only
    rw [if_pos rfl]
    cases s.currentMove k <;> cases (s.crane k).queue <;> rfl
  | _ => rfl

/-! ## The move (R20, R85) -/

/-- The move a creation makes. -/
def State.newMove (s : State) (origin : Origin) (tag r : Nat) (c : Coil) (dest : Place) (auto : Bool) (k : Nat) : Move :=
  { seq := s.nextSeq, origin := origin, tag := tag, coil := r, source := c.place, dest := dest, auto := auto, crane := k
    sourceX := s.placeX c.place, sourceY := s.placeY c.place, destX := s.placeX dest, destY := s.placeY dest }

/-- The coil's marks: its source LEAVING, its target TARGETED, the move in its record. -/
def State.markMove (s : State) (r : Nat) (c : Coil) (i m : Nat) : State :=
  ((s.markSource c.place m).setSlot i { state := .targeted, coil := some r, move := some m }).setCoil r
    { c with move := some m }

/-- The move list and the crane's queue take a move up. -/
def State.takeMoveUp (s : State) (v : Move) (k m : Nat) (q : List Nat) : State :=
  ({ s with nextSeq := nextSequence s.nextSeq }.setMove m v).modCrane k fun x => { x with queue := q }

/-- The state in which a coil's move to a slot is created under the number `m`. -/
def State.withMove (s : State) (v : Move) (r : Nat) (c : Coil) (i k m : Nat) : State :=
  (s.markMove r c i m).takeMoveUp v k m (s.enqueue k m (match c.place with | .hook _ => true | _ => false))

theorem State.markSource_of {α : Type} (f : State → α) (hf : ∀ x : State, f x.records = f x) (p : Place) (m : Nat)
    (hs : ∀ slots stations bays, f { s with slots := slots, stations := stations, bays := bays } = f s) :
    f (s.markSource p m) = f s := by
  obtain ⟨hrecords, -, -⟩ := s.markSource_only p m
  rw [← hf, hrecords, hf, hs]

theorem State.coil_markSource (s : State) (p : Place) (m q : Nat) : (s.markSource p m).coil? q = s.coil? q :=
  State.markSource_of (fun x => x.coil? q) (fun _ => rfl) p m fun _ _ _ => rfl

theorem State.createMove_eq {origin : Origin} {tag : Nat} {auto : Bool} (hc : s.coil? r = some c) (hmove : c.move = none)
    (hqueue : (s.crane k).queue.length < 8) (hm : m < 32) (hfree : s.move? m = none)
    (hused : ∀ q < m, (s.move? q).isSome = true) :
    s.createMove origin tag r c (.slot i) auto k =
      some (s.withMove (s.newMove origin tag r c (.slot i) auto k) r c i k m) := by
  have hlow : s.moves.lowestFree Config.moveNumbers 0 = some m :=
    Tab.lowestFree_of_least _ 0 m (Nat.zero_le m) (by rw [Nat.zero_add]; exact hm) hfree fun q _ hq => hused q hq
  have hcoil : ((s.markSource c.place m).setSlot i { state := .targeted, coil := some r, move := some m }).coil? r =
      some c := (s.coil_markSource c.place m r).trans hc
  have hmarks : ((s.markSource c.place m).markDest (.slot i) m r).modCoil r (fun x => { x with move := some m }) =
      s.markMove r c i m := by
    rw [State.modCoil, State.markDest, hcoil]
    rfl
  have hroom : c.move.isNone = true ∧ (s.crane k).queue.length < Config.queuePlaces := ⟨by rw [hmove]; rfl, hqueue⟩
  unfold State.createMove
  rw [if_pos hroom, hlow]
  dsimp only
  rw [hmarks]
  unfold State.withMove State.takeMoveUp State.newMove
  cases c.place <;> rfl

/-- What the creation leaves in the tables, and nothing else. -/
theorem State.takeMoveUp_only (s : State) (v : Move) (k m : Nat) (q : List Nat) :
    (s.takeMoveUp v k m q).records = { s.records with
      moves := (s.takeMoveUp v k m q).moves, nextSeq := (s.takeMoveUp v k m q).nextSeq
      cranes := (s.takeMoveUp v k m q).cranes } := rfl

theorem State.markMove_only (s : State) (r : Nat) (c : Coil) (i m : Nat) :
    (s.markMove r c i m).records = { (s.markSource c.place m).records with
      slots := (s.markMove r c i m).slots, coils := (s.markMove r c i m).coils } := rfl

theorem State.withMove_records (s : State) (v : Move) (r : Nat) (c : Coil) (i k m : Nat) :
    (s.withMove v r c i k m).records = State.records
      { s with
        moves := (s.withMove v r c i k m).moves, nextSeq := (s.withMove v r c i k m).nextSeq
        cranes := (s.withMove v r c i k m).cranes, slots := (s.withMove v r c i k m).slots
        stations := (s.withMove v r c i k m).stations, bays := (s.withMove v r c i k m).bays
        coils := (s.withMove v r c i k m).coils } := by
  unfold State.withMove
  rw [State.takeMoveUp_only, State.markMove_only, (s.markSource_only c.place m).1]
  rfl

section
variable (s : State) (v : Move) (r : Nat) (c : Coil) (i k m : Nat) (l : List Nat)

theorem State.takeMoveUp_mem : (s.takeMoveUp v k m l).mem = s.mem := rfl
theorem State.takeMoveUp_flags : (s.takeMoveUp v k m l).flags = s.flags := rfl
theorem State.takeMoveUp_slots : (s.takeMoveUp v k m l).slots = s.slots := rfl
theorem State.takeMoveUp_coils : (s.takeMoveUp v k m l).coils = s.coils := rfl
theorem State.takeMoveUp_bays : (s.takeMoveUp v k m l).bays = s.bays := rfl
theorem State.takeMoveUp_stations : (s.takeMoveUp v k m l).stations = s.stations := rfl
theorem State.takeMoveUp_nextSeq : (s.takeMoveUp v k m l).nextSeq = nextSequence s.nextSeq := rfl
theorem State.takeMoveUp_moves : (s.takeMoveUp v k m l).moves = s.moves.put m v := rfl
theorem State.takeMoveUp_cranes :
    (s.takeMoveUp v k m l).cranes = s.cranes.put k { s.crane k with queue := l } := rfl

theorem State.markMove_mem : (s.markMove r c i m).mem = s.mem := (s.markSource_only c.place m).2.1
theorem State.markMove_flags : (s.markMove r c i m).flags = s.flags := (s.markSource_only c.place m).2.2
theorem State.markMove_slots : (s.markMove r c i m).slots =
    ((s.markSource c.place m).setSlot i { state := .targeted, coil := some r, move := some m }).slots := rfl
theorem State.markMove_coils :
    (s.markMove r c i m).coils = ((s.markSource c.place m).setCoil r { c with move := some m }).coils := rfl
theorem State.markMove_bays : (s.markMove r c i m).bays = (s.markSource c.place m).bays := rfl
theorem State.markMove_stations : (s.markMove r c i m).stations = (s.markSource c.place m).stations := rfl
theorem State.markMove_nextSeq : (s.markMove r c i m).nextSeq = s.nextSeq :=
  State.markSource_of State.nextSeq (fun _ => rfl) c.place m fun _ _ _ => rfl
theorem State.markMove_moves : (s.markMove r c i m).moves = s.moves :=
  State.markSource_of State.moves (fun _ => rfl) c.place m fun _ _ _ => rfl
theorem State.markMove_cranes : (s.markMove r c i m).cranes = s.cranes :=
  State.markSource_of State.cranes (fun _ => rfl) c.place m fun _ _ _ => rfl

theorem State.withMove_mem : (s.withMove v r c i k m).mem = s.mem := by
  rw [State.withMove, State.takeMoveUp_mem, State.markMove_mem]

theorem State.withMove_flags : (s.withMove v r c i k m).flags = s.flags := by
  rw [State.withMove, State.takeMoveUp_flags, State.markMove_flags]

theorem State.withMove_nextSeq : (s.withMove v r c i k m).nextSeq = nextSequence s.nextSeq := by
  rw [State.withMove, State.takeMoveUp_nextSeq, State.markMove_nextSeq]

theorem State.bays_withMove : (s.withMove v r c i k m).bays = (s.markSource c.place m).bays := by
  rw [State.withMove, State.takeMoveUp_bays, State.markMove_bays]

theorem State.stations_withMove : (s.withMove v r c i k m).stations = (s.markSource c.place m).stations := by
  rw [State.withMove, State.takeMoveUp_stations, State.markMove_stations]

/-! ### What stands in the tables -/

theorem State.move_withMove (q : Nat) : (s.withMove v r c i k m).move? q = if q = m then some v else s.move? q := by
  rw [State.move?, State.withMove, State.takeMoveUp_moves, State.markMove_moves, Tab.find_put]
  rfl

theorem State.crane_withMove (j : Nat) : (s.withMove v r c i k m).crane j = if j = k then
      { s.crane k with queue := s.enqueue k m (match c.place with | .hook _ => true | _ => false) } else s.crane j := by
  rw [State.crane, State.withMove, State.takeMoveUp_cranes, Tab.get_put, State.crane, State.markMove_cranes]
  rfl

theorem State.slot_withMove (q : Nat) :
    (s.withMove v r c i k m).slot q = if q = i then { state := .targeted, coil := some r, move := some m }
      else if c.place = .slot q then { s.slot q with state := .leaving, move := some m } else s.slot q := by
  rw [← State.slot_markSource, ← State.slot_setSlot, State.slot, State.withMove, State.takeMoveUp_slots,
    State.markMove_slots]
  rfl

theorem State.coil_withMove (q : Nat) :
    (s.withMove v r c i k m).coil? q = if q = r then some { c with move := some m } else s.coil? q := by
  rw [← s.coil_markSource c.place m, ← State.coil_setCoil, State.coil?, State.withMove, State.takeMoveUp_coils,
    State.markMove_coils]
  rfl

end

/-- A move order whose choice is made and whose move can be created: the cell is WORKING (R86, R87). -/
theorem State.orderMove_of_ok {u : State} (hchoice : s.choose r c (Body.target o.body) (Body.craneNamed o.body) = .ok (i, k))
    (hcreate : s.createMove (.cell o.cell o.take) o.tag r c (.slot i) (Body.target o.body).isNone k = some u) :
    s.orderMove o r c = u.working o.cell o.take Phase.queued.code := by
  simp only [State.orderMove, hchoice, hcreate]

/-! ## The obligation -/

/-- The target of a move order is AUTO where its field says so. -/
theorem Body.target_isNone (b : Body) : b.target.isNone = (fieldNat b 4 2 == 0xFFFF) := by
  unfold Body.target
  split_ifs with h
  · rw [h]; rfl
  · exact (beq_eq_false_iff_ne.mpr h).symm

/-- The two move orders, a choice made and a move created (R86, R87). -/
theorem moveOrder_working {store : Bool} {u : State} (htaken : TakenUp s .su (if store then 0x1A else 0x1B) o rest)
    (hgood : Body.moveOrderBad o.body = none) (hr : s.recordOf (fieldNat o.body 0 4) = some r) (hc : s.coil? r = some c)
    (hmove : c.move = none)
    (hsuits : if store = true then ∃ n, c.place = .station n
      else match c.place with
        | .station _ => False
        | .slot j => s.pickable j = true
        | .hook _ => True
        | .bed b _ => (s.bay b).state = .planHold ∨ (s.bay b).state = .discrepant)
    (hout : c.outbound = false ∨ c.place.isBed = true)
    (hchoice : s.choose r c (Body.target o.body) (Body.craneNamed o.body) = .ok (i, k))
    (hcreate : (s.begin.setInbound .su rest).createMove (.cell o.cell o.take) o.tag r c (.slot i)
      (Body.target o.body).isNone k = some u) (hmem : u.mem = s.mem) (hflags : u.flags = s.flags) :
    ∃ t, exec (if store then .storeCoil else .relocateCoil) s = .next t ∧ t.records = u.records ∧ Working s t o 1 := by
  have horder (suits : State → Place → Bool) (hsuits : suits (s.begin.setInbound .su rest) c.place = true) :
      State.moveOrder suits (s.begin.setInbound .su rest) o = u.working o.cell o.take 1 :=
    (State.moveOrder_of_movable (s := s.begin.setInbound .su rest) hr hc hmove hsuits hout).trans
      (State.orderMove_of_ok ((State.choose_taken r _ _ rest).trans hchoice) hcreate)
  cases store with
  | true =>
    obtain ⟨n, hp⟩ := hsuits
    exact checkedOrder_working (bad := fun o => Body.moveOrderBad o.body) htaken hgood
      (horder State.storable (by rw [hp]; rfl)) hmem hflags
  | false =>
    refine checkedOrder_working (bad := fun o => Body.moveOrderBad o.body) htaken hgood
      (horder State.relocatable ?_) hmem hflags
    rw [State.relocatable_taken]
    cases hp : c.place <;> simp_all [State.relocatable]

/-- Settles O22: the choice made, the move is created and its two ends are marked. -/
theorem moveOrderCreatesAMove : Obligations.MoveOrderCreatesAMove := by
  intro store s o rest r i k m c htaken hid htarget hnamed hr hc hmove hsuits hout hchoice hqueue hm hfree hused
  have hbed : c.outbound = false ∨ c.place.isBed = true := hout.imp_right fun ⟨b, e, h⟩ => by rw [h]; rfl
  obtain ⟨t, hnext, hrecords, hworking⟩ := moveOrder_working htaken (Body.moveOrderBad_eq_none hid htarget hnamed) hr hc
    hmove hsuits hbed hchoice (State.createMove_eq (s := s.begin.setInbound .su rest) hc hmove hqueue hm hfree hused)
    (State.withMove_mem ..) (State.withMove_flags ..)
  have hmoves (q : Nat) := (State.of_records (fun x => x.move? q) hrecords).trans (State.move_withMove ..)
  have hcranes (j : Nat) := (State.of_records (fun x => x.crane j) hrecords).trans (State.crane_withMove ..)
  have hcoils (q : Nat) := (State.of_records (fun x => x.coil? q) hrecords).trans (State.coil_withMove ..)
  have hbays := (State.of_records State.bays hrecords).trans (State.bays_withMove ..)
  have hstations := (State.of_records State.stations hrecords).trans (State.stations_withMove ..)
  refine ⟨t, hnext, ?_, fun q hq => (hmoves q).trans (if_neg hq),
    (State.of_records State.nextSeq hrecords).trans (State.withMove_nextSeq ..), ?_,
    fun j hj => (hcranes j).trans (if_neg hj),
    fun q => (State.of_records (fun x => x.slot q) hrecords).trans (State.slot_withMove ..),
    fun n => ?_, fun b e v hp hv => ?_, fun hp => hbays.trans (State.bays_markSource hp),
    (hcoils r).trans (if_pos rfl), fun q hq => (hcoils q).trans (if_neg hq), ?_, hworking⟩
  · rw [hmoves, if_pos rfl, State.newMove, Body.target_isNone]
    rfl
  · rw [hcranes, if_pos rfl]
    cases hp : c.place with
    | hook j => exact congrArg (fun q => { s.crane k with queue := q }) ((s.begin.setInbound .su rest).enqueue_eq k m (.hook j))
    | _ => rfl
  · have hstation := State.station_markSource (s.begin.setInbound .su rest) c.place m n
    rwa [State.station, ← hstations] at hstation
  · obtain ⟨hentry, hothers, hplan, hkept⟩ := (s.begin.setInbound .su rest).markSource_bed (m := m) hv
    have hbay (d : Nat) : t.bay d = ((s.begin.setInbound .su rest).markSource (.bed b e) m).bay d := by
      rw [State.bay, hbays, hp]
      rfl
    have hbayEntry (f : Nat) : t.entry? b f = ((s.begin.setInbound .su rest).markSource (.bed b e) m).entry? b f := by
      rw [State.entry?, hbay, State.entry?]
    refine ⟨(hbayEntry e).trans hentry, fun f hf => (hbayEntry f).trans (hothers f hf), ?_,
      fun d hd => (hbay d).trans (hkept d hd)⟩
    rw [hbay]
    exact hplan
  · rw [hrecords, State.withMove_records, State.of_records State.moves hrecords,
      State.of_records State.nextSeq hrecords, State.of_records State.cranes hrecords,
      State.of_records State.slots hrecords, State.of_records State.stations hrecords,
      State.of_records State.bays hrecords, State.of_records State.coils hrecords]
    rfl

end Sys2Proof.Machine
end

section
/-! PROOF. What a choice answers: the ranking, the candidates, the scores (R26 to R34). -/

namespace Sys2Proof.Machine

variable {s : State} {c : Coil} {r k i : Nat} {named : Option Nat}

/-! ## The ranking (R27) -/

/-- Crane `j` comes before crane `k`: by load, then by number. -/
def State.Before (s : State) (j k : Nat) : Prop :=
  (s.crane j).queue.length < (s.crane k).queue.length ∨
    (s.crane j).queue.length = (s.crane k).queue.length ∧ j < k

theorem State.Before.trans {a b d : Nat} (h : s.Before a b) (g : s.Before b d) : s.Before a d := by
  unfold State.Before at *
  omega

theorem State.mem_rankIn {x d : Nat} {l : List Nat} : x ∈ s.rankIn d l ↔ x = d ∨ x ∈ l := by
  induction l with
  | nil => simp [State.rankIn]
  | cons e rest ih =>
    rw [State.rankIn]
    split_ifs
    · simp only [List.mem_cons]
    · simp only [List.mem_cons, ih]
      tauto

theorem State.pairwise_rankIn {d : Nat} {l : List Nat} (hd : ∀ x ∈ l, d < x) (hl : l.Pairwise s.Before) :
    (s.rankIn d l).Pairwise s.Before := by
  induction l with
  | nil => exact List.pairwise_singleton ..
  | cons e rest ih =>
    obtain ⟨he, hrest⟩ := List.pairwise_cons.mp hl
    have hde := hd e List.mem_cons_self
    rw [State.rankIn]
    split_ifs with hload
    · have hfirst : s.Before d e := by
        unfold State.load at hload
        unfold State.Before
        omega
      refine List.pairwise_cons.mpr ⟨fun x hx => ?_, hl⟩
      rcases List.mem_cons.mp hx with rfl | hx
      · exact hfirst
      · exact hfirst.trans (he x hx)
    · refine List.pairwise_cons.mpr ⟨fun x hx => ?_, ih (fun x hx => hd x (List.mem_cons_of_mem _ hx)) hrest⟩
      rcases State.mem_rankIn.mp hx with rfl | hx
      · exact .inl (Nat.lt_of_not_le hload)
      · exact he x hx

theorem State.mem_ranked {x : Nat} {l : List Nat} : x ∈ s.ranked l ↔ x ∈ l := by
  induction l with
  | nil => rfl
  | cons d rest ih => rw [State.ranked, List.foldr_cons, State.mem_rankIn, List.mem_cons, ← ih]; rfl

theorem State.pairwise_ranked {l : List Nat} (h : l.Pairwise (· < ·)) : (s.ranked l).Pairwise s.Before := by
  induction l with
  | nil => exact .nil
  | cons d rest ih =>
    obtain ⟨hd, hrest⟩ := List.pairwise_cons.mp h
    exact State.pairwise_rankIn (fun x hx => hd x (State.mem_ranked.mp hx)) (ih hrest)

/-- A ranked crane, between those before it and those after. -/
theorem State.ranked_split {l : List Nat} (h : l.Pairwise (· < ·)) (hk : k ∈ l) :
    ∃ before after, s.ranked l = before ++ k :: after ∧ ∀ j ∈ before, j ∈ l ∧ s.Before j k := by
  obtain ⟨before, after, hsplit⟩ := List.append_of_mem (State.mem_ranked (s := s).mpr hk)
  refine ⟨before, after, hsplit, fun j hj => ⟨State.mem_ranked.mp (hsplit ▸ List.mem_append_left _ hj), ?_⟩⟩
  have hrank := State.pairwise_ranked (s := s) h
  rw [hsplit] at hrank
  exact (List.pairwise_append.mp hrank).2.2 j hj k List.mem_cons_self

/-! ## The cranes that may carry (R26, R29) -/

/-- The crane is fitted, in service for the source, the one named and the one that holds the coil. -/
def State.mayCarry (s : State) (c : Coil) (named : Option Nat) (k : Nat) : Prop :=
  k ≤ s.straps ∧ k < 4 ∧ (s.crane k).state ≠ .out ∧ (s.crane k).state ≠ .fault ∧
    ((s.crane k).svcLo ≤ s.placeX c.place ∧ s.placeX c.place ≤ (s.crane k).svcHi) ∧
    (named = none ∨ named = some k) ∧ ∀ q, c.place = .hook q → q = k

theorem State.serves_iff {x : Nat} : s.serves x k = true ↔
    k ≤ s.straps ∧ k < 4 ∧ (s.crane k).state ≠ .out ∧ (s.crane k).state ≠ .fault ∧
      (s.crane k).svcLo ≤ x ∧ x ≤ (s.crane k).svcHi := by
  simp only [State.serves, State.fitted, Bool.and_eq_true, decide_eq_true_eq, bne_iff_ne, and_assoc]

theorem State.mem_cranesFor : k ∈ s.cranesFor (s.choiceFor r c []) named ↔ s.mayCarry c named k := by
  have hnumber (h : k < 4) : k ∈ [0, 1, 2, 3] := by interval_cases k <;> decide
  have hnamed : (match named with | some n => n == k | none => true) = true ↔ named = none ∨ named = some k := by
    cases named <;> simp
  have hhook : (match c.place with | .hook q => q == k | _ => true) = true ↔ ∀ q, c.place = .hook q → q = k := by
    cases c.place <;> simp
  rw [State.cranesFor, List.mem_filter, List.mem_filter, State.serves_iff, Bool.and_eq_true]
  unfold State.mayCarry
  rw [← hnamed, ← hhook]
  constructor
  · rintro ⟨⟨-, h1, h2, h3, h4, h5, h6⟩, h7, h8⟩
    exact ⟨h1, h2, h3, h4, ⟨h5, h6⟩, h8, h7⟩
  · rintro ⟨h1, h2, h3, h4, ⟨h5, h6⟩, h8, h7⟩
    exact ⟨⟨hnumber h2, h1, h2, h3, h4, h5, h6⟩, h7, h8⟩

theorem State.pairwise_cranesFor (s : State) (ch : Choice) (named : Option Nat) :
    (s.cranesFor ch named).Pairwise (· < ·) :=
  List.Pairwise.filter _ (List.Pairwise.filter _ (by decide))

/-! ## The winner (R34) -/

theorem mem_of_bestOf {score : Nat → Nat} {l : List Nat} (h : bestOf score l = some i) : i ∈ l := by
  induction l generalizing i with
  | nil => cases h
  | cons a rest ih =>
    rw [bestOf] at h
    cases hb : bestOf score rest with
    | none =>
      rw [hb] at h
      exact List.mem_cons.mpr (.inl (Option.some.inj h).symm)
    | some j =>
      rw [hb] at h
      dsimp only at h
      split_ifs at h
      · exact List.mem_cons.mpr (.inl (Option.some.inj h).symm)
      · exact List.mem_cons_of_mem _ (Option.some.inj h ▸ ih hb)

/-- Of rising numbers the one of the lowest score, the first of them, is the best. -/
theorem bestOf_of_least {score : Nat → Nat} {l : List Nat} (hl : l.Pairwise (· < ·)) (hi : i ∈ l)
    (hleast : ∀ q ∈ l, score i < score q ∨ score i = score q ∧ i ≤ q) : bestOf score l = some i := by
  induction l with
  | nil => cases hi
  | cons a rest ih =>
    obtain ⟨ha, hrest⟩ := List.pairwise_cons.mp hl
    rw [bestOf]
    rcases List.mem_cons.mp hi with rfl | hi
    · cases hb : bestOf score rest with
      | none => rfl
      | some j =>
        have hj := hleast j (List.mem_cons_of_mem _ (mem_of_bestOf hb))
        exact if_pos (by omega)
    · rw [ih hrest hi fun q hq => hleast q (List.mem_cons_of_mem _ hq)]
      have hai := ha i hi
      have hnot : ¬score a ≤ score i := by
        have := hleast a List.mem_cons_self
        omega
      exact if_neg hnot

/-! ## The candidates (R10, R11, R29, R30) -/

/-- The slot fits the coil and does not rest on the coil's own source. -/
def State.mayTake (s : State) (c : Coil) (i : Nat) : Prop :=
  s.slotFits c (c.measured.getD c.declared) i = true ∧
    ∀ q, c.place = .slot q → q % 24 < 12 → ¬(1 ≤ q % 24 ∧ i = q + 11 ∨ q % 24 ≤ 10 ∧ i = q + 12)

/-- The slot is a candidate for the crane. -/
def State.mayTakeBy (s : State) (c : Coil) (k i : Nat) : Prop :=
  s.mayTake c i ∧ (s.crane k).svcLo ≤ (s.column (i / 24)).x ∧ (s.column (i / 24)).x ≤ (s.crane k).svcHi

theorem mem_uppersOver {q : Nat} : i ∈ uppersOver q ↔ 1 ≤ q % 24 ∧ i = q + 11 ∨ q % 24 ≤ 10 ∧ i = q + 12 := by
  unfold uppersOver slotPos
  split_ifs <;> simp_all

theorem not_mem_restingOn {p : Place} :
    i ∉ restingOn p ↔ ∀ q, p = .slot q → q % 24 < 12 → ¬(1 ≤ q % 24 ∧ i = q + 11 ∨ q % 24 ≤ 10 ∧ i = q + 12) := by
  cases p with
  | slot q =>
    simp only [restingOn, Place.slot.injEq, forall_eq', ← mem_uppersOver]
    by_cases hlow : isLower q = true
    · rw [if_pos hlow]
      exact ⟨fun h _ => h, fun h => h (isLower_iff.mp hlow)⟩
    · rw [if_neg hlow]
      exact iff_of_true (List.not_mem_nil) fun h => absurd (isLower_iff.mpr h) hlow
  | _ => simp [restingOn]

theorem State.mayTake_iff :
    s.mayTake c i ↔ (s.slotFits c c.weightUsed i && !(s.choiceFor r c []).excluded.contains i) = true := by
  have hexcluded : (!(s.choiceFor r c []).excluded.contains i) = true ↔ i ∉ restingOn c.place := by
    simp [State.choiceFor]
  rw [Bool.and_eq_true, hexcluded, not_mem_restingOn]
  rfl

theorem State.candidate_iff : s.candidate (s.choiceFor r c []) k i = true ↔ s.mayTakeBy c k i := by
  rw [State.mayTakeBy, State.mayTake_iff (r := r), State.candidate, Bool.and_eq_true, decide_eq_true_iff]
  refine and_congr_left' ?_
  simp [State.choiceFor]

/-- A slot that may be the target stands in the table. -/
theorem State.mem_slots_of_mayTake (h : s.mayTake c i) : i ∈ s.slots.keys := by
  by_contra hnone
  have hslot : s.slot i = {} := by
    rw [State.slot, Tab.get, Tab.find_of_not_mem_keys hnone]
    rfl
  have hfits := h.1
  unfold State.slotFits at hfits
  simp [State.lowerFits, State.upperFits, hslot] at hfits

theorem State.mem_candidates : i ∈ s.slots.keys.filter (s.candidate (s.choiceFor r c []) k) ↔ s.mayTakeBy c k i := by
  rw [List.mem_filter, State.candidate_iff]
  exact ⟨And.right, fun h => ⟨State.mem_slots_of_mayTake h.1, h⟩⟩

theorem State.bestSlot_eq_none : s.bestSlot (s.choiceFor r c []) k = none ↔ ∀ i, ¬s.mayTakeBy c k i := by
  have hcandidates : (s.slots.keys.filter (s.candidate (s.choiceFor r c []) k)) = [] ↔ ∀ i, ¬s.mayTakeBy c k i := by
    rw [List.eq_nil_iff_forall_not_mem]
    exact forall_congr' fun i => not_congr State.mem_candidates
  rw [← hcandidates, State.bestSlot]
  cases s.slots.keys.filter (s.candidate (s.choiceFor r c []) k) with
  | nil => exact iff_of_true rfl rfl
  | cons a rest =>
    refine iff_of_false (fun h => ?_) (by simp)
    rw [bestOf] at h
    cases hb : bestOf (s.score (s.choiceFor r c []) k) rest <;> rw [hb] at h
    · cases h
    · dsimp only at h
      split_ifs at h

/-! ## The scores (R31 to R33) -/

/-- The group term of a column for the coil. -/
def State.groupScore (s : State) (c : Coil) (col : Nat) : Nat :=
  if ∃ p ∈ List.range 24, c.place ≠ .slot (24 * col + p) ∧ (s.slot (24 * col + p)).state = .held ∧
      ((s.slot (24 * col + p)).coil.bind s.coil?).map Coil.group = some c.group then 0
  else if ∃ p ∈ List.range 24, c.place ≠ .slot (24 * col + p) ∧
      ((s.slot (24 * col + p)).state = .held ∨ (s.slot (24 * col + p)).state = .leaving) then s.policy.gMix
  else s.policy.gEmpty

/-- The crowd term at `x` for the crane. -/
def State.crowdScore (s : State) (k x : Nat) : Nat :=
  if ∃ j ∈ List.range 4, j ≤ s.straps ∧ j ≠ k ∧ (s.crane j).grant.lo ≤ x ∧ x ≤ (s.crane j).grant.hi then s.policy.cZone
  else 0

/-- A column's slots of a kind other than the coil's own, in the table and by position. -/
theorem State.others_any (hslots : s.slots.keys.Nodup) {col : Nat} {q : Slot → Bool} (hoff : q {} = false) :
    (s.slots.filter fun p => slotColumn p.1 == col && c.place != .slot p.1).any (fun p => q p.2) = true ↔
      ∃ p ∈ List.range 24, c.place ≠ .slot (24 * col + p) ∧ q (s.slot (24 * col + p)) = true := by
  simp only [List.any_eq_true, List.mem_filter, Bool.and_eq_true, beq_iff_eq, bne_iff_ne, slotColumn, List.mem_range]
  constructor
  · rintro ⟨⟨i, v⟩, ⟨hmem, hcol, hplace⟩, hq⟩
    have hi : 24 * col + i % 24 = i := by
      have : i / 24 = col := hcol
      omega
    have hfind : s.slots.find i = some v := (Tab.find_eq_some_iff hslots).mpr hmem
    refine ⟨i % 24, Nat.mod_lt _ (by decide), ?_, ?_⟩
    · rw [hi]; exact hplace
    · rw [hi, State.slot, Tab.get, hfind]; exact hq
  · rintro ⟨p, hp, hplace, hq⟩
    cases hfind : s.slots.find (24 * col + p) with
    | none =>
      rw [State.slot, Tab.get, hfind] at hq
      exact absurd hq (by rw [Option.getD_none, hoff]; decide)
    | some v =>
      rw [State.slot, Tab.get, hfind] at hq
      exact ⟨(24 * col + p, v), ⟨(Tab.find_eq_some_iff hslots).mp hfind, by omega, hplace⟩, hq⟩

theorem State.groupTerm_eq (hslots : s.slots.keys.Nodup) (col : Nat) :
    s.groupTerm (s.choiceFor r c []) col = s.groupScore c col := by
  have hgroup := State.others_any (s := s) (c := c) hslots (col := col)
    (q := fun v => v.state == .held && ((v.coil.bind s.coil?).map Coil.group == some c.group)) rfl
  have hany := State.others_any (s := s) (c := c) hslots (col := col)
    (q := fun v => v.state == .held || v.state == .leaving) rfl
  simp only [Bool.and_eq_true, Bool.or_eq_true, beq_iff_eq] at hgroup hany
  unfold State.groupTerm State.groupScore
  dsimp only [State.choiceFor]
  simp only [hgroup, hany]

theorem State.crowdTerm_eq (k x : Nat) : s.crowdTerm k x = s.crowdScore k x := by
  unfold State.crowdTerm State.crowdScore
  have hcranes : ((fittedCranes s).any fun j =>
      j != k && decide ((s.crane j).grant.lo ≤ (x : Int) ∧ (x : Int) ≤ (s.crane j).grant.hi)) = true ↔
      ∃ j ∈ List.range 4, j ≤ s.straps ∧ j ≠ k ∧ (s.crane j).grant.lo ≤ x ∧ x ≤ (s.crane j).grant.hi := by
    simp only [List.any_eq_true, mem_fittedCranes, State.fitted_iff_both, Bool.and_eq_true, bne_iff_ne, decide_eq_true_eq,
      List.mem_range]
    exact exists_congr fun j => by tauto
  simp only [hcranes]

/-- The score of a slot for the crane. -/
def State.scoreOf (s : State) (c : Coil) (k i : Nat) : Nat :=
  (((s.column (i / 24)).x : Int) - s.placeX c.place).natAbs / 100 + (if i % 24 < 12 then 0 else s.policy.pUp) +
    s.groupScore c (i / 24) + s.crowdScore k (s.column (i / 24)).x

theorem State.score_eq (hslots : s.slots.keys.Nodup) (h : s.mayTake c i) :
    s.score (s.choiceFor r c []) k i = s.scoreOf c k i := by
  have hfits : isLower i = true ∨ isUpper i = true := by
    have hfits := h.1
    unfold State.slotFits at hfits
    by_cases hlow : isLower i = true
    · exact .inl hlow
    · rw [if_neg hlow, Bool.and_eq_true] at hfits
      exact .inr hfits.1
  have hupper : isUpper i = true ↔ ¬i % 24 < 12 := by
    rw [isLower_iff, isUpper_iff] at hfits
    rw [isUpper_iff]
    omega
  have hdistance : absDiff (s.slotX i) (s.placeX c.place) =
      (((s.column (i / 24)).x : Int) - s.placeX c.place).natAbs := by
    unfold absDiff State.slotX slotColumn
    omega
  unfold State.score State.scoreOf
  dsimp only
  rw [State.groupTerm_eq hslots, State.crowdTerm_eq, ← hdistance]
  simp only [hupper, ite_not]
  rfl

/-! ## What a choice answers (R27 to R29) -/

theorem State.bestSlot_of_least (hslots : s.slots.keys.Pairwise (· < ·)) (hi : s.mayTakeBy c k i)
    (hleast : ∀ q, s.mayTakeBy c k q → s.scoreOf c k i < s.scoreOf c k q ∨ s.scoreOf c k i = s.scoreOf c k q ∧ i ≤ q) :
    s.bestSlot (s.choiceFor r c []) k = some i := by
  refine bestOf_of_least (hslots.filter _) (State.mem_candidates.mpr hi) fun q hq => ?_
  have htake := State.mem_candidates.mp hq
  rw [State.score_eq (nodup_of_rising hslots) hi.1, State.score_eq (nodup_of_rising hslots) htake.1]
  exact hleast q htake

theorem State.searchCranes_of_first {ch : Choice} {before after : List Nat} (hbefore : ∀ j ∈ before, s.bestSlot ch j = none)
    (hk : s.bestSlot ch k = some i) : s.searchCranes ch (before ++ k :: after) = .ok (i, k) := by
  induction before with
  | nil => simp only [List.nil_append, State.searchCranes, hk]
  | cons j rest ih =>
    obtain ⟨hj, hrest⟩ := List.forall_mem_cons.mp hbefore
    simp only [List.cons_append, State.searchCranes, hj]
    exact ih hrest

theorem State.searchCranes_of_none {ch : Choice} {l : List Nat} (h : ∀ j ∈ l, s.bestSlot ch j = none) :
    s.searchCranes ch l = .error .noSlot := by
  induction l with
  | nil => rfl
  | cons j rest ih =>
    obtain ⟨hj, hrest⟩ := List.forall_mem_cons.mp h
    simp only [State.searchCranes, hj]
    exact ih hrest

/-- With AUTO target the ranking is searched, where there is one (R29). -/
theorem State.choose_auto_eq {l : List Nat} (hl : s.ranked (s.cranesFor (s.choiceFor r c []) named) = l) :
    s.choose r c none named = if l = [] then .error .noCrane else s.searchCranes (s.choiceFor r c []) l := by
  simp only [State.choose, State.chooseAuto, hl]
  cases l <;> rfl

/-- Settles O24: the ranking is sorted, the search takes the first crane with a candidate, and the best slot is the least. -/
theorem choicesTakeTheBestSlot : Obligations.ChoicesTakeTheBestSlot := by
  intro s r c named hlaw source serves may before target x candidate group crowd score
  obtain ⟨-, hslots, -⟩ := State.tablesLaw_iff.mp hlaw
  have hranked {k : Nat} : k ∈ s.ranked (s.cranesFor (s.choiceFor r c []) named) ↔ may k :=
    State.mem_ranked.trans State.mem_cranesFor
  refine ⟨fun hnone => ?_, fun hsome hnone => ?_, fun k i hk hbefore hi hleast => ?_, fun i hi => ?_⟩
  · rw [State.choose_auto_eq rfl, if_pos (List.eq_nil_iff_forall_not_mem.mpr fun k hk => hnone k (hranked.mp hk))]
  · obtain ⟨k, hk⟩ := hsome
    rw [State.choose_auto_eq rfl, if_neg (List.ne_nil_of_mem (hranked.mpr hk))]
    exact State.searchCranes_of_none fun j hj => State.bestSlot_eq_none.mpr (hnone j · (hranked.mp hj))
  · obtain ⟨bs, as, hsplit, hfirst⟩ :=
      State.ranked_split (s := s) (s.pairwise_cranesFor (s.choiceFor r c []) named) (State.mem_cranesFor.mpr hk)
    rw [State.choose_auto_eq hsplit, if_neg (by simp)]
    refine State.searchCranes_of_first (fun j hj => ?_) (State.bestSlot_of_least hslots hi hleast)
    obtain ⟨hmay, hrank⟩ := hfirst j hj
    exact State.bestSlot_eq_none.mpr (hbefore j (State.mem_cranesFor.mp hmay) hrank)
  · have htaken : (s.slotFits c c.weightUsed i && !(s.choiceFor r c []).excluded.contains i) = true :=
      State.mayTake_iff.mp hi
    have hserving {k : Nat} : k ∈ (s.cranesFor (s.choiceFor r c []) named).filter (s.serves (s.slotX i)) ↔
        may k ∧ serves (x i) k := by
      rw [List.mem_filter, State.mem_cranesFor, State.serves_iff]
      exact ⟨fun ⟨hk, _, _, _, _, hx⟩ => ⟨hk, hx⟩,
        fun ⟨hk, hx⟩ => ⟨hk, hk.1, hk.2.1, hk.2.2.1, hk.2.2.2.1, hx⟩⟩
    have hchoose : s.choose r c (some i) named = match s.chooseCrane (s.choiceFor r c []) named (s.slotX i) with
        | some k => .ok (i, k)
        | none => .error .noCrane := if_pos htaken
    rw [hchoose, State.chooseCrane]
    refine ⟨fun hnone => ?_, fun k hk hx hfirst => ?_⟩
    · have hnil : s.ranked ((s.cranesFor (s.choiceFor r c []) named).filter (s.serves (s.slotX i))) = [] :=
        List.eq_nil_iff_forall_not_mem.mpr fun k hk => by
          obtain ⟨hmay, hx⟩ := hserving.mp (State.mem_ranked.mp hk)
          exact hnone k hmay hx
      rw [hnil]
      rfl
    · obtain ⟨bs, as, hsplit, hrank⟩ := State.ranked_split (s := s)
        ((s.pairwise_cranesFor (s.choiceFor r c []) named).filter _) (hserving.mpr ⟨hk, hx⟩)
      have hnil : bs = [] := List.eq_nil_iff_forall_not_mem.mpr fun j hj => by
        obtain ⟨hmem, hbefore⟩ := hrank j hj
        obtain ⟨hmay, hxj⟩ := hserving.mp hmem
        exact hfirst j hmay hxj hbefore
      rw [hsplit, hnil]
      rfl

end Sys2Proof.Machine
end

section
/-! PROOF. What the exchange port adds to a handling: the journal, the cells and the flags apart from the records, so that a
handling is its records and its port (R187, R191, R192, R198). -/

namespace Sys2Proof.Machine

variable {s t u : State} {e : JournalEntry} {es fs : List JournalEntry} {n : Nat} {w : Nat → Bool}

/-! ## The port -/

/-- What the exchange port writes while a command is handled. -/
structure Port where
  mem : Tab Byte
  groupEditions : Tab Byte
  flags : BitVec 10
  writeCount : Nat
  holding : List JournalEntry

def State.port (s : State) : Port := ⟨s.mem, s.groupEditions, s.flags, s.writeCount, s.holding⟩

/-- The state with another port. -/
def State.ported (s : State) (p : Port) : State :=
  { s with
    mem := p.mem, groupEditions := p.groupEditions, flags := p.flags, writeCount := p.writeCount, holding := p.holding }

theorem State.ported_port (s : State) : s.ported s.port = s := rfl
@[simp] theorem State.port_ported (s : State) (p : Port) : (s.ported p).port = p := rfl
@[simp] theorem State.ported_ported (s : State) (p q : Port) : (s.ported p).ported q = s.ported q := rfl

@[simp] theorem State.ported_mode (s : State) (p : Port) : (s.ported p).mode = s.mode := rfl
@[simp] theorem State.crane_ported (s : State) (p : Port) (c : Nat) : (s.ported p).crane c = s.crane c := rfl
@[simp] theorem State.bay_ported (s : State) (p : Port) (b : Nat) : (s.ported p).bay b = s.bay b := rfl
@[simp] theorem State.channel_ported (s : State) (p : Port) (k : Nat) : (s.ported p).channel k = s.channel k := rfl
@[simp] theorem State.move_ported (s : State) (p : Port) (m : Nat) : (s.ported p).move? m = s.move? m := rfl
@[simp] theorem State.coil_ported (s : State) (p : Port) (r : Nat) : (s.ported p).coil? r = s.coil? r := rfl
@[simp] theorem State.currentMove_ported (s : State) (p : Port) (c : Nat) :
    (s.ported p).currentMove c = s.currentMove c := rfl
@[simp] theorem State.inService_ported (s : State) (p : Port) : (s.ported p).inService = s.inService := rfl
@[simp] theorem State.runway_ported (s : State) (p : Port) : (s.ported p).runway = s.runway := rfl
theorem State.setCrane_ported (s : State) (p : Port) (c : Nat) (v : Crane) :
    (s.ported p).setCrane c v = (s.setCrane c v).ported p := rfl
theorem State.modCrane_ported (s : State) (p : Port) (c : Nat) (f : Crane → Crane) :
    (s.ported p).modCrane c f = (s.modCrane c f).ported p := rfl
theorem State.modChannel_ported (s : State) (p : Port) (k : Nat) (f : Channel → Channel) :
    (s.ported p).modChannel k f = (s.modChannel k f).ported p := rfl
theorem State.modBay_ported (s : State) (p : Port) (b : Nat) (f : Bay → Bay) :
    (s.ported p).modBay b f = (s.modBay b f).ported p := rfl
theorem State.touch_ported (s : State) (p : Port) (g : Nat) : (s.ported p).touch g = (s.touch g).ported p := rfl
theorem State.send_ported (s : State) (p : Port) (c : Nat) (x : StepTelegram) :
    (s.ported p).send c x = (s.send c x).ported p := rfl

theorem State.writeBytes_port (s : State) (a : Nat) (bs : List Byte) :
    s.writeBytes a bs = s.ported { s.port with mem := (s.writeBytes a bs).mem } := State.writeBytes_eq_mem ..

/-- `t` is `s` but for its port. -/
def PortOnly (s t : State) : Prop := t = s.ported t.port

theorem PortOnly.refl (s : State) : PortOnly s s := rfl

theorem PortOnly.trans (h : PortOnly s t) (g : PortOnly t u) : PortOnly s u := by
  have hu : u = t.ported u.port := g
  have ht : t = s.ported t.port := h
  rw [ht, State.ported_ported] at hu
  exact hu

theorem PortOnly.ported (s : State) (p : Port) : PortOnly s (s.ported p) := rfl

theorem State.writeByte_portOnly (s : State) (a : Nat) (b : Byte) : PortOnly s (s.writeByte a b) := rfl

theorem State.writeBytes_portOnly (s : State) (a : Nat) (bs : List Byte) : PortOnly s (s.writeBytes a bs) := by
  rw [State.writeBytes_port]
  exact .ported ..

theorem State.raise_portOnly (s : State) (n : Notice) : PortOnly s (s.raise n) := rfl

theorem State.writeGroup_portOnly (s : State) (g : Nat) : PortOnly s (s.writeGroup g) := by
  have hedition (e : Tab Byte) : PortOnly s { s with groupEditions := e } := rfl
  exact (hedition _).trans (State.writeBytes_portOnly ..)

theorem State.setWriteCount_portOnly (s : State) (n : Nat) : PortOnly s { s with writeCount := n } := rfl

theorem State.putEntry_portOnly (s : State) (e : JournalEntry) : PortOnly s (s.putEntry e) :=
  (State.writeBytes_portOnly s (journalOffset s.writeCount) (e.bytes ((s.writeCount + 1) % two32))).trans
    (State.setWriteCount_portOnly _ ((s.writeCount + 1) % two32))

theorem State.writeEntry_portOnly (s : State) (e : JournalEntry) : PortOnly s (s.writeEntry e) := by
  rw [State.writeEntry_eq]
  exact (s.putEntry_portOnly e).trans ((State.writeGroup_portOnly ..).trans (State.raise_portOnly ..))

theorem State.writeAnswer_portOnly (s : State) (c : Nat) (a : Answer) : PortOnly s (s.writeAnswer c a) :=
  (State.writeBytes_portOnly ..).trans ((State.writeByte_portOnly ..).trans (State.writeByte_portOnly ..))

/-! ## What the port has seen of a handling -/

/-- Between the beginning of a command and a state of its handling: the entries logged, the notices raised, and the bytes of the
cells that `w` names written. -/
structure Effect (s t : State) (es : List JournalEntry) (notices : BitVec 10) (w : Nat → Bool) : Prop where
  logged : Logged s t es
  flags : t.flags = s.flags ||| notices
  cells : ∀ a, 0x1000 ≤ a → a < 0x9000 → w a = false → t.readByte a = s.readByte a

variable {R : State} {p : Port} {notices : BitVec 10}

/-- A handling begins with nothing written. -/
theorem Effect.start (hs : s.journalTakes n = true) : Effect s (s.begin.ported s.port) [] 0 w where
  logged := .of_unwritten hs rfl rfl rfl fun _ _ => rfl
  flags := (BitVec.or_zero).symm
  cells _ _ _ _ := rfl

/-- The records may change as they will but for the mode. -/
theorem Effect.records_changed {R' : State} (h : Effect s (R.ported p) es notices w) (hmode : R'.mode = R.mode) :
    Effect s (R'.ported p) es notices w where
  logged := ⟨⟨h.logged.order.count, h.logged.order.held, h.logged.order.entries⟩, hmode.trans h.logged.mode, h.logged.others⟩
  flags := h.flags
  cells := h.cells

/-- Entries with the same bytes are logged as each other. -/
theorem Effect.congr (h : Effect s t es notices w) (hbytes : es.map JournalEntry.bytes = fs.map JournalEntry.bytes) :
    Effect s t fs notices w := ⟨h.logged.congr hbytes, h.flags, h.cells⟩

/-- A notice is raised. -/
theorem Effect.raise (h : Effect s (R.ported p) es notices w) (m : Notice) :
    ∃ q, (R.ported p).raise m = R.ported q ∧ Effect s (R.ported q) es (notices ||| m.mask) w :=
  ⟨{ p with flags := p.flags ||| m.mask }, rfl,
    ⟨⟨h.logged.order.count, h.logged.order.held, h.logged.order.entries⟩, h.logged.mode, h.logged.others⟩, by
    rw [← BitVec.or_assoc, ← h.flags]
    rfl, h.cells⟩

/-- An entry is produced, the journal taking it at once. -/
theorem Effect.produce (h : Effect s (R.ported p) es notices w) (hs : s.journalTakes (es.length + (n + 1)) = true)
    (e : JournalEntry) :
    ∃ q, (R.ported p).produce e = R.ported q ∧ Effect s (R.ported q) (es ++ [e]) (notices ||| Notice.entry.mask) w := by
  have htakes := h.logged.takes hs
  have hone : s.journalTakes (es.length + [e].length) = true := by
    obtain ⟨hheld, hroom, hmode, hcount⟩ := State.journalTakes_iff.mp hs
    exact State.journalTakes_iff.mpr ⟨hheld, by rw [List.length_singleton]; omega, hmode, hcount⟩
  have hport : (R.ported p).produce e = R.ported ((R.ported p).produce e).port := by
    rw [State.produce_of_takes htakes]
    exact (PortOnly.ported R p).trans (State.writeEntry_portOnly ..)
  refine ⟨_, hport, ?_⟩
  rw [← hport]
  refine ⟨h.logged.trans (Logged.produce htakes e) hone, ?_, fun a hlo hhi ha => ?_⟩
  · rw [State.produce_flags htakes, h.flags, BitVec.or_assoc]
  · rw [State.readByte_produce_of_cell htakes e (by omega) hhi, h.cells a hlo hhi ha]

/-- An entry with the notice of its kind. -/
theorem Effect.report (h : Effect s (R.ported p) es notices w) (hs : s.journalTakes (es.length + (n + 1)) = true)
    (m : Notice) (e : JournalEntry) :
    ∃ q, (R.ported p).report m e = R.ported q ∧
      Effect s (R.ported q) (es ++ [e]) (notices ||| m.mask ||| Notice.entry.mask) w := by
  obtain ⟨q, hq, heffect⟩ := h.raise m
  obtain ⟨q', hq', heffect'⟩ := heffect.produce hs e
  exact ⟨q', (congrArg (State.produce · e) hq).trans hq', heffect'⟩

theorem craneStateEntry_bytes (c event b13 b14 : Nat) :
    JournalEntry.bytes { kind := 4, subject := c, detail := [byte event, byte b13, byte b14, 0] ++ leBytes 2 0 } =
      (craneStateEntry c event b13 b14).bytes := rfl

/-- A CRANE_STATE entry. -/
theorem Effect.craneEntry (h : Effect s (R.ported p) es notices w) (hs : s.journalTakes (es.length + (n + 1)) = true)
    (c event b13 b14 : Nat) :
    ∃ q, (R.ported p).craneEntry c event b13 b14 = R.ported q ∧
      Effect s (R.ported q) (es ++ [craneStateEntry c event b13 b14]) (notices ||| Notice.crane.mask ||| Notice.entry.mask)
        w := by
  obtain ⟨q, hq, heffect⟩ := h.report hs .crane
    { kind := 4, subject := c, detail := [byte event, byte b13, byte b14, 0] ++ leBytes 2 0 }
  exact ⟨q, hq, heffect.congr (by simp only [List.map_append, List.map_cons, List.map_nil, craneStateEntry_bytes])⟩

/-- A cell of a take is as current as it was, where no byte of it is written. -/
theorem Effect.cellIsOf (h : Effect s t es notices w) {c take : Nat} (hc : c < 128)
    (hw : ∀ a, cellOffset c ≤ a → a < cellOffset c + 16 → w a = false) : t.cellIsOf c take = s.cellIsOf c take := by
  obtain ⟨hlo, hhi⟩ := cellOffset_bounds hc
  exact State.cellIsOf_congr fun b hb hb' => h.cells b (by omega) (by omega) (hw b hb hb')

/-- An answer to a current cell is shown. -/
theorem Effect.answer (h : Effect s (R.ported p) es notices w) {c take : Nat} (hc : c < 128)
    (hcurrent : (R.ported p).cellIsOf c take = true) (a : Answer) :
    ∃ q, (R.ported p).answer c take a = R.ported q ∧
      Effect s (R.ported q) es (notices ||| Notice.answer.mask) (fun b => answerByte c b || w b) ∧
      ShowsAnswer (R.ported q) c a ∧
      ∀ b, answerByte c b = false → (R.ported q).readByte b = (R.ported p).readByte b := by
  obtain ⟨hlo, hhi⟩ := cellOffset_bounds hc
  have hanswer : (R.ported p).answer c take a = ((R.ported p).writeAnswer c a).raise .answer := State.answer_written hcurrent
  have hport : (R.ported p).answer c take a = R.ported ((R.ported p).answer c take a).port := by
    rw [hanswer]
    exact (PortOnly.ported R p).trans ((State.writeAnswer_portOnly ..).trans (State.raise_portOnly ..))
  have hbytes (b : Nat) : ((R.ported p).answer c take a).readByte b = ((R.ported p).writeAnswer c a).readByte b := by
    rw [hanswer]
    rfl
  have hwritten : (R.ported p).answer c take a = ((R.ported p).answer c take a) := rfl
  have hcount : ((R.ported p).answer c take a).writeCount = (R.ported p).writeCount := by
    rw [hanswer, State.writeAnswer_raise_eq]
  have hheld : ((R.ported p).answer c take a).holding = (R.ported p).holding := by
    rw [hanswer, State.writeAnswer_raise_eq]
  have hflags : ((R.ported p).answer c take a).flags = (R.ported p).flags ||| Notice.answer.mask := by
    rw [hanswer, State.writeAnswer_raise_eq]
  have hout {b : Nat} (hb : answerByte c b = false) :
      ((R.ported p).answer c take a).readByte b = (R.ported p).readByte b := by
    rw [hbytes, State.readByte_writeAnswer_of_outside hb]
  have hring {b : Nat} (hb : ringByte b = true) : answerByte c b = false := by
    have hring := ringByte_iff.mp hb
    simp only [answerByte, Bool.or_eq_false_iff, beq_eq_false_iff_ne, decide_eq_false_iff_not]
    omega
  refine ⟨_, hport, ?_, ?_, fun b hb => ?_⟩
  · rw [← hport]
    refine ⟨⟨⟨hcount.trans h.logged.order.count, hheld.trans h.logged.order.held, fun i e he => ?_⟩, ?_, fun b hb hplace => ?_⟩,
      ?_, fun b hblo hbhi hb => ?_⟩
    · rw [← h.logged.order.entries i e he]
      refine State.readBytes_congr _ _ _ fun k hk => hout (hring (ringByte_iff.mpr (.inl ?_)))
      have := journalOffset_bounds (s.writeCount + i)
      omega
    · rw [hport]
      exact h.logged.mode
    · rw [hout (hring hb), h.logged.others b hb hplace]
    · rw [hflags, h.flags, BitVec.or_assoc]
    · obtain ⟨hb1, hb2⟩ := Bool.or_eq_false_iff.mp hb
      rw [hout hb1, h.cells b hblo hbhi hb2]
  · rw [← hport]
    exact .of_writeAnswer fun b _ _ => hbytes b
  · rw [← hport]
    exact hout hb

/-! ## The end of a handling -/

/-- A command whose handling ends in records and a port: its records, its entries in order, its notices, and what it wrote. -/
theorem handle_ported {g : State → State} (hg : g s.begin = R.ported p) (h : Effect s (R.ported p) es notices w)
    (hlen : es.length ≤ n) (hheld : R.holding = s.holding) (hs : s.holding = []) :
    ∃ t, handle g s = .next t ∧ t.records = State.records { R with writeCount := t.writeCount } ∧
      JournaledInOrder s t es ∧ t.flags = s.flags ||| notices ∧
      OnlyWrites s t (fun a => w a || s.journalPlace n a) ∧
      ∀ b, 0x1000 ≤ b → b < 0x9000 → t.readByte b = (R.ported p).readByte b := by
  obtain ⟨t, hnext, hrecords, hflags, hbytes⟩ := handle_effect g s
  rw [hg] at hrecords hflags hbytes
  have hcount : t.writeCount = p.writeCount := State.of_records State.writeCount hrecords
  have hholding : t.holding = p.holding := State.of_records State.holding hrecords
  have hmode : t.mode = R.mode := State.of_records (u := R.ported p) State.mode hrecords
  have hlogged : Logged s t es := by
    refine ⟨⟨hcount.trans h.logged.order.count, hholding.trans h.logged.order.held, fun i e he => ?_⟩,
      hmode.trans h.logged.mode, fun b hb hplace => ?_⟩
    · rw [← h.logged.order.entries i e he]
      refine State.readBytes_congr _ _ _ fun k hk => hbytes _ ?_
      have := journalOffset_bounds (s.writeCount + i)
      omega
    · have hring := ringByte_iff.mp hb
      rw [hbytes b (by omega), h.logged.others b hb hplace]
  refine ⟨t, hnext, ?_, hlogged.order, hflags.trans h.flags, ?_, fun b hlo hhi => hbytes b (by omega)⟩
  · have hempty : R.holding = p.holding := hheld.trans (hs.trans h.logged.order.held.symm)
    rw [hrecords, hcount]
    unfold State.records State.ported
    rw [← hempty]
  · exact .of_logged hlogged hlen (fun a ha => (Bool.or_eq_false_iff.mp ha).2) fun a hlo hhi ha => by
      rw [hbytes a (by omega), h.cells a hlo hhi (Bool.or_eq_false_iff.mp ha).1]

/-! ## The runway at rest (R66 to R74) -/

theorem State.requestOf_of_quiet (h : s.runwayQuiet) (k : Nat) : s.requestOf k = none := by
  rw [State.requestOf, h.1, List.find?_nil]

theorem State.settle_of_quiet (h : s.runwayQuiet) (fuel : Nat) (look : Bool) : State.settle fuel s look = s := by
  obtain ⟨hrequests, hstalled, hcranes⟩ := h
  have hresumable : s.resumable = none := by
    refine List.find?_eq_none.mpr fun k _ => ?_
    rw [(hcranes k).2]
    exact Bool.false_ne_true
  have hyield : s.yieldDue = none := by
    rw [State.yieldDue, hrequests, List.findSome?_nil]
  have hcycle : [0, 1, 2].findSome? s.waitCycle = none := by
    refine List.findSome?_eq_none_iff.mpr fun i _ => ?_
    rw [State.waitCycle, State.requestOf_of_quiet ⟨hrequests, hstalled, hcranes⟩]
  have hcheck : s.checkOnce = none := by
    rw [State.checkOnce, hyield, hcycle]
    rfl
  cases fuel with
  | zero => rfl
  | succ fuel =>
    rw [State.settle, hresumable]
    cases look
    · rfl
    · dsimp only
      rw [if_pos rfl, hcheck]

theorem State.settleRU_of_quiet (h : s.runwayQuiet) (look : Bool) : s.settleRU look = s := State.settle_of_quiet h ..

theorem State.scan_of_quiet (h : s.runwayQuiet) : s.scan = s := by
  rw [State.scan, h.1]
  exact State.settleRU_of_quiet h true

theorem State.afterCU_of_quiet (h : s.runwayQuiet) (before : State) : before.afterCU s = s := State.settleRU_of_quiet h _

/-- The runway is at rest as long as its list, its pairs and the cranes' yields and deferrals are as they were. -/
theorem State.runwayQuiet.congr (h : s.runwayQuiet) (hrequests : t.requests = s.requests) (hstalled : t.stalled = s.stalled)
    (hcranes : ∀ c, (t.crane c).yield = (s.crane c).yield ∧ (t.crane c).deferral = (s.crane c).deferral) : t.runwayQuiet :=
  ⟨hrequests.trans h.1, hstalled.trans h.2.1, fun c => ⟨(hcranes c).1.trans (h.2.2 c).1, (hcranes c).2.trans (h.2.2 c).2⟩⟩

/-- A request that is not in the list leaves nothing behind. -/
theorem State.requestLeft_of_quiet (h : s.runwayQuiet) (fuel k : Nat) (ended : Bool) :
    State.requestLeft fuel s k ended = s := by
  obtain ⟨hrequests, hstalled, hcranes⟩ := h
  cases fuel with
  | zero => rfl
  | succ fuel =>
    have hlists : { s with
        requests := s.requests.filter fun r => r.crane != k
        stalled := s.stalled.filter fun i => i != k && i + 1 != k } = s := by
      rw [hrequests, hstalled, List.filter_nil, List.filter_nil, ← hrequests, ← hstalled]
    have hcrane (j : Nat) : (s.crane j).yieldFalls k ended = false := by
      rw [Crane.yieldFalls, (hcranes j).1]
    rw [State.requestLeft, hlists]
    simp only [List.foldl_cons, List.foldl_nil, (hcranes _).2, hcrane, Bool.false_eq_true, if_false]

end Sys2Proof.Machine
end

section
/-! PROOF. The events of one crane link: what they may change, and the telegrams that change little (R42 to R48, R113). -/

namespace Sys2Proof.Machine

variable {s t R : State} {c : Nat} {v : Crane} {h : Channel} {l : List (Nat × StepTelegram)}

/-! ## What an event of one link changes -/

/-- Between the beginning of a command and a state of its handling only crane `c`, its hook channel and what its link sends have
changed, and stand as given. -/
structure LinkEvent (s R : State) (c : Nat) (v : Crane) (h : Channel) (l : List (Nat × StepTelegram)) : Prop where
  crane : R.crane c = v
  cranes : ∀ j, j ≠ c → R.crane j = s.crane j
  channel : R.channel c = h
  channels : ∀ q, q ≠ c → R.channel q = s.channel q
  sent : R.sent = l
  transmitted : Transmitted s R
  unsent : l = [] → R.outgoing = s.outgoing
  records : R.records = State.records
    { s with sent := R.sent, outgoing := R.outgoing, cranes := R.cranes, channels := R.channels }
  port : R.port = s.port

theorem LinkEvent.start (s : State) (c : Nat) : LinkEvent s s.begin c (s.crane c) (s.channel c) [] where
  crane := rfl
  cranes _ _ := rfl
  channel := rfl
  channels _ _ := rfl
  sent := rfl
  transmitted _ := (List.append_nil _).symm
  unsent _ := rfl
  records := rfl
  port := rfl

theorem LinkEvent.setCrane (hR : LinkEvent s R c v h l) (v' : Crane) : LinkEvent s (R.setCrane c v') c v' h l where
  crane := State.crane_setCrane_self ..
  cranes j hj := (State.crane_setCrane ..).trans ((if_neg hj).trans (hR.cranes j hj))
  channel := hR.channel
  channels := hR.channels
  sent := hR.sent
  transmitted := hR.transmitted
  unsent := hR.unsent
  records := by
    have hrecords : (R.setCrane c v').records = { R.records with cranes := (R.setCrane c v').cranes } := rfl
    rw [hrecords, hR.records]
    rfl
  port := hR.port

theorem LinkEvent.modCrane (hR : LinkEvent s R c v h l) (f : Crane → Crane) :
    LinkEvent s (R.modCrane c f) c (f v) h l := by
  have hset := hR.setCrane (f v)
  rwa [← hR.crane] at hset ⊢

theorem LinkEvent.modChannel (hR : LinkEvent s R c v h l) (f : Channel → Channel) :
    LinkEvent s (R.modChannel c f) c v (f h) l where
  crane := hR.crane
  cranes := hR.cranes
  channel := (State.channel_setChannel_self ..).trans (congrArg f hR.channel)
  channels q hq := (State.channel_setChannel ..).trans ((if_neg hq).trans (hR.channels q hq))
  sent := hR.sent
  transmitted := hR.transmitted
  unsent := hR.unsent
  records := by
    have hrecords : (R.modChannel c f).records = { R.records with channels := (R.modChannel c f).channels } := rfl
    rw [hrecords, hR.records]
    rfl
  port := hR.port

theorem LinkEvent.send (hR : LinkEvent s R c v h l) (x : StepTelegram) :
    LinkEvent s (R.send c x) c v h (l ++ [(c, x)]) where
  crane := hR.crane
  cranes := hR.cranes
  channel := hR.channel
  channels := hR.channels
  sent := congrArg (· ++ [(c, x)]) hR.sent
  transmitted k := by
    have hbefore := hR.transmitted k
    have hout : (R.send c x).outgoingTo k = if k = c then R.outgoingTo c ++ x.characters c else R.outgoingTo k := by
      rw [State.outgoingTo, State.send, Tab.get_put]
      rfl
    have hsent : (R.send c x).sent = R.sent ++ [(c, x)] := rfl
    rw [hout, hsent, List.filter_append, List.flatMap_append, ← List.append_assoc]
    by_cases hk : k = c
    · subst hk
      rw [if_pos rfl, hbefore]
      simp
    · rw [if_neg hk, hbefore]
      simp [Ne.symm hk]
  unsent hl := absurd hl (by simp)
  records := by
    have hrecords : (R.send c x).records =
        { R.records with sent := (R.send c x).sent, outgoing := (R.send c x).outgoing } := rfl
    rw [hrecords, hR.records]
    rfl
  port := hR.port

theorem LinkEvent.touch (hR : LinkEvent s R c v h l) (g : Nat) : LinkEvent s (R.touch g) c v h l :=
  ⟨hR.crane, hR.cranes, hR.channel, hR.channels, hR.sent, hR.transmitted, hR.unsent, hR.records, hR.port⟩

theorem LinkEvent.mode (hR : LinkEvent s R c v h l) : R.mode = s.mode :=
  State.of_records (u := { s with sent := R.sent, outgoing := R.outgoing, cranes := R.cranes, channels := R.channels })
    State.mode hR.records

theorem LinkEvent.inService (hR : LinkEvent s R c v h l) : R.inService = s.inService := by
  rw [State.inService, hR.mode, State.inService]

theorem LinkEvent.runway (hR : LinkEvent s R c v h l) : R.runway = s.runway :=
  State.of_records (u := { s with sent := R.sent, outgoing := R.outgoing, cranes := R.cranes, channels := R.channels })
    State.runway hR.records

theorem LinkEvent.bays (hR : LinkEvent s R c v h l) : R.bays = s.bays :=
  State.of_records (u := { s with sent := R.sent, outgoing := R.outgoing, cranes := R.cranes, channels := R.channels })
    State.bays hR.records

theorem LinkEvent.bay (hR : LinkEvent s R c v h l) (b : Nat) : R.bay b = s.bay b := by
  rw [State.bay, hR.bays, State.bay]

theorem LinkEvent.straps (hR : LinkEvent s R c v h l) : R.straps = s.straps :=
  State.of_records (u := { s with sent := R.sent, outgoing := R.outgoing, cranes := R.cranes, channels := R.channels })
    State.straps hR.records

theorem LinkEvent.moves (hR : LinkEvent s R c v h l) : R.moves = s.moves :=
  State.of_records (u := { s with sent := R.sent, outgoing := R.outgoing, cranes := R.cranes, channels := R.channels })
    State.moves hR.records

/-- The runway stays at rest while the crane's yield and deferral do. -/
theorem LinkEvent.quiet (hR : LinkEvent s R c v h l) (hs : s.runwayQuiet) (hyield : v.yield = none)
    (hdeferral : v.deferral = none) : R.runwayQuiet := by
  obtain ⟨hrequests, hstalled, hcranes⟩ := hs
  refine ⟨?_, ?_, fun j => ?_⟩
  · exact (State.of_records (u := { s with sent := R.sent, outgoing := R.outgoing, cranes := R.cranes, channels := R.channels })
      State.requests hR.records).trans hrequests
  · exact (State.of_records (u := { s with sent := R.sent, outgoing := R.outgoing, cranes := R.cranes, channels := R.channels })
      State.stalled hR.records).trans hstalled
  · by_cases hj : j = c
    · subst hj
      rw [hR.crane]
      exact ⟨hyield, hdeferral⟩
    · rw [hR.cranes j hj]
      exact hcranes j

/-! ## The end of such an event -/

/-- A handling that writes nothing. -/
theorem handle_linkEvent {g : State → State} (hg : g s.begin = R) (hR : LinkEvent s R c v h l) :
    ∃ t, handle g s = .next t ∧ t.crane c = v ∧ (∀ j, j ≠ c → t.crane j = s.crane j) ∧ t.channel c = h ∧
      (∀ q, q ≠ c → t.channel q = s.channel q) ∧ t.sent = l ∧ Transmitted s t ∧
      t.records = State.records
        { s with sent := t.sent, outgoing := t.outgoing, cranes := t.cranes, channels := t.channels } ∧
      (l = [] → t.outgoing = s.outgoing) ∧ t.flags = s.flags ∧ OnlyWrites s t (fun _ => false) := by
  obtain ⟨t, hnext, hrecords, hflags, hbytes⟩ := handle_effect g s
  rw [hg] at hrecords hflags hbytes
  have hmem : R.mem = s.mem := congrArg Port.mem hR.port
  have hsent := State.of_records State.sent hrecords
  have houtgoing := State.of_records State.outgoing hrecords
  refine ⟨t, hnext, (State.of_records (fun x => x.crane c) hrecords).trans hR.crane,
    fun j hj => (State.of_records (fun x => x.crane j) hrecords).trans (hR.cranes j hj),
    (State.of_records (fun x => x.channel c) hrecords).trans hR.channel,
    fun q hq => (State.of_records (fun x => x.channel q) hrecords).trans (hR.channels q hq),
    hsent.trans hR.sent, fun k => ?_, ?_, fun hl => houtgoing.trans (hR.unsent hl),
    hflags.trans (congrArg Port.flags hR.port), fun b hb _ => ?_⟩
  · rw [State.outgoingTo, houtgoing, hsent]
    exact hR.transmitted k
  · rw [hrecords, hR.records, hsent, houtgoing, State.of_records State.cranes hrecords,
      State.of_records State.channels hrecords]
  · have := publishedOffset_eq_false hb
    rw [hbytes b (by omega), State.readByte_congr hmem]

/-- A handling that writes and sends nothing and leaves the channels alone. -/
theorem handle_linkEvent_crane {g : State → State} (hg : g s.begin = R) (hR : LinkEvent s R c v h [])
    (hchannels : R.channels = s.channels) :
    ∃ t, handle g s = .next t ∧ t.crane c = v ∧ (∀ j, j ≠ c → t.crane j = s.crane j) ∧
      t.records = State.records { s with sent := [], cranes := t.cranes } ∧ t.flags = s.flags ∧
      OnlyWrites s t (fun _ => false) := by
  obtain ⟨t, hnext, hcrane, hcranes, -, -, hsent, -, hrecords, hunsent, hflags, honly⟩ := handle_linkEvent hg hR
  obtain ⟨t', hnext', hrecords', -, -⟩ := handle_effect g s
  obtain rfl : t = t' := by
    rw [hnext] at hnext'
    exact Host.Outcome.next.inj hnext'
  have hsame : t.channels = s.channels := by
    rw [← hchannels, ← hg]
    exact State.of_records State.channels hrecords'
  refine ⟨t, hnext, hcrane, hcranes, ?_, hflags, honly⟩
  rw [hsent, hunsent rfl, hsame] at hrecords
  exact hrecords

/-- A handling that writes entries. -/
theorem handle_linkEvent_logged {g : State → State} {p : Port} {es : List JournalEntry} {notices : BitVec 10} {n : Nat}
    (hg : g s.begin = R.ported p) (hR : LinkEvent s R c v h l) (heffect : Effect s (R.ported p) es notices fun _ => false)
    (hlen : es.length ≤ n) (hs : s.journalTakes n = true) :
    ∃ t, handle g s = .next t ∧ t.crane c = v ∧ (∀ j, j ≠ c → t.crane j = s.crane j) ∧ t.channel c = h ∧
      (∀ q, q ≠ c → t.channel q = s.channel q) ∧ t.sent = l ∧ Transmitted s t ∧
      t.records = State.records
        { s with
          sent := t.sent, outgoing := t.outgoing, cranes := t.cranes, channels := t.channels, writeCount := t.writeCount } ∧
      (l = [] → t.outgoing = s.outgoing) ∧ JournaledInOrder s t es ∧ t.flags = s.flags ||| notices ∧
      OnlyWrites s t (s.journalPlace n) := by
  obtain ⟨t, hnext, hrecords, horder, hflags, honly, -⟩ := handle_ported hg heffect hlen
    (congrArg Port.holding hR.port) (State.journalTakes_iff.mp hs).1
  have hof {α : Type} (f : State → α) (hf : ∀ x : State, f x.records = f x)
      (hcount : f { R with writeCount := t.writeCount } = f R) : f t = f R := by
    rw [← hf t, hrecords, hf, hcount]
  have hsent := hof State.sent (fun _ => rfl) rfl
  have houtgoing := hof State.outgoing (fun _ => rfl) rfl
  refine ⟨t, hnext, (hof (fun x => x.crane c) (fun _ => rfl) rfl).trans hR.crane,
    fun j hj => (hof (fun x => x.crane j) (fun _ => rfl) rfl).trans (hR.cranes j hj),
    (hof (fun x => x.channel c) (fun _ => rfl) rfl).trans hR.channel,
    fun q hq => (hof (fun x => x.channel q) (fun _ => rfl) rfl).trans (hR.channels q hq),
    hsent.trans hR.sent, fun k => ?_, ?_, fun hl => houtgoing.trans (hR.unsent hl), horder, hflags, ?_⟩
  · rw [State.outgoingTo, houtgoing, hsent]
    exact hR.transmitted k
  · have hcount : State.records { R with writeCount := t.writeCount } = { R.records with writeCount := t.writeCount } := rfl
    rw [hrecords, hcount, hR.records, hsent, houtgoing, hof State.cranes (fun _ => rfl) rfl,
      hof State.channels (fun _ => rfl) rfl]
    rfl
  · exact fun a hpublished hout => honly a hpublished hout

/-! ## TAG and BAD_TELEGRAM (R42, R47, R48) -/

theorem onLink_of_fitted {k : Fin 4} {f : State → Nat → State} (hk : k.val ≤ s.straps) :
    onLink k f s.begin = f s.begin k.val := by
  have hfitted : s.begin.fitted k.val = true := State.fitted_iff_both.mpr ⟨hk, k.isLt⟩
  rw [onLink, if_pos hfitted]

theorem onLink_of_unfitted {k : Fin 4} {f : State → Nat → State} (hk : s.straps < k.val) :
    onLink k f s.begin = s.begin := by
  have hfitted : ¬s.begin.fitted k.val = true := fun hin => absurd (State.fitted_iff_both.mp hin).1 (Nat.not_le.mpr hk)
  rw [onLink, if_neg hfitted]

/-- A valid telegram on a link (R48). -/
def Crane.good (k : Crane) : Crane := if k.link = .lost then k else { k with badCount := 0, link := .up }

theorem LinkEvent.countGood (hR : LinkEvent s R c v h l) : LinkEvent s (R.countGood c) c v.good h l := by
  unfold State.countGood Crane.good
  rw [hR.crane]
  split_ifs
  · exact hR
  · exact hR.modCrane _

/-- A TAG that is the read of the TAGREAD in progress is kept. -/
theorem LinkEvent.takeTag_read (hR : LinkEvent s R c v h l) {r : TagReport}
    (hstep : v.step = some { seq := r.seq.toNat, kind := .tagread }) (hread : v.tagRead = none) :
    LinkEvent s (R.takeTag c r) c { v.good with tagRead := some (if r.present = 0 then none else some r.id.toNat) } h l := by
  have hgood := hR.countGood
  have hstep' : v.good.step = v.step := by unfold Crane.good; split_ifs <;> rfl
  have hread' : v.good.tagRead = v.tagRead := by unfold Crane.good; split_ifs <;> rfl
  have htake : R.takeTag c r =
      (R.countGood c).modCrane c fun x => { x with tagRead := some (if r.present = 0 then none else some r.id.toNat) } := by
    unfold State.takeTag
    simp only [hgood.crane, hstep', hstep, hread', hread, and_self, if_true]
  rw [htake]
  exact hgood.modCrane _

/-- Any other TAG is discarded. -/
theorem LinkEvent.takeTag_other (hR : LinkEvent s R c v h l) {r : TagReport}
    (hother : v.step ≠ some { seq := r.seq.toNat, kind := .tagread } ∨ v.tagRead ≠ none) :
    LinkEvent s (R.takeTag c r) c v.good h l := by
  have hgood := hR.countGood
  have hstep : v.good.step = v.step := by unfold Crane.good; split_ifs <;> rfl
  have hread : v.good.tagRead = v.tagRead := by unfold Crane.good; split_ifs <;> rfl
  have htake : R.takeTag c r = R.countGood c := by
    unfold State.takeTag
    simp only [hgood.crane, hstep, hread]
    cases hst : v.step with
    | none => rfl
    | some st =>
      refine if_neg fun hit => ?_
      obtain ⟨hkind, hseq, hnone⟩ := hit
      rcases hother with hother | hother
      · exact hother (by rw [hst, ← hkind, ← hseq])
      · exact hother hnone
  rw [htake]
  exact hgood

theorem State.countGood_channels (s : State) (c : Nat) : (s.countGood c).channels = s.channels := by
  unfold State.countGood
  split_ifs <;> rfl

theorem State.takeTag_channels (s : State) (c : Nat) (r : TagReport) : (s.takeTag c r).channels = s.channels := by
  rw [← s.countGood_channels c]
  unfold State.takeTag
  dsimp only
  split
  · split_ifs <;> rfl
  · rfl

theorem State.countBad_channels (hshort : (s.crane c).link = .lost ∨ (s.crane c).badCount ≠ 3) :
    (s.countBad c).channels = s.channels := by
  unfold State.countBad
  dsimp only
  split_ifs with hlost hfour
  · rfl
  · exact absurd hshort (not_or.mpr ⟨hlost, fun h => h (by omega)⟩)
  · rfl

/-- A bad telegram short of the fourth counts, or starts a recovery anew. -/
theorem LinkEvent.countBad (hR : LinkEvent s R c v h l) (hshort : v.link = .lost ∨ v.badCount ≠ 3) :
    LinkEvent s (R.countBad c) c
      (if v.link = .lost then { v with recoveryCount := 0 } else { v with badCount := v.badCount + 1, link := .doubt }) h l := by
  unfold State.countBad
  dsimp only
  rw [hR.crane]
  split_ifs with hlost hfour
  · exact hR.modCrane _
  · exact absurd hshort (not_or.mpr ⟨hlost, fun hne => hne (by omega)⟩)
  · exact hR.modCrane _

/-- A handling that changes nothing that is shown publishes nothing. -/
theorem handle_of_shown {g : State → State} (hg : g s.begin = R) (hshown : R.shown = s.shown) (htouched : R.touched = {}) :
    handle g s = .next R := by
  rw [handle_next, hg, publish_of_shown_eq (old := s.begin) hshown htouched]

/-- A telegram on the link of a crane not fitted is discarded. -/
theorem handle_onLink_of_unfitted {k : Fin 4} (hk : s.straps < k.val) (f : State → Nat → State) :
    handle (onLink k f) s = .next { s with sent := [], touched := {} } :=
  handle_of_shown (onLink_of_unfitted hk) rfl rfl

/-- Settles O32: each telegram changes its crane alone. -/
theorem tagsAndBadTelegramsAreTaken : Obligations.TagsAndBadTelegramsAreTaken := by
  refine ⟨?_, ?_, ?_⟩
  · intro c r s k good hc
    by_cases hhit : k.step = some { seq := r.seq.toNat, kind := .tagread } ∧ k.tagRead = none
    · obtain ⟨t, hnext, hcrane, hcranes, hrest⟩ := handle_linkEvent_crane (g := onLink c fun s k => s.takeTag k r)
        (onLink_of_fitted hc) ((LinkEvent.start s c).takeTag_read hhit.1 hhit.2) (State.takeTag_channels ..)
      exact ⟨t, hnext, fun _ _ => hcrane, fun hother => absurd hother (by tauto), hcranes, hrest⟩
    · obtain ⟨t, hnext, hcrane, hcranes, hrest⟩ := handle_linkEvent_crane (g := onLink c fun s k => s.takeTag k r)
        (onLink_of_fitted hc) ((LinkEvent.start s c).takeTag_other (by tauto)) (State.takeTag_channels ..)
      exact ⟨t, hnext, fun hstep hread => absurd ⟨hstep, hread⟩ hhit, fun _ => hcrane, hcranes, hrest⟩
  · intro c s k hc hshort
    exact handle_linkEvent_crane (g := onLink c State.countBad) (onLink_of_fitted hc)
      ((LinkEvent.start s c).countBad hshort) (State.countBad_channels hshort)
  · intro c r g s hc cmd hcmd
    simp only [List.mem_cons, List.not_mem_nil, or_false] at hcmd
    rcases hcmd with rfl | rfl | rfl | rfl
    · exact handle_onLink_of_unfitted hc _
    · exact handle_onLink_of_unfitted hc _
    · exact handle_onLink_of_unfitted hc _
    · exact handle_onLink_of_unfitted hc _

end Sys2Proof.Machine
end

section
/-! PROOF. The parts of a STATUS: the values taken, the lock, the report to RU, the hook sample (R45, R52, R68, R81, R112). -/

namespace Sys2Proof.Machine

variable {s t R : State} {c : Nat} {v : Crane} {h : Channel} {l : List (Nat × StepTelegram)} {r : StatusReport} {p : Port}

/-! ## The values -/

theorem tongOf_eq (code : BitVec 8) :
    tongOf code.toNat = if code = 0 then .open_ else if code = 1 then .closedEmpty else .closedLoaded := by
  have hzero : code.toNat = 0 ↔ code = 0 := ⟨fun h => BitVec.eq_of_toNat_eq h, fun h => h ▸ rfl⟩
  have hone : code.toNat = 1 ↔ code = 1 := ⟨fun h => BitVec.eq_of_toNat_eq h, fun h => h ▸ rfl⟩
  simp only [tongOf, hzero, hone]

theorem Crane.took_eq (k : Crane) (r : StatusReport) :
    k.took r = { k with link := .up, badCount := 0 }.storeWhole r := by
  unfold Crane.took Crane.storeWhole Crane.storeReport
  rw [← tongOf_eq]

/-- The values of a STATUS on a link that is not LOST. -/
theorem LinkEvent.storeWhole (hR : LinkEvent s R c v h l) (hlink : v.link ≠ .lost) :
    LinkEvent s ((R.countGood c).modCrane c fun x => x.storeWhole r) c (v.took r) h l := by
  have hstored := hR.countGood.modCrane fun x => x.storeWhole r
  rwa [Crane.good, if_neg hlink, ← Crane.took_eq] at hstored

/-! ## Position lock (R52) -/

theorem LinkEvent.judgeLock_hit (hR : LinkEvent s R c v h l) (hlock : v.lock = .locked)
    (hhit : v.lockDistance ≤ s.runway.lockWindow) :
    LinkEvent s (R.judgeLock c) c { v with missCount := 0 } h l := by
  have hjudge : R.judgeLock c = R.modCrane c fun x => { x with missCount := 0 } := by
    simp only [State.judgeLock, hR.crane, hlock, hR.runway, hhit, decide_true]
  rw [hjudge]
  exact hR.modCrane _

/-! ## The report to RU (R68, R69, R81) -/

/-- A crane in no leg, narrowed and off the breach lists, near which no extent is closed anew: its report changes nothing. -/
theorem State.reportRU_of_rest {loadedBefore wasHeld : Bool} (hleg : (s.crane c).leg = none)
    (hnarrow : (s.crane c).narrowDue = false) (hbreach : ∀ b < 3, c ∉ (s.bay b).breach)
    (hloaded : (s.crane c).wholeTong = .closedLoaded → loadedBefore = true ∨ s.closedBays = []) :
    s.reportRU c loadedBefore wasHeld = s := by
  have htrailed : (s.crane c).trailed s.runway.margin = (s.crane c).grant := by rw [Crane.trailed, hleg]; rfl
  have hshrink : s.shrink c = s := by rw [State.shrink, htrailed]; exact if_pos rfl
  have hnarrows : (s.crane c).narrows = false := by rw [Crane.narrows, hnarrow]; simp
  have hnarrowed : s.narrow c = s := by rw [State.narrow, hnarrows]; rfl
  have htest (b : Nat) (hb : b < 3) : s.breachTest c b = s := by
    rw [State.breachTest, if_pos]
    simpa using hbreach b hb
  have hnear : (if (s.crane c).lock = .locked ∧ !(s.crane c).heldWide then (if wasHeld then s else s.shrink c).narrow c
      else s) = s := by
    rw [hshrink, ite_self, hnarrowed, ite_self]
  have htests : [0, 1, 2].foldl (fun s b => s.breachTest c b) s = s := by
    simp only [List.foldl_cons, List.foldl_nil, htest 0 (by decide), htest 1 (by decide), htest 2 (by decide)]
  unfold State.reportRU
  dsimp only
  rw [hnear, htests]
  by_cases hnew : ((s.crane c).loaded && !loadedBefore) = true
  · rw [if_pos hnew, State.closureTests]
    obtain ⟨hload, hbefore⟩ := Bool.and_eq_true_iff.mp hnew
    have htong : (s.crane c).wholeTong = .closedLoaded := beq_iff_eq.mp hload
    rcases hloaded htong with hold | hopen
    · rw [hold] at hbefore
      cases hbefore
    · rw [hopen, List.foldl_nil]
  · rw [if_neg hnew]

/-! ## The hook sample (R112, R113, R128) -/

/-- The hook channel after a sample that is not eligible, outside a session and without a zero set. -/
def State.sampledAt (s : State) (k : Nat) : State :=
  let u := s.sampleArrives k false
  if (u.inService && (u.channel k).configured && !(u.channel k).fault) = true then
    u.modChannel k fun x => { x with batchSet := none }
  else u

theorem State.outsideSession_of_ineligible {k : Nat} {count : Int} (hzero : (s.channel k).zeroSet = none) :
    (s.sampleArrives k false).outsideSession k count false = s.sampledAt k := by
  have hzero' : ((s.sampleArrives k false).channel k).zeroSet = none := by
    rw [State.sampleArrives, State.modChannel, State.channel_setChannel_self]
    exact hzero
  unfold State.outsideSession State.sampledAt
  rw [hzero']
  unfold State.track
  dsimp only
  split_ifs <;> first | rfl | simp_all

theorem State.hookSample_of_unweighed {k : Nat} {count : Int} (hsession : (s.channel k).session = none)
    (hzero : (s.channel k).zeroSet = none) (heligible : s.hookEligible k = false) :
    s.hookSample k count = s.sampledAt k := by
  unfold State.hookSample
  dsimp only
  rw [heligible, hsession, State.outsideSession_of_ineligible hzero]

theorem State.sampledAt_ported (s : State) (p : Port) (k : Nat) :
    (s.ported p).sampledAt k = (s.sampledAt k).ported p := by
  have harrives : (s.ported p).sampleArrives k false = (s.sampleArrives k false).ported p := rfl
  unfold State.sampledAt
  rw [harrives]
  dsimp only
  rw [apply_ite (State.ported · p)]
  rfl

theorem LinkEvent.sampledAt (hR : LinkEvent s R c v h l) : LinkEvent s (R.sampledAt c) c v (h.sampled s.inService) l := by
  have harrives := hR.modChannel fun x => { x with data := true, expiryRunning := true, lastEligible := false }
  have hservice : (R.sampleArrives c false).inService = s.inService := harrives.inService
  have hchannel : (R.sampleArrives c false).channel c =
      { h with data := true, expiryRunning := true, lastEligible := false } := harrives.channel
  unfold State.sampledAt
  dsimp only
  rw [hservice, hchannel]
  by_cases hdrop : (s.inService && h.configured && !h.fault) = true
  · rw [if_pos hdrop]
    have hdropped := harrives.modChannel fun x => { x with batchSet := none }
    have hbatch : s.inService = true ∧ h.configured = true ∧ h.fault = false := by
      simpa [and_assoc] using hdrop
    rw [Channel.sampled, if_pos hbatch]
    exact hdropped
  · rw [if_neg hdrop]
    have hbatch : ¬(s.inService = true ∧ h.configured = true ∧ h.fault = false) := by
      simpa [and_assoc] using hdrop
    rw [Channel.sampled, if_neg hbatch]
    exact harrives

/-! ## A report with nothing to complete, fault or narrow (R45) -/

theorem State.testDone_of_noStep (hstep : (s.crane c).step = none) : s.testDone c = s := by
  unfold State.testDone
  dsimp only
  rw [hstep]

theorem State.testFaults_of_sound {grant : Span} (hstate : (s.crane c).state ≠ .fault) (hcode : (s.crane c).faultCode = 0)
    (hinside : s.overruns c grant = false) : s.testFaults c grant = s := by
  have hdrive : s.testDrive c = s := by
    unfold State.testDrive
    dsimp only
    rw [if_neg hstate, if_neg (by omega)]
  unfold State.testFaults
  dsimp only
  rw [hdrive, hinside, if_neg (by simp)]

theorem State.overruns_eq_false {grant : Span}
    (hlo : grant.lo ≤ (s.crane c).xLaser + s.runway.lockWindow)
    (hhi : ((s.crane c).xLaser : Int) ≤ grant.hi + s.runway.lockWindow) : s.overruns c grant = false := by
  unfold State.overruns
  dsimp only
  rw [decide_eq_false (by omega), Bool.and_false]

theorem State.takeStatus_of_linked (hlink : (s.crane c).link ≠ .lost) :
    s.takeStatus c r = ((s.countGood c).modCrane c fun x => x.storeWhole r).takeWhole c false (s.crane c) := by
  unfold State.takeStatus
  dsimp only
  rw [if_neg hlink]

theorem LinkEvent.hookEligible (hR : LinkEvent s R c v h l) :
    R.hookEligible c = true ↔
      s.inService = true ∧ v.state = .idle ∧ v.tong = .open_ ∧ s.runway.clearHeight ≤ v.hook := by
  unfold State.hookEligible
  dsimp only
  rw [hR.inService, hR.crane, hR.runway]
  simp only [Bool.and_eq_true, beq_iff_eq, decide_eq_true_eq, and_assoc]

/-- A crane is at rest for RU: in no leg, not to be narrowed, in no breach list, and no extent is closed to its load anew. -/
structure AtRest (s : State) (c : Nat) (v : Crane) (loadedBefore : Bool) : Prop where
  leg : v.leg = none
  narrowed : v.narrowDue = false
  breach : ∀ b < 3, c ∉ (s.bay b).breach
  loaded : v.wholeTong = .closedLoaded → loadedBefore = true ∨ s.closedBays = []

theorem LinkEvent.closedBays (hR : LinkEvent s R c v h l) : R.closedBays = s.closedBays := by
  have hclosed : R.closed = s.closed := by
    funext b
    rw [State.closed, hR.bay, State.closed]
  rw [State.closedBays, hclosed, State.closedBays]

theorem LinkEvent.reportRU (hR : LinkEvent s R c v h l) {loadedBefore wasHeld : Bool} (hrest : AtRest s c v loadedBefore) :
    (R.ported p).reportRU c loadedBefore wasHeld = R.ported p := by
  have hcrane : (R.ported p).crane c = v := hR.crane
  refine State.reportRU_of_rest (by rw [hcrane]; exact hrest.leg) (by rw [hcrane]; exact hrest.narrowed) (fun b hb => ?_)
    (fun htong => ?_)
  · rw [State.bay_ported, hR.bay]
    exact hrest.breach b hb
  · rw [hcrane] at htong
    exact (hrest.loaded htong).imp_right fun hopen => hR.closedBays.trans hopen

/-- The end of a report: RU finds the crane at rest, and the hook sample is not eligible. -/
def State.endReport (s : State) (c : Nat) : State := (s.sampledAt c).touch (Group.crane c)

theorem LinkEvent.endReport (hR : LinkEvent s R c v h l) :
    LinkEvent s (R.endReport c) c v (h.sampled s.inService) l := hR.sampledAt.touch _

theorem State.endReport_ported (s : State) (p : Port) (c : Nat) :
    (s.ported p).endReport c = (s.endReport c).ported p := by
  rw [State.endReport, State.sampledAt_ported, State.touch_ported, State.endReport]

/-- The sample of this report finds the channel in no session and no zero set, the crane not standing open and high. -/
structure Unsampled (s : State) (v : Crane) (h : Channel) : Prop where
  session : h.session = none
  zeroSet : h.zeroSet = none
  ineligible : ¬(s.inService = true ∧ v.state = .idle ∧ v.tong = .open_ ∧ s.runway.clearHeight ≤ v.hook)

/-- Steps 5 and 6 of R45. -/
def State.finishReport (s : State) (c : Nat) (loadedBefore wasHeld : Bool) : State :=
  let s := s.testDone c
  let s := if s.inService then s.reportRU c loadedBefore wasHeld else s
  (s.hookSample c (s.crane c).load).touch (Group.crane c)

/-- The end of the report of a crane at rest without a step. -/
theorem LinkEvent.finishReport (hR : LinkEvent s R c v h l) {loadedBefore wasHeld : Bool}
    (hrest : s.inService = true → AtRest s c v loadedBefore) (hstep : v.step = none) (hsample : Unsampled s v h) :
    (R.ported p).finishReport c loadedBefore wasHeld = (R.endReport c).ported p := by
  have hcrane : (R.ported p).crane c = v := hR.crane
  have hchannel : (R.ported p).channel c = h := hR.channel
  have hservice : (R.ported p).inService = s.inService := hR.inService
  have hdone : (R.ported p).testDone c = R.ported p := State.testDone_of_noStep (by rw [hcrane]; exact hstep)
  have hreport : (if (R.ported p).inService then (R.ported p).reportRU c loadedBefore wasHeld else R.ported p) =
      R.ported p := by
    by_cases hin : (R.ported p).inService = true
    · rw [if_pos hin, hR.reportRU (hrest (hservice ▸ hin))]
    · rw [if_neg hin]
  have hsampled : (R.ported p).hookSample c ((R.ported p).crane c).load = (R.ported p).sampledAt c :=
    State.hookSample_of_unweighed (by rw [hchannel]; exact hsample.session) (by rw [hchannel]; exact hsample.zeroSet)
      (Bool.eq_false_iff.mpr fun helig => hsample.ineligible (hR.hookEligible.mp helig))
  unfold State.finishReport
  dsimp only
  rw [hdone, hreport, hsampled, ← State.endReport_ported]
  rfl

theorem State.takeWhole_eq (s : State) (c : Nat) (before : Crane) :
    s.takeWhole c false before = (let u := s.judgeLock c
      if u.inService then u.testFaults c before.grant else u).finishReport c before.loaded before.heldWide := by
  unfold State.takeWhole State.finishReport
  simp only [Bool.not_false, Bool.and_true, Bool.and_false, Bool.false_eq_true, if_false]

/-- A report that finds nothing faulty in service leaves step 4 of R45 without effect. -/
theorem LinkEvent.testFaults_sound (hR : LinkEvent s R c v h l) {grant : Span} (hstate : v.state ≠ .fault)
    (hcode : v.faultCode = 0) (hlo : grant.lo ≤ v.xLaser + s.runway.lockWindow)
    (hhi : (v.xLaser : Int) ≤ grant.hi + s.runway.lockWindow) :
    (R.ported p).testFaults c grant = R.ported p := by
  have hcrane : (R.ported p).crane c = v := hR.crane
  have hrunway : (R.ported p).runway = s.runway := hR.runway
  refine State.testFaults_of_sound (by rw [hcrane]; exact hstate) (by rw [hcrane]; exact hcode)
    (State.overruns_eq_false ?_ ?_) <;> rw [hcrane, hrunway] <;> assumption

theorem LinkEvent.finishReport_unported (hR : LinkEvent s R c v h l) {loadedBefore wasHeld : Bool}
    (hrest : s.inService = true → AtRest s c v loadedBefore) (hstep : v.step = none) (hsample : Unsampled s v h) :
    R.finishReport c loadedBefore wasHeld = R.endReport c := by
  have hfinish := hR.finishReport (p := R.port) (wasHeld := wasHeld) hrest hstep hsample
  have hport : R.port = (R.endReport c).port := hR.port.trans hR.endReport.port.symm
  rw [State.ported_port, hport, State.ported_port] at hfinish
  exact hfinish

theorem LinkEvent.testFaults_unported (hR : LinkEvent s R c v h l) {grant : Span} (hstate : v.state ≠ .fault)
    (hcode : v.faultCode = 0) (hlo : grant.lo ≤ v.xLaser + s.runway.lockWindow)
    (hhi : (v.xLaser : Int) ≤ grant.hi + s.runway.lockWindow) : R.testFaults c grant = R := by
  have hfaults := hR.testFaults_sound (p := R.port) hstate hcode hlo hhi
  rwa [State.ported_port] at hfaults

/-- A report taken writes the crane's directory group (R196). -/
theorem shows_craneGroup {g : State → State} {k : Fin 4} (hnext : handle g s = .next t)
    (hg : g s.begin = (R.endReport k).ported p) (hmode : R.mode ≠ .resetting) :
    t.readBytes (0x41 + 32 * k.val) 30 = groupBody t (3 + k.val) := by
  have hgroup := handle_shows_group (g := 3 + k.val) hnext hg (fun hreset => hmode ?_) ?_ (by omega) (by omega)
  · obtain ⟨hoffset, hsize⟩ := groupOffset_crane k.isLt
    rw [hoffset, hsize] at hgroup
    rwa [show 0x41 + 32 * k.val = 0x40 + 32 * k.val + 1 by omega]
  · have hsame : (R.endReport k).mode = R.mode := by
      unfold State.endReport State.sampledAt
      dsimp only
      split_ifs <;> rfl
    exact hsame.symm.trans hreset
  · exact Touched.mem_group _ (Group.crane k)

/-! ## STATUS, its values stored -/

theorem Crane.took_lockDistance_le {k : Crane} {w : Nat} (hx : (k.took r).xLaser ≤ (k.took r).xEncoder + w)
    (he : (k.took r).xEncoder ≤ (k.took r).xLaser + w) : (k.took r).lockDistance ≤ w := by
  unfold Crane.lockDistance absDiff
  omega

/-- Settles O28: nothing but the values, the misses and the channel's data changes. -/
theorem statusStoresItsValues : Obligations.StatusStoresItsValues := by
  intro c r s k h x e hook tong serving hc hlink hlock hxe hex hstep hsession hzero hmode
  have hjudged := ((LinkEvent.start s c).storeWhole (r := r) hlink).judgeLock_hit hlock
    (Crane.took_lockDistance_le hxe hex)
  have hserving : s.inService = true → serving ∧ k.state ≠ .fault ∧ r.faultCode = 0 ∧
      k.grant.lo ≤ x + s.runway.lockWindow ∧ (x : Int) ≤ k.grant.hi + s.runway.lockWindow ∧ k.leg = none ∧
      k.narrowDue = false ∧ (∀ b < 3, c.val ∉ (s.bay b).breach) ∧ (tong = .closedLoaded → k.wholeTong = .closedLoaded) ∧
      ¬(k.state = .idle ∧ tong = .open_ ∧ s.runway.clearHeight ≤ hook) := fun hin => by
    rcases hmode with hsetup | hrest
    · rw [State.inService, hsetup] at hin
      cases hin
    · exact hrest
  have htaken : onLink c (fun s k => s.takeStatus k r) s.begin =
      (((s.begin.countGood c).modCrane c fun x => x.storeWhole r).judgeLock c).endReport c := by
    rw [onLink_of_fitted hc, State.takeStatus_of_linked (s := s.begin) hlink, State.takeWhole_eq]
    have hfaults : (let u := ((s.begin.countGood c).modCrane c fun x => x.storeWhole r).judgeLock c
        if u.inService then u.testFaults c (s.begin.crane c).grant else u) =
        ((s.begin.countGood c).modCrane c fun x => x.storeWhole r).judgeLock c := by
      dsimp only
      split_ifs with hin
      · obtain ⟨-, hstate, hcode, hlo, hhi, -⟩ := hserving (hjudged.inService ▸ hin)
        exact hjudged.testFaults_unported hstate (congrArg BitVec.toNat hcode) hlo hhi
      · rfl
    rw [hfaults]
    refine hjudged.finishReport_unported (fun hin => ?_) hstep ⟨hsession, hzero, ?_⟩
    · obtain ⟨-, -, -, -, -, hleg, hnarrow, hbreach, hloaded, -⟩ := hserving hin
      exact ⟨hleg, hnarrow, hbreach, fun htong => .inl (beq_iff_eq.mpr (hloaded htong))⟩
    · rintro ⟨hin, hrest⟩
      obtain ⟨-, -, -, -, -, -, -, -, -, hineligible⟩ := hserving hin
      exact hineligible hrest
  obtain ⟨t, hnext, hcrane, hcranes, hchannel, hchannels, hsent, -, hrecords, hunsent, hflags, honly⟩ :=
    handle_linkEvent htaken hjudged.endReport
  refine ⟨t, hnext, hcrane, hcranes, ?_, hchannels, ?_, hflags, honly, ?_⟩
  · rw [hchannel, Channel.sampled]
    simp only [State.inService_iff]
    rfl
  · rw [hrecords, hsent, hunsent rfl]
  · have hport : (((s.begin.countGood c).modCrane c fun x => x.storeWhole r).judgeLock c).endReport c =
        ((((s.begin.countGood c).modCrane c fun x => x.storeWhole r).judgeLock c).endReport c).ported s.port := by
      rw [← hjudged.endReport.port, State.ported_port]
    refine shows_craneGroup hnext (htaken.trans hport) ?_
    rw [hjudged.mode]
    rcases hmode with hsetup | ⟨hrun | hhalted, -⟩
    · rw [hsetup]; decide
    · rw [hrun]; decide
    · rw [hhalted]; decide

end Sys2Proof.Machine
end

section
/-! PROOF. A crane's FAULT and its end, the widening and the hold of its grant, while the runway is at rest (R50, R58, R75 to R77). -/

namespace Sys2Proof.Machine

variable {s t R : State} {c : Nat} {v : Crane} {h : Channel} {l : List (Nat × StepTelegram)} {r : StatusReport} {p : Port}
  {es : List JournalEntry} {notices : BitVec 10} {n : Nat}

/-! ## The room and the widened grant (R62, R75) -/

theorem LinkEvent.roomOf (hR : LinkEvent s R c v h l) (hwidth : v.halfWidth = (s.crane c).halfWidth) :
    R.roomOf c = s.roomOf c := by
  have hwidths (j : Nat) : (R.crane j).halfWidth = (s.crane j).halfWidth := by
    by_cases hj : j = c
    · rw [hj, hR.crane, hwidth]
    · rw [hR.cranes j hj]
  have hclear (i j : Nat) : R.clearance i j = s.clearance i j := by
    rw [State.clearance, hwidths, hwidths, hR.runway, State.clearance]
  have hspan : R.runSpan = s.runSpan := by rw [State.runSpan, hR.runway, State.runSpan]
  have hfitted : R.fitted (c + 1) = s.fitted (c + 1) := by rw [State.fitted, hR.straps, State.fitted]
  have heast : R.crane (c + 1) = s.crane (c + 1) := hR.cranes _ (Nat.succ_ne_self c)
  have hwest (hc : 0 < c) : R.crane (c - 1) = s.crane (c - 1) := hR.cranes _ (by omega)
  unfold State.roomOf
  rw [hspan, hfitted, heast, hclear, hclear]
  by_cases hc : 0 < c
  · rw [if_pos hc, if_pos hc, hwest hc]
  · rw [if_neg hc, if_neg hc]

/-- A span within the runway that keeps clear of the neighbours' grants lies in the crane's room. -/
theorem State.roomOf_of_hasRoom {g : Span} (hroom : s.hasRoom c g) (hlo : s.runway.lo ≤ g.lo) (hhi : g.hi ≤ s.runway.hi) :
    (s.roomOf c).lo ≤ g.lo ∧ g.hi ≤ (s.roomOf c).hi := by
  obtain ⟨hwest, heast⟩ := hroom
  unfold State.roomOf State.runSpan State.clearance
  constructor
  · dsimp only
    split_ifs with hc
    · exact max_le hlo (hwest hc)
    · exact hlo
  · dsimp only
    split_ifs with hc
    · obtain ⟨h1, h2⟩ := State.fitted_iff_both.mp hc
      have := heast h1 h2
      dsimp only at this
      exact le_min hhi (by omega)
    · exact hhi

theorem Span.meet_of_within {a b : Span} (hlo : b.lo ≤ a.lo) (hhi : a.hi ≤ b.hi) : a.meet b = a := by
  unfold Span.meet
  rw [max_eq_left hlo, min_eq_left hhi]

/-- The crane's load is near no closed extent. -/
def ClearOfBays (s : State) (v : Crane) : Prop := v.wholeTong = .closedLoaded → s.closedBays = []

theorem LinkEvent.closureTests (hR : LinkEvent s R c v h l) (hclear : ClearOfBays s v) :
    (R.ported p).closureTests c = R.ported p := by
  have hclosed : (R.ported p).closedBays = s.closedBays := hR.closedBays
  have hcrane : (R.ported p).crane c = v := hR.crane
  by_cases hload : v.wholeTong = .closedLoaded
  · rw [State.closureTests, hclosed, hclear hload, List.foldl_nil]
  · have htest (b : Nat) : (R.ported p).closureTest c b = R.ported p := by
      have hunloaded : v.loaded = false := beq_eq_false_iff_ne.mpr hload
      unfold State.closureTest
      dsimp only
      rw [hcrane, hunloaded, if_pos (by simp)]
    rw [State.closureTests]
    generalize (R.ported p).closedBays = bays
    induction bays with
    | nil => rfl
    | cons b rest ih => rw [List.foldl_cons, htest, ih]

/-- The crane with its grant widened to `g` and held. -/
def Crane.wide (v : Crane) (g : Span) : Crane := { v with grant := g, heldWide := true, beforeWide := v.grant }

/-- A widening that needs no clipping (R75). -/
theorem LinkEvent.widen (hR : LinkEvent s R c v h l) (hwidth : v.halfWidth = (s.crane c).halfWidth)
    (hheld : v.heldWide = false) (hclear : ClearOfBays s v)
    (hlo : (s.roomOf c).lo ≤ (s.widened v.grant v.positionUsed v.speed).lo)
    (hhi : (s.widened v.grant v.positionUsed v.speed).hi ≤ (s.roomOf c).hi) :
    ∃ R', (R.ported p).widen c = R'.ported p ∧
      LinkEvent s R' c (v.wide (s.widened v.grant v.positionUsed v.speed)) h l ∧ R'.mode = R.mode := by
  have hcrane : (R.ported p).crane c = v := hR.crane
  have hroom : (R.ported p).roomOf c = s.roomOf c := hR.roomOf hwidth
  have hrunway : (R.ported p).runway = s.runway := hR.runway
  have hwant : (v.grant.hull
      { lo := v.positionUsed.lo - ((R.ported p).braking c : Nat) - (s.runway.margin : Nat)
        hi := v.positionUsed.hi + ((R.ported p).braking c : Nat) + (s.runway.margin : Nat) }).meet (R.ported p).runSpan =
      s.widened v.grant v.positionUsed v.speed := by
    unfold State.braking State.runSpan
    rw [hcrane, hrunway]
    rfl
  have hset := hR.setCrane (v.wide (s.widened v.grant v.positionUsed v.speed))
  refine ⟨_, ?_, hset, rfl⟩
  have hclosure := hset.closureTests (p := p) hclear
  unfold State.widen
  dsimp only
  rw [hcrane, hrunway, hwant, hroom, Span.meet_of_within hlo hhi, if_neg (lt_irrefl _), if_neg (lt_irrefl _), hheld]
  exact hclosure

/-! ## A hold ends (R77) -/

/-- The grant at the margin around the laser position. -/
def State.near (s : State) (v : Crane) : Span := Span.around v.xLaser s.runway.margin

theorem Span.limitTo_of_within {a b : Span} (hab : a.lo ≤ a.hi) (hlo : b.lo ≤ a.lo) (hhi : a.hi ≤ b.hi) :
    a.limitTo b = a := by
  unfold Span.limitTo
  rw [max_eq_left hlo, min_eq_left hhi, min_eq_left (hab.trans hhi), max_eq_left (hlo.trans hab)]

/-- The end of the hold of a crane that is in no leg and placed no cause. -/
theorem State.endHold_of_alone (hheld : (s.crane c).heldWide = true) (hleg : (s.crane c).leg = none)
    (hwest : (s.crane c).placedWest = false) (heast : (s.crane c).placedEast = false) :
    s.endHold c = ((s.setCrane c
      { s.crane c with
        grant := ((s.near (s.crane c)).limitTo (s.crane c).grant).limitTo s.runSpan, heldWide := false }).closureTests
          c).scan := by
  unfold State.endHold State.near
  dsimp only
  generalize s.crane c = v at hheld hleg hwest heast ⊢
  cases v
  dsimp only at hheld hleg hwest heast
  subst hheld hleg hwest heast
  rfl

/-- The hold of a crane that placed no cause ends with the grant near it, where that lies in the grant and on the runway. -/
theorem LinkEvent.endHold (hR : LinkEvent s R c v h l) (hs : s.runwayQuiet) (hyield : v.yield = none)
    (hdeferral : v.deferral = none) (hheld : v.heldWide = true) (hleg : v.leg = none) (hwest : v.placedWest = false)
    (heast : v.placedEast = false) (hclear : ClearOfBays s v) (hlo : v.grant.lo ≤ (s.near v).lo)
    (hhi : (s.near v).hi ≤ v.grant.hi) (hrlo : s.runway.lo ≤ (s.near v).lo) (hrhi : (s.near v).hi ≤ s.runway.hi) :
    ∃ R', (R.ported p).endHold c = R'.ported p ∧
      LinkEvent s R' c { v with grant := s.near v, heldWide := false } h l ∧ R'.mode = R.mode := by
  have hcrane : (R.ported p).crane c = v := hR.crane
  have hrunway : (R.ported p).runway = s.runway := hR.runway
  have hnear : (s.near v).lo ≤ (s.near v).hi := by
    unfold State.near Span.around
    dsimp only
    omega
  have hgrant : ((s.near v).limitTo v.grant).limitTo (R.ported p).runSpan = s.near v := by
    rw [State.runSpan, hrunway, Span.limitTo_of_within hnear hlo hhi]
    exact Span.limitTo_of_within hnear hrlo hrhi
  have hset := hR.setCrane { v with grant := s.near v, heldWide := false }
  have hclosure := hset.closureTests (p := p) hclear
  have hscan : ((R.setCrane c { v with grant := s.near v, heldWide := false }).ported p).scan =
      (R.setCrane c { v with grant := s.near v, heldWide := false }).ported p :=
    State.scan_of_quiet ((hset.quiet hs hyield hdeferral).congr rfl rfl fun _ => ⟨rfl, rfl⟩)
  have hfold : (R.ported p).near v = s.near v := by rw [State.near, hrunway, State.near]
  refine ⟨_, ?_, hset, rfl⟩
  rw [State.endHold_of_alone (by rw [hcrane]; exact hheld) (by rw [hcrane]; exact hleg) (by rw [hcrane]; exact hwest)
    (by rw [hcrane]; exact heast), hcrane, hfold, hgrant, State.setCrane_ported, hclosure, hscan]

end Sys2Proof.Machine
end

section
/-! PROOF. A crane's FAULT, its end, and its lost link, in SETUP and in service (R49, R50, R58, R75, R113). -/

namespace Sys2Proof.Machine

variable {s t R : State} {c : Nat} {v : Crane} {h : Channel} {l : List (Nat × StepTelegram)} {p : Port}
  {es : List JournalEntry} {notices : BitVec 10} {n : Nat} {w : Nat → Bool}

/-! ## CU's acts on a crane without a step, a move or a zero set (R44, R58, R101, R132) -/

theorem State.sendStop_of_noStep {now : Bool} (hstep : (s.crane c).step = none) :
    s.sendStop c now = s.send c (.stop (s.crane c).lastSeq now) := by
  unfold State.sendStop Crane.currentNumber
  dsimp only
  rw [hstep, if_neg (by simp)]

theorem State.dropZeroSet_of_none {k : Nat} (hzero : (s.channel k).zeroSet = none) : s.dropZeroSet k = s := by
  unfold State.dropZeroSet
  rw [hzero]

theorem State.setCraneState_of_noZeroSet {st : CraneState} (hzero : (s.channel c).zeroSet = none) :
    s.setCraneState c st = s.modCrane c fun k => { k with state := st } := by
  unfold State.setCraneState
  dsimp only
  rw [State.dropZeroSet_of_none (s := s.modCrane c fun k => { k with state := st }) hzero, ite_self]

theorem State.currentMove_of_empty (hqueue : (s.crane c).queue = []) : s.currentMove c = none := by
  rw [State.currentMove, hqueue]

theorem State.failMove_of_empty {r : Reason} (hqueue : (s.crane c).queue = []) : s.failMove c r = s := by
  rw [State.failMove, State.currentMove_of_empty hqueue]

theorem State.hookLinkLost_of_noSession (hsession : (s.channel c).session = none) : s.hookLinkLost c = s := by
  rw [State.hookLinkLost, hsession]
  rfl

theorem LinkEvent.quiet_ported (hR : LinkEvent s R c v h l) (hs : s.runwayQuiet) (hyield : v.yield = none)
    (hdeferral : v.deferral = none) : (R.ported p).runwayQuiet :=
  (hR.quiet hs hyield hdeferral).congr rfl rfl fun _ => ⟨rfl, rfl⟩

/-! ## A FAULT (R58) -/

/-- A crane that enters FAULT, its grant not yet widened. -/
def Crane.faulted (v : Crane) (r : Reason) : Crane :=
  { v with
    reason := r, state := .fault, step := none, givenUp := .no, waiting := none, leg := none, narrowDue := false
    yield := none, deferral := none }

theorem Crane.faulted_eq {r : Reason} (hstep : v.step = none) (hyield : v.yield = none) (hdeferral : v.deferral = none) :
    v.faulted r =
      { v with reason := r, state := .fault, givenUp := .no, waiting := none, leg := none, narrowDue := false } := by
  unfold Crane.faulted
  cases v
  dsimp only at hstep hyield hdeferral
  subst hstep hyield hdeferral
  rfl

/-- A crane without a move, a step or a zero set enters FAULT, its widened grant needing no clipping. -/
theorem LinkEvent.enterFault (hR : LinkEvent s R c v h l) (heffect : Effect s (R.ported p) es notices w)
    (hs : s.runwayQuiet) (hyield : v.yield = none) (hdeferral : v.deferral = none) (hstep : v.step = none)
    (hqueue : v.queue = []) (hzero : h.zeroSet = none) (hheld : v.heldWide = false)
    (hwidth : v.halfWidth = (s.crane c).halfWidth) (hclear : ClearOfBays s v)
    (hlo : (s.roomOf c).lo ≤ (s.widened v.grant v.positionUsed v.speed).lo)
    (hhi : (s.widened v.grant v.positionUsed v.speed).hi ≤ (s.roomOf c).hi)
    (htakes : s.journalTakes (es.length + (n + 1)) = true) (r : Reason) (code : Nat) :
    ∃ R' q, (R.ported p).enterFault c r code = R'.ported q ∧
      LinkEvent s R' c ((v.faulted r).wide (s.widened v.grant v.positionUsed v.speed)) h
        (l ++ [(c, .stop v.lastSeq true)]) ∧
      Effect s (R'.ported q) (es ++ [craneStateEntry c 5 r.code code])
        (notices ||| Notice.crane.mask ||| Notice.entry.mask) w := by
  have hstopped : (R.ported p).sendStop c true = (R.send c (.stop v.lastSeq true)).ported p := by
    rw [State.sendStop_of_noStep (by rw [State.crane_ported, hR.crane]; exact hstep), State.crane_ported, hR.crane,
      State.send_ported]
  have hevent := (hR.send (.stop v.lastSeq true)).modCrane fun k => { k with reason := r }
  have hstate : (((R.send c (.stop v.lastSeq true)).modCrane c fun k => { k with reason := r }).ported p).setCraneState c
      .fault = (((R.send c (.stop v.lastSeq true)).modCrane c fun k => { k with reason := r }).modCrane c
        fun k => { k with state := .fault }).ported p := by
    rw [State.setCraneState_of_noZeroSet (by rw [State.channel_ported, hevent.channel]; exact hzero), State.modCrane_ported]
  have hcleared := (hevent.modCrane fun k => { k with state := .fault }).modCrane
    fun k => { k with step := none, givenUp := .no, waiting := none }
  have hdropped := hcleared.modCrane fun k =>
    { k with leg := none, narrowDue := false, yield := none, deferral := none }
  have hfaulted : LinkEvent s _ c (v.faulted r) h _ := hdropped
  obtain ⟨R', hwiden, hR', hmode⟩ := hfaulted.widen (p := p) hwidth hheld hclear hlo hhi
  obtain ⟨q, hq, heffect'⟩ := (heffect.records_changed (hR'.mode.trans hR.mode.symm)).craneEntry htakes c 5 r.code code
  refine ⟨R', q, ?_, hR', heffect'⟩
  unfold State.enterFault
  dsimp only
  rw [hstopped, State.modCrane_ported, hstate, State.clearStep, State.modCrane_ported, State.dropLeg,
    State.requestLeft_of_quiet (hcleared.quiet_ported hs hyield hdeferral), State.modCrane_ported,
    State.failMove_of_empty (by rw [State.crane_ported, hdropped.crane]; exact hqueue), hwiden, hq]
  exact State.afterCU_of_quiet (hR'.quiet_ported hs rfl rfl) _

/-! ## The end of a FAULT (R58, R77) -/

/-- The hold of a crane that placed no cause may end: the grant near it lies in its grant and on the runway. -/
structure HoldEnds (s : State) (v : Crane) : Prop where
  yield : v.yield = none
  deferral : v.deferral = none
  held : v.heldWide = true
  leg : v.leg = none
  west : v.placedWest = false
  east : v.placedEast = false
  clear : ClearOfBays s v
  lo : v.grant.lo ≤ (s.near v).lo
  hi : (s.near v).hi ≤ v.grant.hi
  runwayLo : s.runway.lo ≤ (s.near v).lo
  runwayHi : (s.near v).hi ≤ s.runway.hi

theorem LinkEvent.releaseHold (hR : LinkEvent s R c v h l) (hs : s.runwayQuiet) (hend : HoldEnds s v) :
    ∃ R', (R.ported p).endHold c = R'.ported p ∧
      LinkEvent s R' c { v with grant := s.near v, heldWide := false } h l ∧ R'.mode = R.mode :=
  hR.endHold hs hend.yield hend.deferral hend.held hend.leg hend.west hend.east hend.clear hend.lo hend.hi hend.runwayLo
    hend.runwayHi

theorem LinkEvent.leaveFault (hR : LinkEvent s R c v h l) (heffect : Effect s (R.ported p) es notices w)
    (hs : s.runwayQuiet) (hzero : h.zeroSet = none) (hlock : v.lock = .locked) (hend : HoldEnds s v)
    (htakes : s.journalTakes (es.length + (n + 1)) = true) :
    ∃ R' q, (R.ported p).leaveFault c = R'.ported q ∧
      LinkEvent s R' c { v with state := .out, grant := s.near v, heldWide := false } h l ∧
      Effect s (R'.ported q) (es ++ [craneStateEntry c 6 0 0]) (notices ||| Notice.crane.mask ||| Notice.entry.mask) w := by
  have hstate : (R.ported p).setCraneState c .out = (R.modCrane c fun k => { k with state := .out }).ported p := by
    rw [State.setCraneState_of_noZeroSet (by rw [State.channel_ported, hR.channel]; exact hzero), State.modCrane_ported]
  have hout := hR.modCrane fun k => { k with state := .out }
  obtain ⟨q, hq, heffect'⟩ := (heffect.records_changed (hout.mode.trans hR.mode.symm)).craneEntry htakes c 6 0 0
  obtain ⟨R', hendHold, hR', hmode⟩ := hout.releaseHold (p := q) hs
    ⟨hend.yield, hend.deferral, hend.held, hend.leg, hend.west, hend.east, hend.clear, hend.lo, hend.hi, hend.runwayLo,
      hend.runwayHi⟩
  refine ⟨R', q, ?_, hR', heffect'.records_changed hmode⟩
  unfold State.leaveFault
  dsimp only
  rw [hstate, hq, State.crane_ported, hout.crane, if_pos hlock]
  exact hendHold

/-! ## A lost link (R49, R50, R113) -/

/-- The crane of a lost link. -/
def Crane.unlinked (v : Crane) : Crane := { v with link := .lost, recoveryCount := 0 }

/-- The channel of a lost link. -/
def Channel.cleared (h : Channel) : Channel := { h with data := false, batchSet := none }

/-- The first part of the loss of a link: the crane, the entry, the channel's data. -/
def State.unlink (s : State) (c : Nat) : State :=
  (((s.modCrane c Crane.unlinked).craneEntry c 1).hookLinkLost c).clearData c

theorem State.loseLink_eq (s : State) (c : Nat) :
    s.loseLink c = (let u := s.unlink c
      if u.inService then
        if (u.crane c).state = .fault then ((u.sendStop c true).modCrane c fun x => { x with reason := .link }).widen c
        else u.enterFault c .link 0
      else u) := rfl

theorem LinkEvent.unlink (hR : LinkEvent s R c v h l) (heffect : Effect s (R.ported p) es notices w)
    (hsession : h.session = none) (hzero : h.zeroSet = none) (htakes : s.journalTakes (es.length + (n + 1)) = true) :
    ∃ R' q, (R.ported p).unlink c = R'.ported q ∧ LinkEvent s R' c v.unlinked h.cleared l ∧
      Effect s (R'.ported q) (es ++ [craneStateEntry c 1 0 0]) (notices ||| Notice.crane.mask ||| Notice.entry.mask) w := by
  have hunlinked := hR.modCrane Crane.unlinked
  have hcleared := hunlinked.modChannel Channel.cleared
  obtain ⟨q, hq, heffect'⟩ := (heffect.records_changed (hunlinked.mode.trans hR.mode.symm)).craneEntry htakes c 1 0 0
  refine ⟨(R.modCrane c Crane.unlinked).modChannel c Channel.cleared, q, ?_, hcleared,
    heffect'.records_changed (hcleared.mode.trans hunlinked.mode.symm)⟩
  have hclear : ((R.modCrane c Crane.unlinked).ported q).clearData c =
      (((R.modCrane c Crane.unlinked).modChannel c Channel.cleared).ported q).dropZeroSet c := rfl
  rw [State.unlink, State.modCrane_ported, hq,
    State.hookLinkLost_of_noSession (by rw [State.channel_ported, hunlinked.channel]; exact hsession), hclear,
    State.dropZeroSet_of_none (by rw [State.channel_ported, hcleared.channel]; exact hzero)]

theorem State.journalTakes_mono {m : Nat} (hs : s.journalTakes n = true) (hm : m ≤ n) : s.journalTakes m = true := by
  obtain ⟨hheld, hroom, hmode, hcount⟩ := State.journalTakes_iff.mp hs
  exact State.journalTakes_iff.mpr ⟨hheld, by omega, hmode, hcount⟩

theorem shownNotices (s : State) :
    s.flags ||| (0 ||| Notice.crane.mask ||| Notice.entry.mask) = s.flags ||| Notice.crane.mask ||| Notice.entry.mask := by
  rw [show (0 ||| Notice.crane.mask ||| Notice.entry.mask : BitVec 10) = Notice.crane.mask ||| Notice.entry.mask by decide,
    BitVec.or_assoc]

theorem shownNoticesTwice (s : State) :
    s.flags ||| (0 ||| Notice.crane.mask ||| Notice.entry.mask ||| Notice.crane.mask ||| Notice.entry.mask) =
      s.flags ||| Notice.crane.mask ||| Notice.entry.mask := by
  rw [show (0 ||| Notice.crane.mask ||| Notice.entry.mask ||| Notice.crane.mask ||| Notice.entry.mask : BitVec 10) =
    Notice.crane.mask ||| Notice.entry.mask by decide, BitVec.or_assoc]

/-- A link lost in SETUP by an event that brings its crane to `v`. -/
theorem LinkEvent.loseLink_setup {g : State → State} (hR : LinkEvent s R c v (s.channel c) []) (hg : g s.begin = R.loseLink c)
    (hmode : s.mode = .setup) (hsession : (s.channel c).session = none) (hzero : (s.channel c).zeroSet = none)
    (htakes : s.journalTakes 1 = true) :
    ∃ t, handle g s = .next t ∧ t.crane c = v.unlinked ∧ (∀ j, j ≠ c → t.crane j = s.crane j) ∧
      t.channel c = (s.channel c).cleared ∧ (∀ q, q ≠ c → t.channel q = s.channel q) ∧
      t.records = State.records
        { s with sent := [], cranes := t.cranes, channels := t.channels, writeCount := t.writeCount } ∧
      JournaledInOrder s t [craneStateEntry c 1 0 0] ∧ t.flags = s.flags ||| Notice.crane.mask ||| Notice.entry.mask ∧
      OnlyWrites s t (s.journalPlace 1) := by
  have heffect : Effect s (R.ported s.port) [] 0 fun _ => false := (Effect.start htakes).records_changed hR.mode
  have hport : R.ported s.port = R := by rw [← hR.port, State.ported_port]
  obtain ⟨R', q, hunlink, hR', heffect'⟩ := hR.unlink (n := 0) heffect hsession hzero htakes
  have hrest : R'.inService = false := by rw [hR'.inService, State.inService, hmode]; rfl
  have hlost : g s.begin = R'.ported q := by
    rw [hg, State.loseLink_eq, ← hport, hunlink]
    dsimp only
    rw [State.inService_ported, hrest]
    rfl
  obtain ⟨t, hnext, hcrane, hcranes, hchannel, hchannels, hsent, -, hrecords, hunsent, horder, hflags, honly⟩ :=
    handle_linkEvent_logged hlost hR' heffect' (n := 1) (by simp) htakes
  refine ⟨t, hnext, hcrane, hcranes, hchannel, hchannels, ?_, horder, hflags.trans (shownNotices s), honly⟩
  rw [hrecords, hsent, hunsent rfl]

/-- Settles O33: `unlink` and `enterFault` follow one another. -/
theorem linksAreLost : Obligations.LinksAreLost := by
  refine ⟨⟨?_, ?_⟩, ?_⟩
  · intro bad c s k h hmode hc hlink hbad hsession hzero htakes
    cases bad with
    | true =>
      have hcounted := (LinkEvent.start s c).modCrane fun x => { x with badCount := x.badCount + 1, link := .doubt }
      have hfour := hbad rfl
      have hg : onLink c State.countBad s.begin =
          (s.begin.modCrane c fun x => { x with badCount := x.badCount + 1, link := .doubt }).loseLink c := by
        rw [onLink_of_fitted hc]
        unfold State.countBad
        dsimp only
        rw [if_neg (show (s.begin.crane c).link ≠ .lost from hlink),
          if_pos (show (s.begin.crane c).badCount + 1 = 4 by rw [show (s.begin.crane c).badCount = 3 from hfour])]
      obtain ⟨t, hnext, hcrane, hrest⟩ := hcounted.loseLink_setup hg hmode hsession hzero htakes
      refine ⟨t, hnext, ?_, hrest⟩
      rw [hcrane, Crane.unlinked, show (s.crane c).badCount = 3 from hfour]
      rfl
    | false =>
      have hg : onLink c State.reportExpires s.begin = s.begin.loseLink c := by
        rw [onLink_of_fitted hc, State.reportExpires, if_neg (show (s.begin.crane c).link ≠ .lost from hlink)]
      exact (LinkEvent.start s c).loseLink_setup hg hmode hsession hzero htakes
  · intro c s hc hlink
    have hg : onLink c State.reportExpires s.begin = s.begin.modCrane c fun x => { x with recoveryCount := 0 } := by
      rw [onLink_of_fitted hc, State.reportExpires, if_pos (show (s.begin.crane c).link = .lost from hlink)]
    exact handle_linkEvent_crane hg ((LinkEvent.start s c).modCrane _) rfl
  · intro c s k h u b m want hmode hc hlink hstate hqueue hstep hloaded hheld hlo hhi hs hsession hzero htakes
    obtain ⟨R, q, hunlink, hR, heffect⟩ := (LinkEvent.start s c).unlink (Effect.start (w := fun _ => false) htakes) hsession
      hzero (n := 0) (State.journalTakes_mono htakes (by decide))
    obtain ⟨hyield, hdeferral⟩ := hs.2.2 c
    obtain ⟨R', q', hfault, hR', heffect'⟩ := hR.enterFault heffect hs hyield hdeferral hstep hqueue hzero hheld rfl
      (fun htong => hloaded (.inr htong)) hlo hhi (n := 0) htakes .link 0
    have hg : onLink c State.reportExpires s.begin = R'.ported q' := by
      have hport : s.begin.ported s.port = s.begin := rfl
      have hserving : R.inService = true := by rw [hR.inService]; exact State.inService_iff.mpr hmode
      have hidle : (R.crane c).state ≠ .fault := by
        rw [hR.crane]
        show k.state ≠ .fault
        rw [hstate]
        decide
      rw [onLink_of_fitted hc, State.reportExpires, if_neg (show (s.begin.crane c).link ≠ .lost from hlink),
        State.loseLink_eq, ← hport, hunlink]
      dsimp only
      rw [State.inService_ported, hserving, if_pos rfl, State.crane_ported, if_neg hidle, hfault]
    obtain ⟨t, hnext, hcrane, hcranes, hchannel, hchannels, hsent, htransmitted, hrecords, -, horder, hflags, honly⟩ :=
      handle_linkEvent_logged hg hR' heffect' (n := 2) (by simp) htakes
    refine ⟨t, hnext, ?_, hcranes, hchannel, hchannels, hsent, htransmitted, hrecords, horder,
      hflags.trans (shownNoticesTwice s), honly⟩
    rw [hcrane, Crane.faulted_eq (v := k.unlinked) hstep hyield hdeferral]
    rfl

end Sys2Proof.Machine
end

section
/-! PROOF. A STATUS whose judgement or whose tests change the crane: lock lost and regained, FAULT entered and left, a link
recovered (R45, R51 to R55, R58). -/

namespace Sys2Proof.Machine

variable {s t R : State} {c : Nat} {v : Crane} {h : Channel} {l : List (Nat × StepTelegram)} {r : StatusReport} {p q : Port}
  {es : List JournalEntry} {notices : BitVec 10} {n : Nat} {w : Nat → Bool} {k : Fin 4}

/-! ## The frame of a STATUS -/

/-- A report on a link that is not LOST, its values taken and its lock judged, up to the tests of step 4 (R45). -/
def State.tested (s : State) (c : Nat) (r : StatusReport) : State :=
  let u := ((s.countGood c).modCrane c fun x => x.storeWhole r).judgeLock c
  if u.inService then u.testFaults c (s.crane c).grant else u

/-- A STATUS whose tests leave a crane at rest, in no session and not standing open and high. -/
theorem onLink_takeStatus (hc : k.val ≤ s.straps) (hlink : (s.crane k).link ≠ .lost)
    (htested : s.begin.tested k r = R.ported q) (hR : LinkEvent s R k v h l)
    (hrest : s.inService = true → AtRest s k v (s.crane k).loaded) (hstep : v.step = none) (hsample : Unsampled s v h) :
    onLink k (fun s k => s.takeStatus k r) s.begin = (R.endReport k).ported q := by
  have htakes : s.begin.takeStatus k r =
      (s.begin.tested k r).finishReport k (s.crane k).loaded (s.crane k).heldWide := by
    rw [State.takeStatus_of_linked (s := s.begin) hlink, State.takeWhole_eq]
    rfl
  rw [onLink_of_fitted hc, htakes, htested]
  exact hR.finishReport hrest hstep hsample

theorem State.endReport_mode (s : State) (c : Nat) : (s.endReport c).mode = s.mode := by
  unfold State.endReport State.sampledAt
  dsimp only
  split_ifs <;> rfl

theorem Effect.endReport (heffect : Effect s (R.ported p) es notices w) :
    Effect s ((R.endReport c).ported p) es notices w := heffect.records_changed (R.endReport_mode c)

theorem State.tested_of_setup (hmode : s.mode = .setup)
    (hsame : (((s.countGood c).modCrane c fun x => x.storeWhole r).judgeLock c).mode = s.mode) :
    s.tested c r = ((s.countGood c).modCrane c fun x => x.storeWhole r).judgeLock c := by
  unfold State.tested
  dsimp only
  rw [State.inService, hsame, hmode]
  rfl

theorem State.tested_of_service {s : State}
    (hin : (((s.countGood c).modCrane c fun x => x.storeWhole r).judgeLock c).inService = true) :
    s.tested c r =
      (((s.countGood c).modCrane c fun x => x.storeWhole r).judgeLock c).testFaults c (s.crane c).grant := by
  unfold State.tested
  dsimp only
  rw [hin, if_pos rfl]

/-! ## The tests of step 4 -/

theorem State.testDrive_of_sound (hstate : (s.crane c).state ≠ .fault) (hcode : (s.crane c).faultCode = 0) :
    s.testDrive c = s := by
  unfold State.testDrive
  dsimp only
  rw [if_neg hstate, if_neg (by omega)]

/-- A drive fault code of a crane not in FAULT. -/
theorem State.testFaults_of_drive {grant : Span} (hstate : (s.crane c).state ≠ .fault) (hcode : (s.crane c).faultCode ≠ 0)
    (hfault : ((s.enterFault c .drive (s.crane c).faultCode).crane c).state = .fault) :
    s.testFaults c grant = s.enterFault c .drive (s.crane c).faultCode := by
  have hdrive : s.testDrive c = s.enterFault c .drive (s.crane c).faultCode := by
    unfold State.testDrive
    dsimp only
    rw [if_neg hstate, if_pos hcode]
  unfold State.testFaults
  dsimp only
  rw [hdrive, if_neg fun hboth => hboth.2.1 hfault]

/-- A position past the grant. -/
theorem State.testFaults_of_overrun {grant : Span} (hstate : (s.crane c).state ≠ .fault) (hcode : (s.crane c).faultCode = 0)
    (hover : s.overruns c grant = true) : s.testFaults c grant = s.enterFault c .overrun 0 := by
  unfold State.testFaults
  dsimp only
  rw [State.testDrive_of_sound hstate hcode, if_pos ⟨hstate, hstate, hover⟩]

/-- A FAULT of the drive or of an overrun is left without a code at speed 0. -/
theorem State.testFaults_of_standing {grant : Span} (hstate : (s.crane c).state = .fault)
    (hreason : (s.crane c).reason = .drive ∨ (s.crane c).reason = .overrun) (hlock : (s.crane c).lock = .locked)
    (hcode : (s.crane c).faultCode = 0) (hspeed : (s.crane c).speed = 0) : s.testFaults c grant = s.leaveFault c := by
  have hdrive : s.testDrive c = s.leaveFault c := by
    unfold State.testDrive
    dsimp only
    rw [if_pos hstate, hcode, hspeed, hlock]
    rcases hreason with hreason | hreason
    · rw [hreason]
      rfl
    · rw [hreason]
      rfl
  unfold State.testFaults
  dsimp only
  rw [hdrive, if_neg fun hboth => hboth.1 hstate]

/-! ## STATUS: FAULT entered and left -/

theorem Crane.faulted_of_noLeg {r : Reason} (hstep : v.step = none) (hyield : v.yield = none) (hdeferral : v.deferral = none)
    (hleg : v.leg = none) (hnarrow : v.narrowDue = false) :
    v.faulted r = { v with reason := r, state := .fault, givenUp := .no, waiting := none } := by
  rw [Crane.faulted_eq hstep hyield hdeferral]
  cases v
  dsimp only at hleg hnarrow
  subst hleg hnarrow
  rfl

theorem State.widened_within (s : State) (g u : Span) (x : Int) :
    s.runway.lo ≤ (s.widened g u x).lo ∧ (s.widened g u x).hi ≤ s.runway.hi := by
  unfold State.widened
  exact ⟨le_max_right .., min_le_right ..⟩

/-- Settles O31: step 4 enters or leaves the FAULT, and the rest of the report finds the crane at rest. -/
theorem statusEntersAndLeavesFault : Obligations.StatusEntersAndLeavesFault := by
  intro c r s k h u x lw near want notices hmode hc hlink hlock hxe hex hstep hleg hnarrow hqueue hclear hbreach hs hsession
    hzero htakes
  have hjudged := ((LinkEvent.start s c).storeWhole (r := r) hlink).judgeLock_hit hlock
    (Crane.took_lockDistance_le hxe hex)
  have hin : (((s.begin.countGood c).modCrane c fun x => x.storeWhole r).judgeLock c).inService = true :=
    hjudged.inService.trans (State.inService_iff.mpr hmode)
  have hport : (((s.begin.countGood c).modCrane c fun x => x.storeWhole r).judgeLock c).ported s.port =
      ((s.begin.countGood c).modCrane c fun x => x.storeWhole r).judgeLock c := by
    rw [← hjudged.port, State.ported_port]
  have heffect : Effect s ((((s.begin.countGood c).modCrane c fun x => x.storeWhole r).judgeLock c).ported s.port) [] 0
      fun _ => false := (Effect.start htakes).records_changed hjudged.mode
  obtain ⟨hyield, hdeferral⟩ := hs.2.2 c
  have hsampled : h.sampled s.inService = h.sampled true := by rw [State.inService_iff.mpr hmode]
  refine ⟨?_, ?_⟩
  · intro reason hstate hheld hroom hcause
    have hidle : k.state ≠ .fault := by rw [hstate]; decide
    have hused : ({ u with missCount := 0 } : Crane).positionUsed = { lo := x, hi := x } := by
      have hlocked : ({ u with missCount := 0 } : Crane).lock = .locked := hlock
      unfold Crane.positionUsed
      rw [hlocked]
      rfl
    have hwant : s.widened ({ u with missCount := 0 } : Crane).grant ({ u with missCount := 0 } : Crane).positionUsed
        ({ u with missCount := 0 } : Crane).speed = want := by
      rw [hused]
      rfl
    obtain ⟨hlo, hhi⟩ := State.widened_within s k.grant { lo := x, hi := x } u.speed
    obtain ⟨hrlo, hrhi⟩ := State.roomOf_of_hasRoom hroom hlo hhi
    obtain ⟨R, q, hfault, hR, heffect'⟩ := hjudged.enterFault heffect hs hyield hdeferral hstep hqueue hzero hheld rfl hclear
      (by rw [hwant]; exact hrlo) (by rw [hwant]; exact hrhi) (n := 0) htakes reason u.faultCode
    rw [hport] at hfault
    have htested : s.begin.tested c r = R.ported q := by
      rw [State.tested_of_service hin, ← hfault]
      rcases hcause with ⟨hcode, rfl⟩ | ⟨hcode, hout, rfl⟩
      · have hdrive := State.testFaults_of_drive (s := ((s.begin.countGood c).modCrane c fun x => x.storeWhole r).judgeLock c)
          (grant := (s.begin.crane c).grant) (by rw [hjudged.crane]; exact hidle) (by rw [hjudged.crane]; exact hcode) ?_
        · rw [hdrive, hjudged.crane]
        · rw [hjudged.crane, hfault, State.crane_ported, hR.crane]
          rfl
      · have hover : (((s.begin.countGood c).modCrane c fun x => x.storeWhole r).judgeLock c).overruns c
            (s.begin.crane c).grant = true := by
          have hlocked : ({ u with missCount := 0 } : Crane).lock = .locked := hlock
          unfold State.overruns
          dsimp only
          rw [hjudged.crane, hlocked, hjudged.runway]
          simp only [beq_self_eq_true, Bool.true_and, decide_eq_true_eq]
          rcases hout with hout | hout
          · exact .inl (show x < k.grant.lo - lw by omega)
          · exact .inr (show k.grant.hi + lw < x by omega)
        have htest := State.testFaults_of_overrun (s := ((s.begin.countGood c).modCrane c fun x => x.storeWhole r).judgeLock c)
          (by rw [hjudged.crane]; exact hidle) (by rw [hjudged.crane]; exact hcode) hover
        rw [htest, hcode]
    have hend := onLink_takeStatus hc hlink htested hR (fun _ => ⟨rfl, rfl, hbreach, fun htong => .inr (hclear htong)⟩) rfl
      ⟨hsession, hzero, fun hopen => by cases hopen.2.1⟩
    obtain ⟨t, hnext, hcrane, hcranes, hchannel, hchannels, hsent, htransmitted, hrecords, -, horder, hflags, honly⟩ :=
      handle_linkEvent_logged hend hR.endReport heffect'.endReport (n := 1) (by simp) htakes
    refine ⟨t, hnext, ?_, hcranes, hchannel.trans hsampled, hchannels, hsent, htransmitted, hrecords, ?_,
      hflags.trans (shownNotices s), honly⟩
    · rw [hcrane, hwant, Crane.faulted_of_noLeg (v := { u with missCount := 0 }) hstep hyield hdeferral hleg hnarrow]
      rfl
    · have hcode : reason.code = if reason = .drive then 7 else 9 := by
        rcases hcause with ⟨-, rfl⟩ | ⟨-, -, rfl⟩ <;> rfl
      rw [← hcode]
      exact horder
  · intro hstate hreason hcode hspeed hheld hwest heast hlo hhi hrlo hrhi
    obtain ⟨R, q, hleave, hR, heffect'⟩ := hjudged.leaveFault heffect hs hzero hlock
      ⟨hyield, hdeferral, hheld, hleg, hwest, heast, hclear, hlo, hhi, hrlo, hrhi⟩ (n := 0) htakes
    rw [hport] at hleave
    have htested : s.begin.tested c r = R.ported q := by
      rw [State.tested_of_service hin, ← hleave]
      exact State.testFaults_of_standing (by rw [hjudged.crane]; exact hstate) (by rw [hjudged.crane]; exact hreason)
        (by rw [hjudged.crane]; exact hlock) (by rw [hjudged.crane]; exact hcode) (by rw [hjudged.crane]; exact hspeed)
    have hend := onLink_takeStatus hc hlink htested hR
      (fun _ => ⟨hleg, hnarrow, hbreach, fun htong => .inr (hclear htong)⟩) hstep
      ⟨hsession, hzero, fun hopen => by cases hopen.2.1⟩
    obtain ⟨t, hnext, hcrane, hcranes, hchannel, hchannels, hsent, -, hrecords, hunsent, horder, hflags, honly⟩ :=
      handle_linkEvent_logged hend hR.endReport heffect'.endReport (n := 1) (by simp) htakes
    refine ⟨t, hnext, hcrane, hcranes, hchannel.trans hsampled, hchannels, ?_, horder, hflags.trans (shownNotices s), honly⟩
    rw [hrecords, hsent, hunsent rfl]

end Sys2Proof.Machine
end

section
/-! PROOF. Position lock lost and regained (R52, R53, R57, R75, R77). -/

namespace Sys2Proof.Machine

variable {s t R : State} {c : Nat} {v : Crane} {h : Channel} {l : List (Nat × StepTelegram)} {r : StatusReport} {p q : Port}
  {es : List JournalEntry} {notices : BitVec 10} {n : Nat} {w : Nat → Bool} {k : Fin 4}

/-! ## The judgement (R52) -/

/-- The LOCK_LOST entry of a crane, with the distance of its positions (11.3). -/
def lockLostEntry (c d : Nat) : JournalEntry := { kind := 4, subject := c, detail := [3, 0, 0, 0] ++ leBytes 2 d }

/-- The judged crane, where lock is neither lost nor regained. -/
def Crane.judged (v : Crane) (window : Nat) : Crane :=
  if v.lock = .locked then { v with missCount := if v.lockDistance ≤ window then 0 else v.missCount + 1 }
  else { v with hitCount := if v.lockDistance ≤ window then v.hitCount + 1 else 0 }

/-- The third miss in a row. -/
def Crane.misses (v : Crane) (window : Nat) : Prop := v.lock = .locked ∧ window < v.lockDistance ∧ v.missCount = 2

/-- The eighth hit in a row. -/
def Crane.hits (v : Crane) (window : Nat) : Prop := v.lock = .lost ∧ v.lockDistance ≤ window ∧ v.hitCount = 7

theorem State.judgeLock_of_misses (h : (s.crane c).misses s.runway.lockWindow) : s.judgeLock c = s.loseLock c := by
  obtain ⟨hlock, hout, hcount⟩ := h
  simp only [State.judgeLock, hlock, Nat.not_le.mpr hout, decide_false, hcount, if_true]

theorem State.judgeLock_of_hits (h : (s.crane c).hits s.runway.lockWindow) : s.judgeLock c = s.regainLock c := by
  obtain ⟨hlock, hin, hcount⟩ := h
  simp only [State.judgeLock, hlock, hin, decide_true, hcount, if_true]

theorem LinkEvent.judgeLock_short (hR : LinkEvent s R c v h l) (hmisses : ¬v.misses s.runway.lockWindow)
    (hhits : ¬v.hits s.runway.lockWindow) : LinkEvent s (R.judgeLock c) c (v.judged s.runway.lockWindow) h l := by
  cases hlock : v.lock with
  | locked =>
    by_cases hin : v.lockDistance ≤ s.runway.lockWindow
    · rw [Crane.judged, if_pos hlock, if_pos hin]
      exact hR.judgeLock_hit hlock hin
    · have hcount : v.missCount + 1 ≠ 3 := fun h3 => hmisses ⟨hlock, Nat.not_le.mp hin, by omega⟩
      have hjudge : R.judgeLock c = R.modCrane c fun x => { x with missCount := x.missCount + 1 } := by
        simp only [State.judgeLock, hR.crane, hlock, hR.runway, hin, decide_false, hcount, if_false]
      rw [hjudge, Crane.judged, if_pos hlock, if_neg hin]
      exact hR.modCrane _
  | lost =>
    have hunlocked : v.lock ≠ .locked := by rw [hlock]; decide
    by_cases hin : v.lockDistance ≤ s.runway.lockWindow
    · have hcount : v.hitCount + 1 ≠ 8 := fun h8 => hhits ⟨hlock, hin, by omega⟩
      have hjudge : R.judgeLock c = R.modCrane c fun x => { x with hitCount := x.hitCount + 1 } := by
        simp only [State.judgeLock, hR.crane, hlock, hR.runway, hin, decide_true, hcount, if_false]
      rw [hjudge, Crane.judged, if_neg hunlocked, if_pos hin]
      exact hR.modCrane _
    · have hjudge : R.judgeLock c = R.modCrane c fun x => { x with hitCount := 0 } := by
        simp only [State.judgeLock, hR.crane, hlock, hR.runway, hin, decide_false]
      rw [hjudge, Crane.judged, if_neg hunlocked, if_neg hin]
      exact hR.modCrane _

/-! ## The two changes of lock (R53) -/

def Crane.unlocked (v : Crane) : Crane := { v with lock := .lost, hitCount := 0 }

def Crane.relocked (v : Crane) : Crane := { v with lock := .locked, missCount := 0 }

/-- The loss itself, with its entry. -/
def State.unlock (s : State) (c : Nat) : State :=
  (s.modCrane c Crane.unlocked).craneEntry c 3 0 0 ((s.modCrane c Crane.unlocked).crane c).lockDistance

/-- The regain itself, with its entry. -/
def State.relock (s : State) (c : Nat) : State := (s.modCrane c Crane.relocked).craneEntry c 4

/-- What follows the loss in service. -/
def State.stopLost (s : State) (c : Nat) : State :=
  let u := s.sendStop c true
  (if (u.crane c).state.stoppable || (u.crane c).state == .stopped then u.addCause c .lockLost else u).widen c

/-- What follows the regain in service. -/
def State.releaseFound (s : State) (c : Nat) : State :=
  s.afterCU ((if (s.crane c).state = .fault then s else s.endHold c).removeCause c .lockLost)

theorem State.loseLock_eq (s : State) (c : Nat) :
    s.loseLock c = if (s.unlock c).inService then (s.unlock c).stopLost c else s.unlock c := rfl

theorem State.regainLock_eq (s : State) (c : Nat) :
    s.regainLock c = if (s.relock c).inService then (s.relock c).releaseFound c else s.relock c := rfl

theorem LinkEvent.unlock (hR : LinkEvent s R c v h l) (heffect : Effect s (R.ported p) es notices w)
    (htakes : s.journalTakes (es.length + (n + 1)) = true) :
    ∃ q, (R.ported p).unlock c = (R.modCrane c Crane.unlocked).ported q ∧
      Effect s ((R.modCrane c Crane.unlocked).ported q) (es ++ [lockLostEntry c v.lockDistance])
        (notices ||| Notice.crane.mask ||| Notice.entry.mask) w := by
  have hunlocked := hR.modCrane Crane.unlocked
  obtain ⟨q, hq, heffect'⟩ := (heffect.records_changed (hunlocked.mode.trans hR.mode.symm)).report htakes .crane
    (lockLostEntry c v.lockDistance)
  refine ⟨q, ?_, heffect'⟩
  rw [State.unlock, State.modCrane_ported, State.crane_ported, hunlocked.crane]
  exact hq

theorem LinkEvent.relock (hR : LinkEvent s R c v h l) (heffect : Effect s (R.ported p) es notices w)
    (htakes : s.journalTakes (es.length + (n + 1)) = true) :
    ∃ q, (R.ported p).relock c = (R.modCrane c Crane.relocked).ported q ∧
      Effect s ((R.modCrane c Crane.relocked).ported q) (es ++ [craneStateEntry c 4 0 0])
        (notices ||| Notice.crane.mask ||| Notice.entry.mask) w := by
  have hrelocked := hR.modCrane Crane.relocked
  obtain ⟨q, hq, heffect'⟩ := (heffect.records_changed (hrelocked.mode.trans hR.mode.symm)).craneEntry htakes c 4 0 0
  refine ⟨q, ?_, heffect'⟩
  rw [State.relock, State.modCrane_ported]
  exact hq

/-! ## The cause LOCK_LOST (R57) -/

/-- An idle crane stopped by its first cause. -/
def Crane.stoppedBy (v : Crane) (cause : Cause) : Crane :=
  { v with causes := ({} : Causes).put true cause, resume := .idle, state := .stopped }

theorem LinkEvent.addCause (hR : LinkEvent s R c v h l) (heffect : Effect s (R.ported p) es notices w)
    (hstate : v.state = .idle) (hcauses : v.causes = {}) (hzero : h.zeroSet = none)
    (htakes : s.journalTakes (es.length + (n + 1)) = true) (cause : Cause) :
    ∃ R' q, (R.ported p).addCause c cause = R'.ported q ∧ LinkEvent s R' c (v.stoppedBy cause) h l ∧
      Effect s (R'.ported q) (es ++ [craneStateEntry c 7 (cause.codes c).1 (cause.codes c).2])
        (notices ||| Notice.crane.mask ||| Notice.entry.mask) w := by
  have hcaused := hR.modCrane fun x => { x with causes := x.causes.put true cause }
  have hresumes := hcaused.modCrane fun x => { x with resume := x.state }
  have hstopped := hresumes.modCrane fun x => { x with state := .stopped }
  obtain ⟨q, hq, heffect'⟩ := (heffect.records_changed (hstopped.mode.trans hR.mode.symm)).craneEntry htakes c 7
    (cause.codes c).1 (cause.codes c).2
  have hheld : Causes.has {} cause = false := by cases cause <;> rfl
  have hfirst : (Causes.isEmpty {} && CraneState.stoppable .idle) = true := rfl
  refine ⟨_, q, ?_, ?_, heffect'⟩
  · unfold State.addCause
    dsimp only
    rw [State.crane_ported, hR.crane, hcauses, hstate, hheld, if_neg Bool.false_ne_true, if_pos hfirst,
      State.modCrane_ported, State.modCrane_ported,
      State.setCraneState_of_noZeroSet (by rw [State.channel_ported, hresumes.channel]; exact hzero),
      State.modCrane_ported, hq]
  · have hfields : v.stoppedBy cause = { v with causes := v.causes.put true cause, resume := v.state, state := .stopped } := by
      rw [hcauses, hstate, Crane.stoppedBy]
    rw [hfields]
    exact hstopped

/-- The last cause leaves a crane stopped in IDLE that has no step and no move. -/
theorem LinkEvent.removeCause (hR : LinkEvent s R c v h l) (heffect : Effect s (R.ported p) es notices w) {cause : Cause}
    (hstate : v.state = .stopped) (hresume : v.resume = .idle) (hcauses : v.causes = ({} : Causes).put true cause)
    (hstep : v.step = none) (hwaiting : v.waiting = none)
    (htakes : s.journalTakes (es.length + (n + 1)) = true) :
    ∃ R' q, (R.ported p).removeCause c cause = R'.ported q ∧
      LinkEvent s R' c { v with causes := {}, state := .idle } h l ∧
      Effect s (R'.ported q) (es ++ [craneStateEntry c 8 (cause.codes c).1 (cause.codes c).2])
        (notices ||| Notice.crane.mask ||| Notice.entry.mask) w := by
  have hput : Causes.put (Causes.put {} true cause) false cause = {} := by cases cause <;> rfl
  have hhas : Causes.has (Causes.put {} true cause) cause = true := by cases cause <;> rfl
  have hfreed := hR.modCrane fun x => { x with causes := x.causes.put false cause }
  have hidle := hfreed.modCrane fun x => { x with state := .idle }
  obtain ⟨q, hq, heffect'⟩ := (heffect.records_changed (hfreed.mode.trans hR.mode.symm)).craneEntry htakes c 8
    (cause.codes c).1 (cause.codes c).2
  have hset : (((R.modCrane c fun x => { x with causes := x.causes.put false cause }).ported q).setCraneState c .idle) =
      (((R.modCrane c fun x => { x with causes := x.causes.put false cause }).modCrane c
        fun x => { x with state := .idle }).ported q) := by
    unfold State.setCraneState
    dsimp only
    rw [if_neg (fun hboth => hboth.2 rfl), State.modCrane_ported]
  have hresumed : ((((R.modCrane c fun x => { x with causes := x.causes.put false cause }).modCrane c
      fun x => { x with state := .idle }).ported q).resumeSteps c) =
      (((R.modCrane c fun x => { x with causes := x.causes.put false cause }).modCrane c
        fun x => { x with state := .idle }).ported q) := by
    unfold State.resumeSteps
    dsimp only
    rw [State.crane_ported, hidle.crane]
    dsimp only
    rw [hwaiting, hstep]
    exact ite_self _
  refine ⟨_, q, ?_, ?_, heffect'.records_changed (hidle.mode.trans hfreed.mode.symm)⟩
  · unfold State.removeCause
    dsimp only
    rw [State.crane_ported, hR.crane, hcauses, hhas, if_pos rfl, hput, hstate, if_pos ⟨rfl, rfl⟩, hresume,
      State.modCrane_ported, hq, hset, hresumed]
  · have hfields : ({ v with causes := {}, state := .idle } : Crane) =
        { v with causes := v.causes.put false cause, state := .idle } := by rw [hcauses, hput]
    rw [hfields]
    exact hidle

/-! ## STATUS: lock lost and regained -/

/-- The crane and its state once its values are taken. -/
def State.stored (s : State) (c : Nat) (r : StatusReport) : State := (s.countGood c).modCrane c fun x => x.storeWhole r

/-- A report in SETUP whose judgement leaves crane `v`. -/
theorem LinkEvent.status_setup (hR : LinkEvent s R k v (s.channel k) []) (hc : k.val ≤ s.straps)
    (hlink : (s.crane k).link ≠ .lost) (hmode : s.mode = .setup)
    (hjudged : (s.begin.stored k r).judgeLock k = R.ported q) (heffect : Effect s (R.ported q) es notices fun _ => false)
    (hlen : es.length ≤ 1) (hstep : v.step = none) (hsession : (s.channel k).session = none)
    (hzero : (s.channel k).zeroSet = none) (htakes : s.journalTakes 1 = true) :
    ∃ t, handle (onLink k fun s k => s.takeStatus k r) s = .next t ∧ t.crane k = v ∧
      (∀ j, j ≠ k.val → t.crane j = s.crane j) ∧ t.channel k = (s.channel k).sampled false ∧
      (∀ j, j ≠ k.val → t.channel j = s.channel j) ∧
      t.records = State.records
        { s with sent := [], cranes := t.cranes, channels := t.channels, writeCount := t.writeCount } ∧
      JournaledInOrder s t es ∧ t.flags = s.flags ||| notices ∧ OnlyWrites s t (s.journalPlace 1) := by
  have hnot : s.inService = false := by rw [State.inService, hmode]; rfl
  have htested : s.begin.tested k r = R.ported q :=
    (State.tested_of_setup (s := s.begin) hmode ((congrArg State.mode hjudged).trans hR.mode)).trans hjudged
  have hin {α : Prop} (h : s.inService = true) : α := by rw [hnot] at h; cases h
  have hend := onLink_takeStatus hc hlink htested hR hin hstep ⟨hsession, hzero, fun hopen => hin hopen.1⟩
  obtain ⟨t, hnext, hcrane, hcranes, hchannel, hchannels, hsent, -, hrecords, hunsent, horder, hflags, honly⟩ :=
    handle_linkEvent_logged hend hR.endReport heffect.endReport hlen htakes
  refine ⟨t, hnext, hcrane, hcranes, hnot ▸ hchannel, hchannels, ?_, horder, hflags, honly⟩
  rw [hrecords, hsent, hunsent rfl]

theorem Crane.took_lockDistance (k : Crane) (r : StatusReport) :
    (k.took r).lockDistance =
      ((k.took r).xLaser - (k.took r).xEncoder) + ((k.took r).xEncoder - (k.took r).xLaser) := Nat.add_comm ..

theorem LinkEvent.unlock_setup (hR : LinkEvent s R c v h l) (heffect : Effect s (R.ported p) es notices w)
    (hmode : s.mode = .setup) (htakes : s.journalTakes (es.length + (n + 1)) = true) :
    ∃ R' q, (R.ported p).loseLock c = R'.ported q ∧ LinkEvent s R' c v.unlocked h l ∧
      Effect s (R'.ported q) (es ++ [lockLostEntry c v.lockDistance])
        (notices ||| Notice.crane.mask ||| Notice.entry.mask) w := by
  obtain ⟨q, hq, heffect'⟩ := hR.unlock heffect htakes
  have hR' := hR.modCrane Crane.unlocked
  refine ⟨_, q, ?_, hR', heffect'⟩
  rw [State.loseLock_eq, hq, State.inService_ported, hR'.inService, State.inService, hmode]
  rfl

theorem LinkEvent.relock_setup (hR : LinkEvent s R c v h l) (heffect : Effect s (R.ported p) es notices w)
    (hmode : s.mode = .setup) (htakes : s.journalTakes (es.length + (n + 1)) = true) :
    ∃ R' q, (R.ported p).regainLock c = R'.ported q ∧ LinkEvent s R' c v.relocked h l ∧
      Effect s (R'.ported q) (es ++ [craneStateEntry c 4 0 0]) (notices ||| Notice.crane.mask ||| Notice.entry.mask) w := by
  obtain ⟨q, hq, heffect'⟩ := hR.relock heffect htakes
  have hR' := hR.modCrane Crane.relocked
  refine ⟨_, q, ?_, hR', heffect'⟩
  rw [State.regainLock_eq, hq, State.inService_ported, hR'.inService, State.inService, hmode]
  rfl

/-- The loss of an IDLE crane's lock in service: STOP NOW, the cause, the widened grant. -/
theorem LinkEvent.loseLock_idle (hR : LinkEvent s R c v h l) (heffect : Effect s (R.ported p) es notices w)
    (hservice : s.inService = true) (hstate : v.state = .idle) (hcauses : v.causes = {}) (hstep : v.step = none)
    (hzero : h.zeroSet = none) (hheld : v.heldWide = false) (hwidth : v.halfWidth = (s.crane c).halfWidth)
    (hclear : ClearOfBays s v)
    (hlo : (s.roomOf c).lo ≤ (s.widened v.grant v.unlocked.positionUsed v.speed).lo)
    (hhi : (s.widened v.grant v.unlocked.positionUsed v.speed).hi ≤ (s.roomOf c).hi)
    (htakes : s.journalTakes (es.length + (n + 2)) = true) :
    ∃ R' q, (R.ported p).loseLock c = R'.ported q ∧
      LinkEvent s R' c
        ((v.unlocked.stoppedBy .lockLost).wide (s.widened v.grant v.unlocked.positionUsed v.speed)) h
        (l ++ [(c, .stop v.lastSeq true)]) ∧
      Effect s (R'.ported q) (es ++ [lockLostEntry c v.lockDistance] ++ [craneStateEntry c 7 2 0])
        (notices ||| Notice.crane.mask ||| Notice.entry.mask ||| Notice.crane.mask ||| Notice.entry.mask) w := by
  obtain ⟨q1, hq1, heffect1⟩ := hR.unlock (n := n + 1) heffect htakes
  have hunlocked := hR.modCrane Crane.unlocked
  have hstopped : ((R.modCrane c Crane.unlocked).ported q1).sendStop c true =
      ((R.modCrane c Crane.unlocked).send c (.stop v.lastSeq true)).ported q1 := by
    rw [State.sendStop_of_noStep (by rw [State.crane_ported, hunlocked.crane]; exact hstep), State.crane_ported,
      hunlocked.crane, State.send_ported]
    rfl
  have hsent := hunlocked.send (.stop v.lastSeq true)
  obtain ⟨R2, q2, hcause, hR2, heffect2⟩ := hsent.addCause (n := n)
    (heffect1.records_changed (hsent.mode.trans hunlocked.mode.symm)) hstate hcauses hzero
    (by rw [List.length_append, List.length_singleton]; exact State.journalTakes_mono htakes (by omega)) .lockLost
  obtain ⟨R3, hwiden, hR3, hmode⟩ := hR2.widen (p := q2) hwidth hheld hclear hlo hhi
  refine ⟨R3, q2, ?_, hR3, heffect2.records_changed hmode⟩
  rw [State.loseLock_eq, hq1, State.inService_ported, hunlocked.inService, hservice, if_pos rfl, State.stopLost]
  rw [hstopped, State.crane_ported, hsent.crane]
  have hstoppable : (v.unlocked.state.stoppable || v.unlocked.state == .stopped) = true := by
    rw [show v.unlocked.state = .idle from hstate]
    rfl
  rw [hstoppable, if_pos rfl, hcause, hwiden]

/-- The regain of the lock of a crane stopped in IDLE by its loss: the hold ends, and the cause leaves it. -/
theorem LinkEvent.regainLock_idle (hR : LinkEvent s R c v h l) (heffect : Effect s (R.ported p) es notices w)
    (hs : s.runwayQuiet) (hservice : s.inService = true) (hstate : v.state = .stopped) (hresume : v.resume = .idle)
    (hcauses : v.causes = { lockLost := true }) (hstep : v.step = none) (hwaiting : v.waiting = none)
    (hend : HoldEnds s v) (htakes : s.journalTakes (es.length + (n + 2)) = true) :
    ∃ R' q, (R.ported p).regainLock c = R'.ported q ∧
      LinkEvent s R' c
        { v with lock := .locked, missCount := 0, state := .idle, causes := {}, grant := s.near v, heldWide := false } h l ∧
      Effect s (R'.ported q) (es ++ [craneStateEntry c 4 0 0] ++ [craneStateEntry c 8 2 0])
        (notices ||| Notice.crane.mask ||| Notice.entry.mask ||| Notice.crane.mask ||| Notice.entry.mask) w := by
  obtain ⟨q1, hq1, heffect1⟩ := hR.relock (n := n + 1) heffect htakes
  have hrelocked := hR.modCrane Crane.relocked
  obtain ⟨R2, hendHold, hR2, hmode2⟩ := hrelocked.releaseHold (p := q1) hs
    ⟨hend.yield, hend.deferral, hend.held, hend.leg, hend.west, hend.east, hend.clear, hend.lo, hend.hi, hend.runwayLo,
      hend.runwayHi⟩
  obtain ⟨R3, q3, hcause, hR3, heffect3⟩ := hR2.removeCause (n := n) (cause := .lockLost) (heffect1.records_changed hmode2)
    hstate hresume hcauses hstep hwaiting
    (by rw [List.length_append, List.length_singleton]; exact State.journalTakes_mono htakes (by omega))
  refine ⟨R3, q3, ?_, hR3, heffect3⟩
  have hfaultless : v.relocked.state ≠ .fault := by
    rw [show v.relocked.state = .stopped from hstate]
    decide
  rw [State.regainLock_eq, hq1, State.inService_ported, hrelocked.inService, hservice, if_pos rfl, State.releaseFound,
    State.crane_ported, hrelocked.crane, if_neg hfaultless, hendHold, hcause]
  exact State.afterCU_of_quiet (hR3.quiet_ported hs hend.yield hend.deferral) _

end Sys2Proof.Machine
end

section
/-! PROOF. A STATUS that loses or regains lock (R52, R53). -/

namespace Sys2Proof.Machine

variable {s t R : State} {c : Nat} {v : Crane} {h : Channel} {l : List (Nat × StepTelegram)} {r : StatusReport} {p q : Port}
  {es : List JournalEntry} {notices : BitVec 10} {n : Nat} {w : Nat → Bool} {k : Fin 4}

/-- After the judgement in service the crane is in no FAULT, and its report gives none. -/
theorem State.tested_of_sound (hR : LinkEvent s R c v h l) (hservice : s.inService = true)
    (hjudged : (s.begin.stored c r).judgeLock c = R.ported q) (hstate : v.state ≠ .fault) (hcode : v.faultCode = 0)
    (hinside : (R.ported q).overruns c (s.crane c).grant = false) : s.begin.tested c r = R.ported q := by
  have hin : ((s.begin.stored c r).judgeLock c).inService = true := by
    rw [hjudged, State.inService_ported, hR.inService, hservice]
  refine (State.tested_of_service (s := s.begin) hin).trans ((congrArg (State.testFaults · c _) hjudged).trans ?_)
  exact State.testFaults_of_sound (by rw [State.crane_ported, hR.crane]; exact hstate)
    (by rw [State.crane_ported, hR.crane]; exact hcode) hinside

/-- Settles O30: the judgement falls in one of its four cases, and the rest of the report finds the crane at rest. -/
theorem statusLosesAndRegainsLock : Obligations.StatusLosesAndRegainsLock := by
  intro c r s k h u d x near want lostEntry notices hc hlink hstep hcode hleg hnarrow hqueue hclear hbreach hs hsession hzero
    htakes hmiss hhit
  have hstored : LinkEvent s (s.begin.stored c r) c u h [] := (LinkEvent.start s c).storeWhole hlink
  have hdistance : u.lockDistance = d := Crane.took_lockDistance k r
  have hone : s.journalTakes 1 = true := State.journalTakes_mono htakes (by decide)
  have hport : (s.begin.stored c r).ported s.port = s.begin.stored c r := by
    rw [← hstored.port, State.ported_port]
  have heffect : Effect s ((s.begin.stored c r).ported s.port) [] 0 fun _ => false :=
    (Effect.start htakes).records_changed hstored.mode
  have hentry : lockLostEntry c u.lockDistance = lostEntry := by rw [hdistance]; rfl
  obtain ⟨hyield, hdeferral⟩ := hs.2.2 c
  refine ⟨?_, ?_, ?_⟩
  · intro hmode lost regained entries
    by_cases hlost : lost
    · have hmisses : u.misses s.runway.lockWindow := ⟨hlost.1, by rw [hdistance]; exact hlost.2.1, hlost.2.2⟩
      obtain ⟨R, q, hlose, hR, heffect'⟩ := LinkEvent.unlock_setup (n := 0) hstored heffect hmode hone
      rw [hport] at hlose
      have hjudged := (State.judgeLock_of_misses (s := s.begin.stored c r) (c := c)
        (by rw [hstored.crane, hstored.runway]; exact hmisses)).trans hlose
      obtain ⟨t, hnext, hcrane, hcranes, hchannel, hchannels, hrecords, horder, hflags, honly⟩ :=
        hR.status_setup hc hlink hmode hjudged heffect' (by simp) hstep hsession hzero hone
      have hentries : entries = [lostEntry] := if_pos hlost
      refine ⟨t, hnext, ?_, hcranes, hchannel, hchannels, hrecords, ?_, ?_, honly⟩
      · rw [if_pos hlost]
        exact hcrane
      · rw [hentries, ← hentry]
        exact horder
      · rw [hentries, if_neg (List.cons_ne_nil _ _)]
        exact hflags.trans (shownNotices s)
    by_cases hregained : regained
    · have hhits : u.hits s.runway.lockWindow := ⟨hregained.1, by rw [hdistance]; exact hregained.2.1, hregained.2.2⟩
      obtain ⟨R, q, hregain, hR, heffect'⟩ := LinkEvent.relock_setup (n := 0) hstored heffect hmode hone
      rw [hport] at hregain
      have hjudged := (State.judgeLock_of_hits (s := s.begin.stored c r) (c := c)
        (by rw [hstored.crane, hstored.runway]; exact hhits)).trans hregain
      obtain ⟨t, hnext, hcrane, hcranes, hchannel, hchannels, hrecords, horder, hflags, honly⟩ :=
        hR.status_setup hc hlink hmode hjudged heffect' (by simp) hstep hsession hzero hone
      have hentries : entries = [craneStateEntry c 4 0 0] := (if_neg hlost).trans (if_pos hregained)
      refine ⟨t, hnext, ?_, hcranes, hchannel, hchannels, hrecords, ?_, ?_, honly⟩
      · rw [if_neg hlost, if_pos hregained]
        exact hcrane
      · rw [hentries]
        exact horder
      · rw [hentries, if_neg (List.cons_ne_nil _ _)]
        exact hflags.trans (shownNotices s)
    · have hmisses : ¬u.misses s.runway.lockWindow := fun hm => hlost ⟨hm.1, by rw [← hdistance]; exact hm.2.1, hm.2.2⟩
      have hhits : ¬u.hits s.runway.lockWindow := fun hh => hregained ⟨hh.1, by rw [← hdistance]; exact hh.2.1, hh.2.2⟩
      have hR := hstored.judgeLock_short hmisses hhits
      have hjudged : (s.begin.stored c r).judgeLock c = ((s.begin.stored c r).judgeLock c).ported s.port := by
        rw [← hR.port, State.ported_port]
      have hstill : (u.judged s.runway.lockWindow).step = none := by
        unfold Crane.judged
        split_ifs <;> exact hstep
      obtain ⟨t, hnext, hcrane, hcranes, hchannel, hchannels, hrecords, horder, hflags, honly⟩ :=
        hR.status_setup hc hlink hmode hjudged ((Effect.start hone).records_changed hR.mode) (Nat.zero_le 1) hstill
          hsession hzero hone
      have hentries : entries = [] := (if_neg hlost).trans (if_neg hregained)
      refine ⟨t, hnext, ?_, hcranes, hchannel, hchannels, hrecords, ?_, ?_, honly⟩
      · rw [if_neg hlost, if_neg hregained, hcrane, Crane.judged, hdistance]
        rfl
      · rw [hentries]
        exact horder
      · rw [hentries, if_pos rfl, hflags]
        exact BitVec.or_zero
  · intro hmode hlock hout hmisses hstate hcauses hheld hroom
    have hservice := State.inService_iff.mpr hmode
    have hused : u.unlocked.positionUsed = { lo := min u.xEncoder u.xLaser, hi := max u.xEncoder u.xLaser } := rfl
    have hwant : s.widened u.grant u.unlocked.positionUsed u.speed = want := by
      rw [hused]
      rfl
    obtain ⟨hlo, hhi⟩ := State.widened_within s k.grant u.unlocked.positionUsed u.speed
    obtain ⟨hrlo, hrhi⟩ := State.roomOf_of_hasRoom hroom hlo hhi
    obtain ⟨R, q, hlose, hR, heffect'⟩ := LinkEvent.loseLock_idle (n := 0) hstored heffect hservice hstate hcauses hstep hzero
      hheld rfl hclear (by rw [hwant]; exact hrlo) (by rw [hwant]; exact hrhi) htakes
    rw [hport] at hlose
    have hthird : u.misses s.runway.lockWindow := ⟨hlock, by rw [hdistance]; exact hout, hmisses⟩
    have hjudged := (State.judgeLock_of_misses (s := s.begin.stored c r) (c := c)
      (by rw [hstored.crane, hstored.runway]; exact hthird)).trans hlose
    have hinside : (R.ported q).overruns c (s.crane c).grant = false := by
      unfold State.overruns
      dsimp only
      rw [State.crane_ported, hR.crane]
      rfl
    have htested := State.tested_of_sound hR hservice hjudged (fun h => by cases h) hcode hinside
    have hend := onLink_takeStatus hc hlink htested hR
      (fun _ => ⟨hleg, hnarrow, hbreach, fun htong => .inr (hclear htong)⟩) hstep
      ⟨hsession, hzero, fun hopen => by cases hopen.2.1⟩
    obtain ⟨t, hnext, hcrane, hcranes, hchannel, hchannels, hsent, htransmitted, hrecords, -, horder, hflags, honly⟩ :=
      handle_linkEvent_logged hend hR.endReport heffect'.endReport (n := 2) (by simp) htakes
    refine ⟨t, hnext, ?_, hcranes, hservice ▸ hchannel, hchannels, hsent, htransmitted, hrecords, ?_,
      hflags.trans (shownNoticesTwice s), honly⟩
    · rw [hcrane, hwant]
      rfl
    · rw [← hentry]
      exact horder
  · intro hmode hlock hin hhits hstate hresume hcauses hwaiting hheld hwest heast hlo hhi hrlo hrhi hopen
    have hservice := State.inService_iff.mpr hmode
    obtain ⟨R, q, hregain, hR, heffect'⟩ := LinkEvent.regainLock_idle (n := 0) hstored heffect hs hservice hstate hresume
      hcauses hstep hwaiting ⟨hyield, hdeferral, hheld, hleg, hwest, heast, hclear, hlo, hhi, hrlo, hrhi⟩ htakes
    rw [hport] at hregain
    have heighth : u.hits s.runway.lockWindow := ⟨hlock, by rw [hdistance]; exact hin, hhits⟩
    have hjudged := (State.judgeLock_of_hits (s := s.begin.stored c r) (c := c)
      (by rw [hstored.crane, hstored.runway]; exact heighth)).trans hregain
    have hlo' : k.grant.lo ≤ x - s.runway.margin := hlo
    have hhi' : x + s.runway.margin ≤ k.grant.hi := hhi
    have hinside : (R.ported q).overruns c (s.crane c).grant = false :=
      State.overruns_eq_false
        (by rw [State.crane_ported, State.runway_ported, hR.crane]; show k.grant.lo ≤ x + _; omega)
        (by rw [State.crane_ported, State.runway_ported, hR.crane]; show x ≤ k.grant.hi + _; omega)
    have htested := State.tested_of_sound hR hservice hjudged (fun h => by cases h) hcode hinside
    have hend := onLink_takeStatus hc hlink htested hR
      (fun _ => ⟨hleg, hnarrow, hbreach, fun htong => .inr (hclear htong)⟩) hstep
      ⟨hsession, hzero, fun hhigh => hopen hhigh.2.2⟩
    obtain ⟨t, hnext, hcrane, hcranes, hchannel, hchannels, hsent, -, hrecords, hunsent, horder, hflags, honly⟩ :=
      handle_linkEvent_logged hend hR.endReport heffect'.endReport (n := 2) (by simp) htakes
    refine ⟨t, hnext, hcrane, hcranes, hservice ▸ hchannel, hchannels, ?_, horder, hflags.trans (shownNoticesTwice s), honly⟩
    rw [hrecords, hsent, hunsent rfl]

end Sys2Proof.Machine
end

section
/-! PROOF. A STATUS on a LOST link, and one that feeds a weighing session (R51, R116 to R124). -/

namespace Sys2Proof.Machine

variable {s t R : State} {c : Nat} {v : Crane} {h : Channel} {l : List (Nat × StepTelegram)} {r : StatusReport} {p q : Port}
  {es : List JournalEntry} {notices : BitVec 10} {n : Nat} {w : Nat → Bool} {k : Fin 4}

/-! ## A report on a LOST link (R51) -/

/-- Short of the tenth report: the values kept, no position taken as used. -/
theorem LinkEvent.takeStatus_counted (hR : LinkEvent s R c v h l) (hlink : v.link = .lost) (hcount : v.recoveryCount < 9) :
    R.takeStatus c r = R.modCrane c (fun x => { x.storeReport r with recoveryCount := v.recoveryCount + 1 }) := by
  unfold State.takeStatus
  dsimp only
  rw [hR.crane, if_pos hlink, if_pos (by omega)]

theorem Crane.storeReport_eq (hlink : v.link = .lost) (m : Nat) :
    { v.storeReport r with recoveryCount := m } =
      { v.took r with
        link := .lost, badCount := v.badCount, wholeEncoder := v.wholeEncoder, wholeLaser := v.wholeLaser
        wholeTong := v.wholeTong, recoveryCount := m } := by
  have htaken : { v.storeReport r with recoveryCount := m } =
      { v.storeReport r with recoveryCount := m, link := v.link } := rfl
  rw [htaken, hlink]
  unfold Crane.took Crane.storeReport
  rw [← tongOf_eq]

/-- The link of the tenth report. -/
def State.recovered (s : State) (c : Nat) (r : StatusReport) : State :=
  (s.modCrane c fun x => { x.storeWhole r with recoveryCount := (s.crane c).recoveryCount + 1 }).modCrane c
    fun x => { x with link := .up, badCount := 0 }

theorem LinkEvent.recovered (hR : LinkEvent s R c v h l) (hcount : v.recoveryCount = 9) :
    LinkEvent s (R.recovered c r) c { v.took r with recoveryCount := 10 } h l := by
  have hstored := (hR.modCrane fun x => { x.storeWhole r with recoveryCount := (R.crane c).recoveryCount + 1 }).modCrane
    fun x => { x with link := .up, badCount := 0 }
  have hfields : { v.took r with recoveryCount := 10 } =
      { v.storeWhole r with recoveryCount := v.recoveryCount + 1, link := .up, badCount := 0 } := by
    rw [Crane.took_eq, hcount]
    rfl
  rw [hfields]
  rw [hR.crane] at hstored
  unfold State.recovered
  rw [hR.crane]
  exact hstored

/-- A FAULT for the loss of the link is left (R51). -/
def State.leaveLinkFault (s : State) (c : Nat) : State :=
  if s.inService && (s.crane c).state == .fault && (s.crane c).reason == .link then s.leaveFault c else s

/-- What follows the recovery of a link: a FAULT for its loss is left, and the report is handled whole. -/
theorem State.takeStatus_of_tenth (hlink : (s.crane c).link = .lost) (hcount : (s.crane c).recoveryCount = 9) :
    s.takeStatus c r = (((s.recovered c r).craneEntry c 2).leaveLinkFault c).takeWhole c true (s.crane c) := by
  unfold State.takeStatus
  dsimp only
  rw [if_pos hlink, if_neg (by omega)]
  rfl

theorem State.takeWhole_of_recovered (s : State) (c : Nat) (before : Crane) :
    s.takeWhole c true before = (let u := s.judgeLock c
      if u.inService then u.testDrive c else u).finishReport c before.loaded before.heldWide := by
  unfold State.takeWhole State.finishReport
  simp only [Bool.not_true, Bool.and_false, Bool.and_true, Bool.false_eq_true, if_false]

/-- A hit of the lock window on a LOCKED crane, with the port as it is. -/
theorem LinkEvent.judgeLock_ported (hR : LinkEvent s R c v h l) (hlock : v.lock = .locked)
    (hhit : v.lockDistance ≤ s.runway.lockWindow) :
    (R.ported p).judgeLock c = (R.modCrane c fun x => { x with missCount := 0 }).ported p := by
  simp only [State.judgeLock, State.crane_ported, State.runway_ported, hR.crane, hlock, hR.runway, hhit, decide_true,
    State.modCrane_ported]

/-- The rest of the tenth report, of a crane at rest without a fault. -/
theorem LinkEvent.takeWhole_recovered (hR : LinkEvent s R c v h l) {before : Crane} (hlock : v.lock = .locked)
    (hhit : v.lockDistance ≤ s.runway.lockWindow) (hstate : s.inService = true → v.state ≠ .fault) (hcode : v.faultCode = 0)
    (hrest : s.inService = true → AtRest s c v before.loaded) (hstep : v.step = none) (hsample : Unsampled s v h) :
    (R.ported p).takeWhole c true before = ((R.modCrane c fun x => { x with missCount := 0 }).endReport c).ported p := by
  have hjudged := hR.modCrane fun x => { x with missCount := 0 }
  rw [State.takeWhole_of_recovered, hR.judgeLock_ported hlock hhit]
  have htested : (let u := (R.modCrane c fun x => { x with missCount := 0 }).ported p
      if u.inService then u.testDrive c else u) = (R.modCrane c fun x => { x with missCount := 0 }).ported p := by
    dsimp only
    split_ifs with hin
    · have hserving : s.inService = true := by rwa [State.inService_ported, hjudged.inService] at hin
      exact State.testDrive_of_sound (by rw [State.crane_ported, hjudged.crane]; exact hstate hserving)
        (by rw [State.crane_ported, hjudged.crane]; exact hcode)
    · rfl
  rw [htested]
  exact hjudged.finishReport (fun hin => ⟨(hrest hin).leg, (hrest hin).narrowed, (hrest hin).breach, (hrest hin).loaded⟩)
    hstep ⟨hsample.session, hsample.zeroSet, hsample.ineligible⟩

/-! ## The steady count (R119, R120) -/

/-- A list's spread is within a band exactly if every two of its values are. -/
theorem spread_le_iff (band : Nat) (vs : List Int) :
    spread vs ≤ band ↔ ∀ a ∈ vs, ∀ b ∈ vs, a ≤ b + band := by
  cases vs with
  | nil => simp [spread]
  | cons v rest =>
    obtain ⟨hmaxMem, hmax⟩ := List.max?_eq_some_iff.mp (List.max?_cons' (x := v) (xs := rest))
    obtain ⟨hminMem, hmin⟩ := List.min?_eq_some_iff.mp (List.min?_cons' (x := v) (xs := rest))
    rw [spread]
    constructor
    · intro hspread a ha b hb
      have := hmax a ha
      have := hmin b hb
      omega
    · intro hall
      have := hall _ hmaxMem _ hminMem
      omega

theorem steadySample_iff (band : Nat) (es : List (Option Int)) :
    steadySample band es = true ↔
      es.length = 8 ∧ (∀ a ∈ es, a ≠ none) ∧ ∀ a ∈ es, ∀ b ∈ es, a.getD 0 ≤ b.getD 0 + band := by
  have hall : es.all Option.isSome = true ↔ ∀ a ∈ es, a ≠ none := by
    simp only [List.all_eq_true, Option.isSome_iff_ne_none]
  unfold steadySample windowValues
  by_cases hvalues : es.length = 8 ∧ ∀ a ∈ es, a ≠ none
  · rw [if_pos ⟨hvalues.1, hall.mpr hvalues.2⟩]
    have hmem (x : Int) : x ∈ es.filterMap id ↔ some x ∈ es := by simp
    dsimp only
    rw [decide_eq_true_iff, spread_le_iff]
    constructor
    · refine fun hband => ⟨hvalues.1, hvalues.2, fun a ha b hb => ?_⟩
      obtain ⟨x, rfl⟩ := Option.ne_none_iff_exists'.mp (hvalues.2 a ha)
      obtain ⟨y, rfl⟩ := Option.ne_none_iff_exists'.mp (hvalues.2 b hb)
      exact hband x ((hmem x).mpr ha) y ((hmem y).mpr hb)
    · exact fun hband x hx y hy => hband.2.2 _ ((hmem x).mp hx) _ ((hmem y).mp hy)
  · rw [if_neg fun hboth => hvalues ⟨hboth.1, hall.mp hboth.2⟩]
    exact iff_of_false Bool.false_ne_true fun hsteady => hvalues ⟨hsteady.1, hsteady.2.1⟩

/-! ## A sample joins its session (R124) -/

/-- A sample of a crane whose move is weighed, ineligible for zero tracking. -/
theorem State.hookSample_of_weighed {k : Nat} {count : Int} {y : HookSession} (hsession : (s.channel k).session = some y)
    (hzero : (s.channel k).zeroSet = none) (heligible : s.hookEligible k = false) :
    s.hookSample k count = (s.sampledAt k).hookSessionSample k y count := by
  unfold State.hookSample
  dsimp only
  rw [heligible, hsession, State.outsideSession_of_ineligible hzero]

/-- The session after a sample. -/
def HookSession.next (y : HookSession) (h : Channel) (count : Int) : HookSession :=
  { window := y.window.take h count, count := y.count + 1 }

theorem Channel.entryOf_eq (h : Channel) (count : Int) :
    h.entryOf count = if -8000000 ≤ count ∧ count ≤ 8000000 then some (h.corrected count) else none := by
  unfold Channel.entryOf overrange
  by_cases hin : -8000000 ≤ count ∧ count ≤ 8000000
  · rw [if_pos hin, if_neg (by rw [decide_eq_true_iff]; omega)]
  · rw [if_neg hin, if_pos (by rw [decide_eq_true_iff]; omega)]

theorem LinkEvent.hookSessionSample (hR : LinkEvent s R c v h l) {y : HookSession} {count : Int}
    (hsteady : (y.window.take h count).steady ≠ h.settleCount) (hcount : y.count + 1 < 40) :
    LinkEvent s (R.hookSessionSample c y count) c v { h with session := some (y.next h count) } l := by
  have hend : hookEnd h (y.next h count) = none := by
    unfold hookEnd ChannelWindow.settled
    rw [if_neg (by rw [beq_iff_eq]; exact hsteady), if_neg (by rw [HookSession.next]; dsimp only; omega)]
  have hsample : R.hookSessionSample c y count = R.modChannel c fun x => { x with session := some (y.next h count) } := by
    unfold State.hookSessionSample
    dsimp only
    rw [hR.channel]
    have hfold : ({ window := y.window.take h count, count := y.count + 1 } : HookSession) = y.next h count := rfl
    rw [hfold, hend]
  rw [hsample]
  exact hR.modChannel _

/-- The end of the report of a crane at rest whose move is weighed. -/
theorem LinkEvent.finishReport_weighed (hR : LinkEvent s R c v h l) {loadedBefore wasHeld : Bool} {y : HookSession}
    (hrest : AtRest s c v loadedBefore) (hservice : s.inService = true) (hstep : v.step = none)
    (hsession : h.session = some y) (hzero : h.zeroSet = none) (hstate : v.state ≠ .idle) :
    R.finishReport c loadedBefore wasHeld =
      ((R.sampledAt c).hookSessionSample c y v.load).touch (Group.crane c) := by
  have hreport : R.reportRU c loadedBefore wasHeld = R := by
    have hported := hR.reportRU (p := R.port) (wasHeld := wasHeld) hrest
    rwa [State.ported_port] at hported
  have hineligible : R.hookEligible c = false :=
    Bool.eq_false_iff.mpr fun helig => hstate (hR.hookEligible.mp helig).2.1
  unfold State.finishReport
  dsimp only
  rw [State.testDone_of_noStep (by rw [hR.crane]; exact hstep), hR.inService, hservice, if_pos rfl, hreport, hR.crane,
    State.hookSample_of_weighed (by rw [hR.channel]; exact hsession) (by rw [hR.channel]; exact hzero) hineligible]

/-! ## STATUS: a link recovered, a session fed -/

/-- The entries of a window with a sample at the newest end. -/
def HookSession.entriesWith (y : HookSession) (h : Channel) (count : Int) : List (Option Int) :=
  (if y.window.entries.length < 8 then y.window.entries else y.window.entries.drop 1) ++
    [if -8000000 ≤ count ∧ count ≤ 8000000 then some (h.corrected count) else none]

/-- The steady count once a sample has joined the window. -/
def HookSession.steadyWith (y : HookSession) (h : Channel) (count : Int) : Nat :=
  if (y.entriesWith h count).length = 8 ∧ (∀ a ∈ y.entriesWith h count, a ≠ none) ∧
      (∀ a ∈ y.entriesWith h count, ∀ b ∈ y.entriesWith h count, a.getD 0 ≤ b.getD 0 + h.settleBand) then
    min (y.window.steady + 1) h.settleCount
  else 0

theorem HookSession.next_eq (y : HookSession) (h : Channel) (count : Int) :
    y.next h count =
      { window := { entries := y.entriesWith h count, steady := y.steadyWith h count }, count := y.count + 1 } := by
  unfold HookSession.next ChannelWindow.take pushEntry
  rw [Channel.entryOf_eq]
  simp only [steadySample_iff]
  rfl

/-- Settles O34: a LOST link counts, the tenth report recovers it, and a session takes a sample. -/
theorem statusRecoversALinkAndFeedsASession : Obligations.StatusRecoversALinkAndFeedsASession := by
  intro c r s k h u x serving near hc
  have hstart := LinkEvent.start s c
  refine ⟨?_, ?_⟩
  · intro hlink hcount
    have hg : onLink c (fun s k => s.takeStatus k r) s.begin =
        s.begin.modCrane c (fun x => { x.storeReport r with recoveryCount := k.recoveryCount + 1 }) := by
      rw [onLink_of_fitted hc]
      exact hstart.takeStatus_counted hlink hcount
    obtain ⟨t, hnext, hcrane, hrest⟩ := handle_linkEvent_crane hg (hstart.modCrane _) rfl
    exact ⟨t, hnext, hcrane.trans (Crane.storeReport_eq (v := k) hlink _), hrest⟩
  intro hlock hxe hex hstep hleg hnarrow hcode hbreach hzero hs
  have hhit : u.lockDistance ≤ s.runway.lockWindow := Crane.took_lockDistance_le hxe hex
  obtain ⟨hyield, hdeferral⟩ := hs.2.2 c
  refine ⟨?_, ?_⟩
  · intro hlink hcount hsession htakes hclear hmode entries
    have htenth : LinkEvent s (s.begin.recovered c r) c { u with recoveryCount := 10 } h [] := hstart.recovered hcount
    obtain ⟨q, hq, heffect⟩ := ((Effect.start (w := fun _ => false) htakes).records_changed htenth.mode).craneEntry (n := 1)
      htakes c 2 0 0
    have hport : (s.begin.recovered c r).ported s.port = s.begin.recovered c r := by rw [← htenth.port, State.ported_port]
    rw [hport] at hq
    have hg : onLink c (fun s k => s.takeStatus k r) s.begin =
        (((s.begin.recovered c r).craneEntry c 2).leaveLinkFault c).takeWhole c true k := by
      rw [onLink_of_fitted hc]
      exact State.takeStatus_of_tenth (s := s.begin) hlink hcount
    have hserve : serving ↔ s.inService = true := State.inService_iff.symm
    have hsampled : h.sampled (decide serving) = h.sampled s.inService := by
      rw [Bool.eq_iff_iff.mpr (decide_eq_true_iff.trans hserve)]
    by_cases hserving : serving
    · have hfault := hmode.resolve_left fun hsetup => by
        rcases hserving with hrun | hhalted
        · rw [hsetup] at hrun; cases hrun
        · rw [hsetup] at hhalted; cases hhalted
      obtain ⟨-, hstate, hreason, hheld, hwest, heast, hlo, hhi, hrlo, hrhi⟩ := hfault
      obtain ⟨R, q', hleave, hR, heffect'⟩ := htenth.leaveFault (n := 0) heffect hs hzero hlock
        ⟨hyield, hdeferral, hheld, hleg, hwest, heast, hclear, hlo, hhi, hrlo, hrhi⟩ htakes
      have hleaves : (((s.begin.recovered c r).ported q).inService &&
          (((s.begin.recovered c r).ported q).crane c).state == .fault &&
          (((s.begin.recovered c r).ported q).crane c).reason == .link) = true := by
        rw [State.inService_ported, htenth.inService, hserve.mp hserving, State.crane_ported, htenth.crane]
        exact Bool.and_eq_true_iff.mpr ⟨beq_iff_eq.mpr hstate, beq_iff_eq.mpr hreason⟩
      have hwhole := hR.takeWhole_recovered (p := q') (before := k) hlock hhit (fun _ hout => by cases hout) hcode
        (fun _ => ⟨hleg, hnarrow, hbreach, fun htong => .inr (hclear htong)⟩) hstep
        ⟨hsession, hzero, fun hopen => by cases hopen.2.1⟩
      have hend := hg
      rw [hq] at hend
      rw [State.leaveLinkFault, hleaves, if_pos rfl, hleave, hwhole] at hend
      have hjudged := hR.modCrane fun x => { x with missCount := 0 }
      obtain ⟨t, hnext, hcrane, hcranes, hchannel, hchannels, hsent, -, hrecords, hunsent, horder, hflags, honly⟩ :=
        handle_linkEvent_logged hend hjudged.endReport
          (heffect'.records_changed (hjudged.mode.trans hR.mode.symm)).endReport (n := 2) (by simp) htakes
      have hentries : entries = [craneStateEntry c 2 0 0, craneStateEntry c 6 0 0] :=
        congrArg (_ :: ·) (if_pos hserving)
      refine ⟨t, hnext, ?_, hcranes, hchannel.trans hsampled.symm, hchannels, ?_, hentries ▸ horder,
        hflags.trans (shownNoticesTwice s), honly⟩
      · rw [if_pos hserving]
        exact hcrane
      · rw [hrecords, hsent, hunsent rfl]
    · have hnot : s.inService = false := Bool.eq_false_iff.mpr fun hin => hserving (hserve.mpr hin)
      have hin {α : Prop} (h : s.inService = true) : α := by rw [hnot] at h; cases h
      have hstays : (((s.begin.recovered c r).ported q).inService &&
          (((s.begin.recovered c r).ported q).crane c).state == .fault &&
          (((s.begin.recovered c r).ported q).crane c).reason == .link) = false := by
        rw [State.inService_ported, htenth.inService, hnot]
        rfl
      have hwhole := htenth.takeWhole_recovered (p := q) (before := k) hlock hhit hin hcode hin hstep
        ⟨hsession, hzero, fun hopen => hin hopen.1⟩
      have hend := hg
      rw [hq] at hend
      rw [State.leaveLinkFault, hstays, if_neg Bool.false_ne_true, hwhole] at hend
      have hjudged := htenth.modCrane fun x => { x with missCount := 0 }
      obtain ⟨t, hnext, hcrane, hcranes, hchannel, hchannels, hsent, -, hrecords, hunsent, horder, hflags, honly⟩ :=
        handle_linkEvent_logged hend hjudged.endReport
          (heffect.records_changed (hjudged.mode.trans htenth.mode.symm)).endReport (n := 2) (by simp) htakes
      have hentries : entries = [craneStateEntry c 2 0 0] := congrArg (_ :: ·) (if_neg hserving)
      refine ⟨t, hnext, ?_, hcranes, hchannel.trans hsampled.symm, hchannels, ?_, hentries ▸ horder,
        hflags.trans (shownNotices s), honly⟩
      · rw [if_neg hserving]
        exact hcrane
      · rw [hrecords, hsent, hunsent rfl]
  · intro y hlink hsession hserving hstate hheld hloaded hlo hhi old entries steady hsteady hcount
    have hservice := State.inService_iff.mpr hserving
    have hjudged : LinkEvent s ((s.begin.stored c r).judgeLock c) c { u with missCount := 0 } h [] :=
      LinkEvent.judgeLock_hit (hstart.storeWhole hlink) hlock hhit
    have hnext : y.next (h.sampled s.inService) u.load =
        { window := { entries := entries, steady := steady }, count := y.count + 1 } := HookSession.next_eq ..
    have hsampled := hjudged.sampledAt.hookSessionSample (y := y) (count := u.load)
      (by rw [show (y.window.take (h.sampled s.inService) u.load).steady = steady from
        congrArg (fun z => z.window.steady) hnext]; exact hsteady) hcount
    have hbusy : k.state ≠ .fault := by rw [hstate]; decide
    have hg : onLink c (fun s k => s.takeStatus k r) s.begin =
        ((((s.begin.stored c r).judgeLock c).sampledAt c).hookSessionSample c y u.load).touch (Group.crane c) := by
      have htested : s.begin.tested c r = (s.begin.stored c r).judgeLock c :=
        (State.tested_of_service (s := s.begin) (hjudged.inService.trans hservice)).trans
          (hjudged.testFaults_unported hbusy hcode hlo hhi)
      have htakes : s.begin.takeStatus c r = (s.begin.tested c r).finishReport c k.loaded k.heldWide := by
        rw [State.takeStatus_of_linked (s := s.begin) hlink, State.takeWhole_eq]
        rfl
      rw [onLink_of_fitted hc, htakes, htested]
      exact hjudged.finishReport_weighed
        ⟨hleg, hnarrow, hbreach, fun htong => .inl (beq_iff_eq.mpr (hloaded htong))⟩ hservice hstep hsession hzero
        (fun hidle => by rw [show k.state = .idle from hidle] at hstate; cases hstate)
    obtain ⟨t, hnext', hcrane, hcranes, hchannel, hchannels, hsent, -, hrecords, hunsent, hflags, honly⟩ :=
      handle_linkEvent hg (hsampled.touch _)
    refine ⟨t, hnext', hcrane, hcranes, ?_, hchannels, ?_, hflags, honly⟩
    · rw [hchannel, hnext, hservice]
    · rw [hrecords, hsent, hunsent rfl]

end Sys2Proof.Machine
end

section
/-! PROOF. Samples of a bay's platform channels outside sessions, and expiries (R112, R113, R128). -/

namespace Sys2Proof.Machine

variable {s t u R : State} {k : Nat} {h : Channel}

/-- `t` is `s` but for its channels and what is to be published. -/
def ChannelsOnly (s t : State) : Prop := t = { s with channels := t.channels, touched := t.touched }

theorem ChannelsOnly.refl (s : State) : ChannelsOnly s s := rfl

theorem ChannelsOnly.trans (h : ChannelsOnly s t) (g : ChannelsOnly t u) : ChannelsOnly s u := by
  unfold ChannelsOnly at h g ⊢
  rw [g, h]

theorem ChannelsOnly.of_state {α : Type} (h : ChannelsOnly s t) (f : State → α)
    (hf : ∀ channels touched, f { s with channels := channels, touched := touched } = f s) : f t = f s := by
  unfold ChannelsOnly at h
  rw [h, hf]

theorem State.modChannel_channelsOnly (s : State) (k : Nat) (f : Channel → Channel) : ChannelsOnly s (s.modChannel k f) := rfl

theorem State.sampledAt_channelsOnly (s : State) (k : Nat) : ChannelsOnly s (s.sampledAt k) := by
  unfold State.sampledAt
  dsimp only
  split_ifs
  · exact (State.modChannel_channelsOnly ..).trans (State.modChannel_channelsOnly ..)
  · exact State.modChannel_channelsOnly ..

theorem State.channel_sampledAt (s : State) (k q : Nat) :
    (s.sampledAt k).channel q = if q = k then (s.channel k).sampled s.inService else s.channel q := by
  have harrived (q : Nat) : (s.sampleArrives k false).channel q =
      if q = k then { s.channel k with data := true, expiryRunning := true, lastEligible := false } else s.channel q :=
    State.channel_setChannel ..
  have hservice : (s.sampleArrives k false).inService = s.inService := rfl
  have hself := harrived k
  rw [if_pos rfl] at hself
  unfold State.sampledAt
  dsimp only
  rw [hservice, hself]
  by_cases hdrop : (s.inService && (s.channel k).configured && !(s.channel k).fault) = true
  · have hbatch : s.inService = true ∧ (s.channel k).configured = true ∧ (s.channel k).fault = false := by
      simpa [and_assoc] using hdrop
    rw [if_pos hdrop, Channel.sampled, if_pos hbatch, State.modChannel, State.channel_setChannel, hself, harrived]
    by_cases hq : q = k
    · rw [if_pos hq, if_pos hq]
    · rw [if_neg hq, if_neg hq, if_neg hq]
  · have hbatch : ¬(s.inService = true ∧ (s.channel k).configured = true ∧ (s.channel k).fault = false) := by
      simpa [and_assoc] using hdrop
    rw [if_neg hdrop, Channel.sampled, if_neg hbatch, harrived]

/-- A handling that changes channels alone. -/
theorem handle_channelsOnly {g : State → State} (hg : g s.begin = R) (hR : ChannelsOnly s.begin R) :
    ∃ t, handle g s = .next t ∧ (∀ q, t.channel q = R.channel q) ∧
      t.records = State.records { s with sent := [], channels := t.channels } ∧ t.flags = s.flags ∧
      OnlyWrites s t (fun _ => false) := by
  obtain ⟨t, hnext, hrecords, hflags, hbytes⟩ := handle_effect g s
  rw [hg] at hrecords hflags hbytes
  have hmem : R.mem = s.mem := hR.of_state State.mem fun _ _ => rfl
  have hsame : R.records = { s.begin.records with channels := R.channels } := by
    unfold ChannelsOnly at hR
    rw [hR]
    rfl
  refine ⟨t, hnext, fun q => State.of_records (fun x => x.channel q) hrecords, ?_,
    hflags.trans (hR.of_state State.flags fun _ _ => rfl), fun b hb _ => ?_⟩
  · rw [hrecords, State.of_records State.channels hrecords, hsame]
    rfl
  · have := publishedOffset_eq_false hb
    rw [hbytes b (by omega), State.readByte_congr hmem]

theorem Channel.sampled_eq (h : Channel) (s : State) :
    h.sampled s.inService =
      { h with
        data := true, expiryRunning := true, lastEligible := false
        batchSet :=
          if (s.mode = .run ∨ s.mode = .halted) ∧ h.configured = true ∧ h.fault = false then none else h.batchSet } := by
  unfold Channel.sampled
  simp only [State.inService_iff]

theorem State.platformSample_of_ineligible {b : Nat} {front rear : Int} (hsession : (s.bay b).session = none)
    (hfront : (s.channel (4 + 2 * b)).zeroSet = none) (hrear : (s.channel (5 + 2 * b)).zeroSet = none)
    (heligible : (s.inService && (s.bay b).state == .empty) = false) :
    s.platformSample b front rear = (s.sampledAt (4 + 2 * b)).sampledAt (5 + 2 * b) := by
  have hrear' : ((s.sampledAt (4 + 2 * b)).channel (5 + 2 * b)).zeroSet = none := by
    rw [State.channel_sampledAt, if_neg (by omega)]
    exact hrear
  unfold State.platformSample frontChannel rearChannel
  dsimp only
  rw [heligible, hsession, State.outsideSession_of_ineligible hfront, State.outsideSession_of_ineligible hrear']

/-- The two platform channels after a sample that is not eligible. -/
theorem State.channel_sampledAt_twice (s : State) (f q : Nat) :
    ((s.sampledAt f).sampledAt (f + 1)).channel q =
      if q = f ∨ q = f + 1 then (s.channel q).sampled s.inService else s.channel q := by
  have hservice : (s.sampledAt f).inService = s.inService := 
    (s.sampledAt_channelsOnly f).of_state State.inService fun _ _ => rfl
  rw [State.channel_sampledAt (s.sampledAt f), hservice, State.channel_sampledAt s, State.channel_sampledAt s,
    if_neg (Nat.succ_ne_self f)]
  by_cases hrear : q = f + 1
  · rw [if_pos hrear, if_pos (.inr hrear), hrear]
  · rw [if_neg hrear]
    by_cases hfront : q = f
    · rw [if_pos hfront, if_pos (.inl hfront), hfront]
    · rw [if_neg hfront, if_neg (not_or.mpr ⟨hfront, hrear⟩)]

/-- A sample expiry that runs out on a channel in no session and no zero set. -/
theorem State.sampleExpires_of_running {k : Nat} (hrunning : (s.channel k).expiryRunning = true)
    (hzero : (s.channel k).zeroSet = none)
    (hsession : if k < 4 then (s.channel k).session = none else (s.bay ((k - 4) / 2)).session = none) :
    s.sampleExpires k =
      (let u := s.modChannel k fun x => { x with expiryRunning := false }
      if (s.channel k).data = true then u.modChannel k fun x => { x with data := false, batchSet := none } else u) := by
  have hself : (s.modChannel k fun x => { x with expiryRunning := false }).channel k =
      { s.channel k with expiryRunning := false } := State.channel_setChannel_self ..
  have hcleared : ((s.modChannel k fun x => { x with expiryRunning := false }).modChannel k
      fun x => { x with data := false, batchSet := none }).channel k =
      { s.channel k with expiryRunning := false, data := false, batchSet := none } := by
    rw [State.modChannel, State.channel_setChannel_self, hself]
  have hkept (u : State) (hu : (u.channel k).session = (s.channel k).session) (hbays : u.bays = s.bays) :
      u.loseSession k = u := by
    unfold State.loseSession channelBay
    rw [State.bay, hbays, ← State.bay, hu]
    split_ifs at hsession ⊢ with hhook hopen
    · rw [hsession] at hopen
      cases hopen
    · rfl
    · rw [hsession]
  unfold State.sampleExpires
  rw [if_pos hrunning]
  dsimp only
  rw [hself]
  dsimp only
  split_ifs
  · rw [State.clearData, State.dropZeroSet_of_none (by rw [hcleared]; exact hzero)]
    exact hkept _ (by rw [hcleared]) rfl
  · rfl

/-- Settles O40: the two samples take their channels one after the other, and an expiry its one. -/
theorem samplesReachTheirChannels : Obligations.SamplesReachTheirChannels := by
  refine ⟨?_, fun _ _ => rfl, ?_⟩
  · intro b r s f serving after hsession hfront hrear hineligible
    have heligible : (s.inService && (s.bay b).state == .empty) = false := by
      refine Bool.eq_false_iff.mpr fun helig => ?_
      obtain ⟨hin, hempty⟩ := Bool.and_eq_true_iff.mp helig
      exact hineligible ⟨State.inService_iff.mp hin, beq_iff_eq.mp hempty⟩
    have hrear' : (s.channel (5 + 2 * b.val)).zeroSet = none := by
      rw [show 5 + 2 * b.val = 4 + 2 * b.val + 1 by omega]
      exact hrear
    obtain ⟨t, hnext, hchannel, hrest⟩ := handle_channelsOnly
      (g := fun s => s.platformSample b.val r.front.toInt r.rear.toInt)
      (State.platformSample_of_ineligible (s := s.begin) hsession hfront hrear' heligible)
      ((State.sampledAt_channelsOnly ..).trans (State.sampledAt_channelsOnly ..))
    refine ⟨t, hnext, fun q => ?_, hrest⟩
    rw [hchannel, show 5 + 2 * b.val = 4 + 2 * b.val + 1 by omega, State.channel_sampledAt_twice]
    exact if_congr Iff.rfl (Channel.sampled_eq (s.channel q) s) rfl
  · intro k s h
    refine ⟨fun hstopped => ?_, fun hrunning hzero hsession => ?_⟩
    · have hg : s.begin.sampleExpires k.val = s.begin := by
        unfold State.sampleExpires
        exact if_neg fun hrun => Bool.false_ne_true (hstopped.symm.trans hrun)
      exact handle_of_shown (g := fun s => s.sampleExpires k.val) hg rfl rfl
    · have hstopped (q : Nat) : (s.begin.modChannel k fun x => { x with expiryRunning := false }).channel q =
          if q = k.val then { h with expiryRunning := false } else s.channel q := State.channel_setChannel ..
      obtain ⟨t, hnext, hchannel, hrest⟩ := handle_channelsOnly (g := fun s => s.sampleExpires k.val)
        (State.sampleExpires_of_running (s := s.begin) hrunning hzero hsession) (by
          dsimp only
          split_ifs
          · exact (State.modChannel_channelsOnly ..).trans (State.modChannel_channelsOnly ..)
          · exact State.modChannel_channelsOnly ..)
      refine ⟨t, hnext, ?_, fun q hq => ?_, hrest⟩
      · rw [hchannel]
        dsimp only
        by_cases hdata : h.data = true
        · rw [if_pos (show (s.begin.channel k).data = true from hdata), State.modChannel, State.channel_setChannel_self,
            hstopped, if_pos rfl, if_pos hdata]
        · have hnone : h.data = false := Bool.eq_false_iff.mpr hdata
          rw [if_neg (show ¬(s.begin.channel k).data = true from hdata), hstopped, if_pos rfl, if_neg hdata, ← hnone]
      · rw [hchannel]
        dsimp only
        split_ifs
        · rw [State.modChannel, State.channel_setChannel, if_neg hq, hstopped, if_neg hq]
        · rw [hstopped, if_neg hq]

end Sys2Proof.Machine
end

section
/-! PROOF. The evaluation of a complete batch set (R128, R129). -/

namespace Sys2Proof.Machine

variable {s t u R X : State} {k f : Nat} {h : Channel} {p q : Port} {es : List JournalEntry} {notices : BitVec 10} {n : Nat}
  {w : Nat → Bool} {mean sum : Int} {drift : Nat}

/-! ## Rounding -/

/-- Rounding half away from zero has one result. -/
theorem RoundedHalfAway.unique {n : Int} {d : Nat} {a b : Int} (ha : RoundedHalfAway n d a) (hb : RoundedHalfAway n d b) :
    a = b := by
  have hle {X x y : Int} (hx : 2 * d * x ≤ X) (hy : X < 2 * d * (y + 1)) : x ≤ y :=
    Int.lt_add_one_iff.mp (lt_of_mul_lt_mul_left (lt_of_le_of_lt hx hy) (by omega))
  rcases Int.lt_or_le n 0 with hn | hn
  · obtain ⟨ha1, ha2⟩ := ha.2 hn
    obtain ⟨hb1, hb2⟩ := hb.2 hn
    have := hle ha1 hb2
    have := hle hb1 ha2
    omega
  · obtain ⟨ha1, ha2⟩ := ha.1 hn
    obtain ⟨hb1, hb2⟩ := hb.1 hn
    exact le_antisymm (hle ha1 hb2) (hle hb1 ha2)

theorem divHalfAway_of_rounded {n : Int} {d : Nat} (hd : 0 < d) (h : RoundedHalfAway n d mean) : divHalfAway n d = mean :=
  (divHalfAway_spec n hd).unique h

theorem alarmParts_eq (alarm : Nat) : alarmParts alarm = [25, 50, 100, 200, 400].getD alarm 400 := by
  match alarm with
  | 0 | 1 | 2 | 3 | 4 => rfl
  | _ + 5 => rfl

/-! ## The three cases of a set (R129) -/

/-- The channel once a set is evaluated. -/
def Channel.evaluated (h : Channel) (mean : Int) (drift : Nat) : Channel :=
  if drift ≤ h.trackBand then { h with zero := mean }
  else if drift ≤ h.alarmLimit then { h with latched := h.latched || h.latchMode }
  else { h with fault := true }

/-- The entry an evaluation writes. -/
def Channel.evaluation (h : Channel) (k : Nat) (mean : Int) (drift : Nat) : List JournalEntry :=
  let detail := leSigned 4 h.zero ++ leSigned 4 mean ++ leBytes 2 drift
  if drift ≤ h.trackBand then []
  else if drift ≤ h.alarmLimit then [{ kind := 8, subject := k, detail := detail }]
  else [{ kind := 9, subject := k, detail := detail ++ leBytes 2 h.alarmLimit }]

def Channel.evaluationNotices (h : Channel) (drift : Nat) : BitVec 10 :=
  if drift ≤ h.trackBand then 0 else Notice.weight.mask ||| Notice.entry.mask

theorem State.evaluateSet_eq (hmean : (s.channel k).batchMean sum = mean) (hdrift : (s.channel k).drift mean = drift)
    (hwide : drift < 65536) :
    s.evaluateSet k sum =
      if drift ≤ (s.channel k).trackBand then s.modChannel k fun c => { c with zero := mean }
      else if drift ≤ (s.channel k).alarmLimit then
        (s.report .weight { kind := 8, subject := k, detail := leSigned 4 (s.channel k).zero ++ leSigned 4 mean ++ leBytes 2 drift }
          ).modChannel k fun c => { c with latched := c.latched || c.latchMode }
      else (s.modChannel k fun c => { c with fault := true }).report .weight
        { kind := 9, subject := k
          detail := leSigned 4 (s.channel k).zero ++ leSigned 4 mean ++ leBytes 2 drift ++ leBytes 2 (s.channel k).alarmLimit } := by
  unfold State.evaluateSet
  dsimp only
  rw [hmean, hdrift, driftField, if_pos hwide]
  split_ifs <;> rfl

/-- A set is evaluated: its channel, its entry, its notice. -/
theorem Effect.evaluateSet (heffect : Effect s (X.ported p) es notices w) (hX : X.channel k = h)
    (hmean : h.batchMean sum = mean) (hdrift : h.drift mean = drift) (hwide : drift < 65536)
    (htakes : s.journalTakes (es.length + (n + 1)) = true) :
    ∃ Y q, (X.ported p).evaluateSet k sum = Y.ported q ∧ ChannelsOnly X Y ∧ Y.channel k = h.evaluated mean drift ∧
      (∀ j, j ≠ k → Y.channel j = X.channel j) ∧
      Effect s (Y.ported q) (es ++ h.evaluation k mean drift) (notices ||| h.evaluationNotices drift) w := by
  have hmod (g : Channel → Channel) : (X.modChannel k g).channel k = g h ∧
      ∀ j, j ≠ k → (X.modChannel k g).channel j = X.channel j :=
    ⟨(State.channel_setChannel_self ..).trans (congrArg g hX), fun j hj =>
      (State.channel_setChannel ..).trans (if_neg hj)⟩
  have hchannel : (X.ported p).channel k = h := hX
  rw [State.evaluateSet_eq (mean := mean) (drift := drift) (by rw [hchannel]; exact hmean) (by rw [hchannel]; exact hdrift) hwide,
    hchannel]
  unfold Channel.evaluated Channel.evaluation Channel.evaluationNotices
  dsimp only
  by_cases hband : drift ≤ h.trackBand
  · simp only [if_pos hband]
    refine ⟨X.modChannel k fun c => { c with zero := mean }, p, State.modChannel_ported .., State.modChannel_channelsOnly ..,
      (hmod _).1, (hmod _).2, ?_⟩
    rw [List.append_nil, show (notices ||| 0 : BitVec 10) = notices from BitVec.or_zero]
    exact heffect.records_changed rfl
  simp only [if_neg hband, ← BitVec.or_assoc]
  by_cases hlimit : drift ≤ h.alarmLimit
  · simp only [if_pos hlimit]
    obtain ⟨q, hq, heffect'⟩ := heffect.report htakes .weight
      { kind := 8, subject := k, detail := leSigned 4 h.zero ++ leSigned 4 mean ++ leBytes 2 drift }
    refine ⟨X.modChannel k fun c => { c with latched := c.latched || c.latchMode }, q, ?_, State.modChannel_channelsOnly ..,
      (hmod _).1, (hmod _).2, heffect'.records_changed rfl⟩
    rw [hq, State.modChannel_ported]
  · simp only [if_neg hlimit]
    obtain ⟨q, hq, heffect'⟩ := (heffect.records_changed (R' := X.modChannel k fun c => { c with fault := true }) rfl).report
      htakes .weight
      { kind := 9, subject := k
        detail := leSigned 4 h.zero ++ leSigned 4 mean ++ leBytes 2 drift ++ leBytes 2 h.alarmLimit }
    refine ⟨X.modChannel k fun c => { c with fault := true }, q, ?_, State.modChannel_channelsOnly .., (hmod _).1, (hmod _).2,
      heffect'⟩
    rw [State.modChannel_ported, hq]

/-- A handling that changes channels and writes entries. -/
theorem handle_channels_logged {g : State → State} (hg : g s.begin = R.ported q) (hR : ChannelsOnly s.begin R)
    (heffect : Effect s (R.ported q) es notices fun _ => false) (hlen : es.length ≤ n) (hs : s.journalTakes n = true) :
    ∃ t, handle g s = .next t ∧ (∀ j, t.channel j = R.channel j) ∧ JournaledInOrder s t es ∧
      t.flags = s.flags ||| notices ∧
      t.records = State.records { s with sent := [], channels := t.channels, writeCount := t.writeCount } ∧
      OnlyWrites s t (s.journalPlace n) := by
  obtain ⟨t, hnext, hrecords, horder, hflags, honly, -⟩ := handle_ported hg heffect hlen
    (hR.of_state State.holding fun _ _ => rfl) (State.journalTakes_iff.mp hs).1
  have hof {α : Type} (f : State → α) (hf : ∀ x : State, f x.records = f x)
      (hcount : f { R with writeCount := t.writeCount } = f R) : f t = f R := by
    rw [← hf t, hrecords, hf, hcount]
  refine ⟨t, hnext, fun j => hof (fun x => x.channel j) (fun _ => rfl) rfl, horder, hflags, ?_,
    fun a hpublished hout => honly a hpublished hout⟩
  have hsame : R.records = { s.begin.records with channels := R.channels } := by
    unfold ChannelsOnly at hR
    rw [hR]
    rfl
  have hcount : State.records { R with writeCount := t.writeCount } = { R.records with writeCount := t.writeCount } := rfl
  rw [hrecords, hcount, hsame, hof State.channels (fun _ => rfl) rfl]
  rfl

/-! ## The sample that completes a set (R128) -/

/-- The channel of an eligible sample. -/
def Channel.arrived (h : Channel) : Channel := { h with data := true, expiryRunning := true, lastEligible := true }

theorem State.track_of_complete {b : BatchSet} {count : Int} (hservice : s.inService = true)
    (hconfigured : (s.channel k).configured = true) (hfault : (s.channel k).fault = false)
    (hlatched : (s.channel k).latched = false) (hset : (s.channel k).batchSet = some b) (hbatch : b.inBatch = 15)
    (hbatches : b.batches + 1 = (s.channel k).batches) (hcount : overrange count = false) :
    s.track k count true = (s.modChannel k fun c => { c with batchSet := none }).evaluateSet k (b.sum + count) := by
  unfold State.track
  dsimp only
  rw [hservice, hconfigured, hfault, hcount, hlatched, hset]
  simp only [Option.getD_some, hbatch]
  simp [hbatches]

theorem State.track_of_unconfigured {count : Int} {eligible : Bool} (hconfigured : (s.channel k).configured = false) :
    s.track k count eligible = s := by
  unfold State.track
  dsimp only
  rw [hconfigured, Bool.and_false, Bool.false_and]
  rfl

theorem State.outsideSession_of_noZeroSet {count : Int} {eligible : Bool} (hzero : (s.channel k).zeroSet = none) :
    s.outsideSession k count eligible = s.track k count eligible := by
  unfold State.outsideSession
  rw [hzero]

/-- Settles O41: the front channel's set is evaluated, the rear channel only takes its sample. -/
theorem completeBatchSetIsEvaluated : Obligations.CompleteBatchSetIsEvaluated := by
  intro b r s w mean drift f h alarm after detail hmode hbay hsession hconfigured hfault hlatched hzero hset hbatch hbatches
    hspan halarm hlo hhi hrear hrearZero htakes hmean hdrift hwide
  have hservice := State.inService_iff.mpr hmode
  have hbatchesPos : 0 < 16 * h.batches := by omega
  have hcount : overrange r.front.toInt = false := decide_eq_false (by omega)
  have hne : f ≠ f + 1 := (Nat.succ_ne_self f).symm
  -- the front channel takes the sample, its set is full
  let A := s.begin.sampleArrives f true
  let X := A.modChannel f fun c => { c with batchSet := none }
  have hA : A.channel f = h.arrived := State.channel_setChannel_self ..
  have hAs (j : Nat) (hj : j ≠ f) : A.channel j = s.channel j := (State.channel_setChannel ..).trans (if_neg hj)
  have hX : X.channel f = { h.arrived with batchSet := none } :=
    (State.channel_setChannel_self ..).trans (by rw [hA])
  have hXs (j : Nat) (hj : j ≠ f) : X.channel j = s.channel j :=
    (State.channel_setChannel ..).trans ((if_neg hj).trans (hAs j hj))
  have htracked : A.outsideSession f r.front.toInt true = X.evaluateSet f (w.sum + r.front.toInt) := by
    rw [State.outsideSession_of_noZeroSet (by rw [hA]; exact hzero)]
    exact State.track_of_complete hservice (by rw [hA]; exact hconfigured) (by rw [hA]; exact hfault)
      (by rw [hA]; exact hlatched) (by rw [hA]; exact hset) hbatch (by rw [hA]; exact hbatches) hcount
  -- the set is evaluated
  have hdrifted : ({ h.arrived with batchSet := none } : Channel).drift mean = drift := by
    show (divHalfAway ((mean - h.zero).natAbs * h.wref) h.span).toNat = drift
    rw [divHalfAway_of_rounded hspan hdrift]
    rfl
  obtain ⟨Y, q, hY, hXY, hYf, hYs, heffect⟩ := Effect.evaluateSet (X := X) (p := s.port) (k := f) (mean := mean) (n := 0)
    (sum := w.sum + r.front.toInt) (drift := drift) (w := fun _ => false)
    ((Effect.start htakes).records_changed rfl) hX (divHalfAway_of_rounded hbatchesPos hmean) hdrifted hwide htakes
  -- the rear channel takes its sample
  let Z := Y.sampleArrives (f + 1) true
  have hZ (j : Nat) : Z.channel j = if j = f + 1 then (Y.channel (f + 1)).arrived else Y.channel j :=
    State.channel_setChannel ..
  have hYrear : Y.channel (f + 1) = s.channel (f + 1) := (hYs _ hne.symm).trans (hXs _ hne.symm)
  have hrearDone : (Z.ported q).outsideSession (f + 1) r.rear.toInt true = Z.ported q := by
    have hself : (Z.ported q).channel (f + 1) = (s.channel (f + 1)).arrived := by
      rw [State.channel_ported, hZ, if_pos rfl, hYrear]
    rw [State.outsideSession_of_noZeroSet (by rw [hself]; exact hrearZero)]
    exact State.track_of_unconfigured (by rw [hself]; exact hrear)
  have hsample : s.begin.platformSample b r.front.toInt r.rear.toInt = Z.ported q := by
    have heligible : (s.begin.inService && (s.begin.bay b).state == .empty) = true :=
      Bool.and_eq_true_iff.mpr ⟨hservice, beq_iff_eq.mpr hbay⟩
    have hfront : (s.begin.sampleArrives f true).outsideSession f r.front.toInt true = Y.ported q := htracked.trans hY
    have hrearChannel : rearChannel b = f + 1 := by
      unfold rearChannel
      omega
    have hopen : (s.begin.bay b).session = none := hsession
    unfold State.platformSample
    rw [heligible, hrearChannel, hopen]
    dsimp only
    rw [show frontChannel b = f from rfl, hfront]
    exact hrearDone
  have hfinal : ChannelsOnly s.begin Z :=
    ((State.modChannel_channelsOnly ..).trans (State.modChannel_channelsOnly ..)).trans
      (hXY.trans (State.modChannel_channelsOnly ..))
  have hlength : ([] ++ ({ h.arrived with batchSet := none } : Channel).evaluation f mean drift).length ≤ 1 := by
    unfold Channel.evaluation
    dsimp only
    split_ifs <;> simp
  obtain ⟨t, hnext, hchannel, horder, hflags, hrecords, honly⟩ := handle_channels_logged
    (g := fun s => s.platformSample b r.front.toInt r.rear.toInt) hsample hfinal (heffect.records_changed rfl) hlength htakes
  have hlimit : ({ h.arrived with batchSet := none } : Channel).alarmLimit = alarm := by
    show h.cap * alarmParts h.alarm / 10000 = alarm
    rw [alarmParts_eq]
  refine ⟨t, hnext, ?_, ?_, fun j hjf hjr => ?_, ?_, ?_, hrecords, honly⟩
  · rw [hchannel, hZ, if_neg hne, hYf, Channel.evaluated, hlimit]
    have hlatch : (h.arrived.latched || h.arrived.latchMode) = h.latchMode := by
      rw [show h.arrived.latched = false from hlatched, Bool.false_or]
      rfl
    rw [show ({ h.arrived with batchSet := none } : Channel).trackBand = h.trackBand from rfl]
    split_ifs
    · rfl
    · dsimp only
      rw [hlatch]
      rfl
    · rfl
  · rw [hchannel, hZ, if_pos rfl, hYrear]
    rfl
  · rw [hchannel, hZ, if_neg hjr, hYs j hjf, hXs j hjf]
  · rw [List.nil_append, Channel.evaluation, hlimit] at horder
    exact horder
  · rw [hflags, Channel.evaluationNotices]
    rw [show ({ h.arrived with batchSet := none } : Channel).trackBand = h.trackBand from rfl]
    split_ifs
    · exact BitVec.or_zero
    · rw [BitVec.or_assoc]
      exact congrArg (s.flags ||| ·) BitVec.zero_or

end Sys2Proof.Machine
end

section
/-! PROOF. An arrival that does not settle (R125, R140; log entries 4 and 34). -/

namespace Sys2Proof.Machine

variable {s t u R : State} {b : Nat} {p : PlatformSession}

theorem State.bay_modBay (s : State) (b d : Nat) (f : Bay → Bay) :
    (s.modBay b f).bay d = if d = b then f (s.bay b) else s.bay d := State.bay_setBay ..

theorem State.bay_modBay_self (s : State) (b : Nat) (f : Bay → Bay) : (s.modBay b f).bay b = f (s.bay b) := by
  rw [State.bay_modBay, if_pos rfl]

theorem State.modBay_records (s : State) (b : Nat) (f : Bay → Bay) :
    (s.modBay b f).records = { s.records with bays := (s.modBay b f).bays } := rfl

/-- The bay an arrival leaves that ends without tares. -/
def Bay.dropped (v : Bay) : Bay := { v.withoutTruck with state := .empty, session := none, waitingCell := none }

/-- The bay of an arrival once its session is over. -/
def State.emptied (s : State) (b : Nat) : State :=
  (((s.modBay b fun k => { k with session := none }).modBay b fun k => { k with state := .empty }).modBay b
    Bay.withoutTruck).modBay b fun k => { k with waitingCell := none }

theorem State.bay_emptied (s : State) (b d : Nat) :
    (s.emptied b).bay d = if d = b then (s.bay b).dropped else s.bay d := by
  unfold State.emptied
  by_cases hd : d = b
  · rw [if_pos hd, hd, State.bay_modBay_self, State.bay_modBay_self, State.bay_modBay_self, State.bay_modBay_self]
    rfl
  · rw [if_neg hd]
    simp only [State.bay_modBay, if_neg hd]

theorem State.emptied_records (s : State) (b : Nat) :
    (s.emptied b).records = { s.records with bays := (s.emptied b).bays } := by
  unfold State.emptied
  rw [State.modBay_records, State.modBay_records, State.modBay_records, State.modBay_records]

theorem State.of_emptied {α : Type} (s : State) (b : Nat) (f : State → α) (hf : ∀ x g, f (State.modBay x b g) = f x) :
    f (s.emptied b) = f s := by
  unfold State.emptied
  rw [hf, hf, hf, hf]

/-- An arrival that ends UNSETTLED: the bay is emptied, its cell answered. -/
theorem State.endPlatformSession_unsettled {n take : Nat} (hstate : (s.bay b).state = .arriving)
    (hcell : (s.bay b).waitingCell = some (n, take)) :
    s.endPlatformSession b .arrival .unsettled = (s.emptied b).answer n take (.unsettledTruck 4 4 4 0 0) := by
  have hkept : ((s.modBay b fun k => { k with session := none }).bay b).state ≠ .empty := by
    rw [State.bay_modBay_self]
    dsimp only
    rw [hstate]
    decide
  have hset : (s.modBay b fun k => { k with session := none }).setBayState b .empty =
      (s.modBay b fun k => { k with session := none }).modBay b fun k => { k with state := .empty } := by
    unfold State.setBayState
    dsimp only
    rw [if_neg fun hboth => hkept hboth.1]
  have hwaiting : ((((s.modBay b fun k => { k with session := none }).modBay b fun k => { k with state := .empty }).modBay b
      Bay.withoutTruck).bay b).waitingCell = some (n, take) := by
    rw [State.bay_modBay_self, State.bay_modBay_self, State.bay_modBay_self]
    exact hcell
  unfold State.endPlatformSession
  dsimp only
  unfold State.settlePlatform State.settleArrival State.dropArrival
  dsimp only
  rw [hset, State.answerWaiting, hwaiting]
  rfl

/-- The last SAMPLE of a session that does not settle. -/
theorem State.platformSessionSample_unsettled {front rear : Int} {n take : Nat}
    (hcell : (s.bay b).waitingCell = some (n, take)) (hcount : p.count = 99)
    (hsettled : ((p.front.take (s.channel (frontChannel b)) front).settled (s.channel (frontChannel b))
      && (p.rear.take (s.channel (rearChannel b)) rear).settled (s.channel (rearChannel b))) = false) :
    s.platformSessionSample b p front rear = s.endPlatformSession b p.purpose .unsettled := by
  unfold State.platformSessionSample
  dsimp only
  rw [State.noteStage, hcell, hcount]
  unfold platformEnd
  dsimp only
  rw [hsettled, if_neg Bool.false_ne_true, if_pos (by decide)]
  dsimp only
  rw [if_neg (by decide)]

/-- A sample that is not eligible leaves a channel's pipeline as it is. -/
theorem ChannelWindow.take_sampled (x : ChannelWindow) (h : Channel) (serving : Bool) (count : Int) :
    (x.take (h.sampled serving) count).settled (h.sampled serving) = (x.take h count).settled h := rfl

/-- Settles O42: the samples reach their channels, and the session ends with the 100th. -/
theorem sessionExpiryEndsTheArrival : Obligations.SessionExpiryEndsTheArrival := by
  refine ⟨fun _ _ _ => rfl, fun _ _ _ => rfl, ?_⟩
  intro b r s p n take f after hstate hsession hpurpose hcount hcell hn hcurrent hfront hrear hsettled
  have heligible : (s.begin.inService && (s.begin.bay b).state == .empty) = false := by
    have hkept : ((s.begin.bay b).state == .empty) = false := by
      rw [show (s.begin.bay b).state = .arriving from hstate]
      rfl
    rw [hkept, Bool.and_false]
  have hrearChannel : rearChannel b = f + 1 := by
    unfold rearChannel
    omega
  obtain ⟨X, hXeq⟩ : ∃ X, X = (s.begin.sampledAt f).sampledAt (f + 1) := ⟨_, rfl⟩
  have hX : ChannelsOnly s.begin X := by
    rw [hXeq]
    exact (State.sampledAt_channelsOnly ..).trans (State.sampledAt_channelsOnly ..)
  have hbay (d : Nat) : X.bay d = s.bay d := hX.of_state (fun x => x.bay d) fun _ _ => rfl
  have hchannel (q : Nat) :
      X.channel q = if q = f ∨ q = f + 1 then (s.channel q).sampled s.inService else s.channel q := by
    rw [hXeq]
    exact s.begin.channel_sampledAt_twice f q
  have hsampled : s.begin.platformSample b r.front.toInt r.rear.toInt =
      (X.emptied b).answer n take (.unsettledTruck 4 4 4 0 0) := by
    have hrear' : ((s.begin.sampledAt f).channel (f + 1)).zeroSet = none := by
      rw [State.channel_sampledAt, if_neg (Nat.succ_ne_self f)]
      exact hrear
    have hends : X.platformSessionSample b p r.front.toInt r.rear.toInt = X.endPlatformSession b p.purpose .unsettled := by
      refine State.platformSessionSample_unsettled (by rw [hbay]; exact hcell) hcount ?_
      rw [hrearChannel, show frontChannel b = f from rfl, hchannel, hchannel, if_pos (.inl rfl), if_pos (.inr rfl),
        ChannelWindow.take_sampled, ChannelWindow.take_sampled]
      exact hsettled
    unfold State.platformSample
    dsimp only
    rw [heligible, hrearChannel, show frontChannel b = f from rfl,
      show (s.begin.bay b).session = some p from hsession,
      State.outsideSession_of_ineligible (s := s.begin) hfront, State.outsideSession_of_ineligible hrear', ← hXeq]
    exact hends.trans (by rw [hpurpose, State.endPlatformSession_unsettled (by rw [hbay]; exact hstate) (by rw [hbay]; exact hcell)])
  have hmem : (X.emptied b).mem = s.mem := (X.of_emptied b State.mem fun _ _ => rfl).trans (hX.of_state State.mem fun _ _ => rfl)
  have hflags : (X.emptied b).flags = s.flags := 
    (X.of_emptied b State.flags fun _ _ => rfl).trans (hX.of_state State.flags fun _ _ => rfl)
  obtain ⟨t, hnext, hrecords, hanswered⟩ := handle_answered (s := s) (u := X.emptied b)
    (o := { cell := n, take := take, kind := 0, tag := 0, body := [] }) (g := fun s => s.platformSample b r.front.toInt r.rear.toInt)
    hn hcurrent hsampled hmem hflags
  have hof {α : Type} (f : State → α) (hf : ∀ x : State, f x.records = f x) : f t = f (X.emptied b) := by
    rw [← hf t, hrecords, hf]
  have hbays (d : Nat) := (hof (fun x => x.bay d) fun _ => rfl).trans (X.bay_emptied b d)
  refine ⟨t, hnext, ?_, fun d hd => ?_, fun q => ?_, ?_, hanswered.shown, hanswered.notice, hanswered.others⟩
  · rw [hbays, if_pos rfl, hbay]
    rfl
  · rw [hbays, if_neg hd, hbay]
  · have hsame : (X.emptied b).channel q = X.channel q := X.of_emptied b (fun x => x.channel q) fun _ _ => rfl
    rw [hof (fun x => x.channel q) (fun _ => rfl), hsame, hchannel]
    exact if_congr Iff.rfl (Channel.sampled_eq (s.channel q) s) rfl
  · have hsame : X.records = { s.begin.records with channels := X.channels } := by
      have hX' := hX
      unfold ChannelsOnly at hX'
      rw [hX']
      rfl
    rw [hrecords, State.emptied_records, hsame, hof State.bays (fun _ => rfl), hof State.channels (fun _ => rfl),
      X.of_emptied b State.channels fun _ _ => rfl]
    rfl

end Sys2Proof.Machine
end

section
/-! PROOF. CRANE_OUT and CRANE_IN (R59), and orders that write entries before they are answered. -/

namespace Sys2Proof.Machine

variable {s t u R : State} {c : Nat} {v : Crane} {p q : Port} {es : List JournalEntry} {notices : BitVec 10} {n : Nat}
  {w : Nat → Bool} {o : Order} {rest : List Order} {a : Answer}

/-! ## A crane changes -/

/-- `R` is `s` but for crane `c`, which is `v` there. -/
structure CraneChange (s R : State) (c : Nat) (v : Crane) : Prop where
  crane : R.crane c = v
  cranes : ∀ j, j ≠ c → R.crane j = s.crane j
  rest : R = { s with cranes := R.cranes, touched := R.touched }

theorem CraneChange.refl (s : State) (c : Nat) : CraneChange s s c (s.crane c) := ⟨rfl, fun _ _ => rfl, rfl⟩

theorem CraneChange.modCrane (h : CraneChange s R c v) (f : Crane → Crane) : CraneChange s (R.modCrane c f) c (f v) where
  crane := (State.crane_setCrane_self ..).trans (congrArg f h.crane)
  cranes j hj := (State.crane_setCrane ..).trans ((if_neg hj).trans (h.cranes j hj))
  rest := by
    have hmod : R.modCrane c f = { R with cranes := (R.modCrane c f).cranes, touched := (R.modCrane c f).touched } := rfl
    have hrest := h.rest
    rw [hmod]
    generalize (R.modCrane c f).cranes = cranes
    generalize (R.modCrane c f).touched = touched
    rw [hrest]

theorem CraneChange.of_state {α : Type} (h : CraneChange s R c v) (f : State → α)
    (hf : ∀ cranes touched, f { s with cranes := cranes, touched := touched } = f s) : f R = f s := by
  have hrest := h.rest
  rw [hrest, hf]

theorem CraneChange.quiet (h : CraneChange s R c v) (hs : s.runwayQuiet) (hyield : v.yield = none)
    (hdeferral : v.deferral = none) : R.runwayQuiet := by
  obtain ⟨hrequests, hstalled, hcranes⟩ := hs
  refine ⟨(h.of_state State.requests fun _ _ => rfl).trans hrequests,
    (h.of_state State.stalled fun _ _ => rfl).trans hstalled, fun j => ?_⟩
  by_cases hj : j = c
  · rw [hj, h.crane]
    exact ⟨hyield, hdeferral⟩
  · rw [h.cranes j hj]
    exact hcranes j

/-! ## An order with entries -/

theorem ShowsAnswer.congr (h : ShowsAnswer s n a) (hn : n < 128)
    (hbytes : ∀ b, 0x1000 ≤ b → b < 0x9000 → t.readByte b = s.readByte b) : ShowsAnswer t n a := by
  obtain ⟨hlo, hhi⟩ := cellOffset_bounds hn
  exact ⟨(State.readBytes_congr _ _ _ fun k hk => hbytes _ (by omega) (by omega)).trans h.area,
    (hbytes _ (by omega) (by omega)).trans h.code, (hbytes _ (by omega) (by omega)).trans h.state⟩

/-- An order's work whose entries are written and whose cell is then answered. -/
theorem takeOrder_logged {y : Owner} {k : Nat} {f : State → Order → State} (h : TakenUp s y k o rest)
    (hf : f (s.begin.setInbound y rest) o = (R.ported p).reply o a) (heffect : Effect s (R.ported p) es notices fun _ => false)
    (hlen : es.length ≤ n) (hheld : R.holding = s.holding) (htakes : s.journalTakes n = true) :
    ∃ t, handle (takeOrder y k f) s = .next t ∧ t.records = State.records { R with writeCount := t.writeCount } ∧
      JournaledInOrder s t es ∧ ShowsAnswer t o.cell a ∧ t.flags = s.flags ||| (notices ||| Notice.answer.mask) ∧
      OnlyWrites s t (fun b => answerByte o.cell b || s.journalPlace n b) := by
  have hcurrent : (R.ported p).cellIsOf o.cell o.take = true :=
    (heffect.cellIsOf h.cell fun _ _ _ => rfl).trans h.current
  obtain ⟨q, hq, heffect', hshown, -⟩ := heffect.answer h.cell hcurrent a
  obtain ⟨t, hnext, hrecords, horder, hflags, honly, hbytes⟩ := handle_ported
    (((takeOrder_begin h).trans hf).trans hq) heffect' hlen hheld (State.journalTakes_iff.mp htakes).1
  refine ⟨t, hnext, hrecords, horder, hshown.congr h.cell hbytes, hflags, fun b hpublished hout => honly b hpublished ?_⟩
  dsimp only at hout ⊢
  rwa [Bool.or_false]

theorem Effect.start_inbound {y : Owner} (hs : s.journalTakes n = true) :
    Effect s ((s.begin.setInbound y rest).ported s.port) [] 0 w :=
  (Effect.start hs).records_changed (by cases y <;> rfl)

/-! ## A crane that leaves IDLE or does not stand in it -/

theorem State.setCraneState_of_notIdle {st : CraneState} (hstate : (s.crane c).state ≠ .idle) :
    s.setCraneState c st = s.modCrane c fun k => { k with state := st } := by
  unfold State.setCraneState
  dsimp only
  rw [if_neg fun hboth => hstate hboth.1]

theorem Causes.isEmpty_iff (x : Causes) : x.isEmpty = true ↔ x = {} := by
  obtain ⟨a, b, c, d⟩ := x
  cases a <;> cases b <;> cases c <;> cases d <;> decide

theorem State.craneOrder_of_taken {test : Crane → Bool} {f : State → Nat → State} (hc : Body.crane o.body = c) (hlt : c ≤ 3)
    (hfitted : s.fitted c = true) (htest : test (s.crane c) = true) :
    State.craneOrder test f s o = (f s c).reply o .ok := by
  unfold State.craneOrder
  dsimp only
  rw [hc, if_neg (by omega), hfitted, htest]
  rfl

theorem State.craneOrder_of_refused {test : Crane → Bool} {f : State → Nat → State} (hc : Body.crane o.body = c)
    (hlt : c ≤ 3) (htest : (s.fitted c && test (s.crane c)) = false) :
    State.craneOrder test f s o =
      s.reply o { code := .craneState, area := [byte c, byte (s.crane c).state.code] } := by
  unfold State.craneOrder
  dsimp only
  rw [hc, if_neg (by omega), htest]
  rfl

theorem Crane.mayLeave_iff (k : Crane) :
    k.mayLeave = true ↔ (k.state = .idle ∨ k.state = .stopped ∧ k.resume = .idle) ∧ k.queue = [] := by
  unfold Crane.mayLeave Crane.working
  rw [Bool.and_eq_true, List.isEmpty_iff, beq_iff_eq]
  refine and_congr_left fun _ => ?_
  by_cases hstopped : k.state = .stopped
  · rw [if_pos hstopped, hstopped]
    simp
  · rw [if_neg hstopped]
    simp [hstopped]

theorem Crane.mayReturn_iff (k : Crane) : k.mayReturn = true ↔ k.state = .out ∧ k.link = .up ∧ k.lock = .locked := by
  unfold Crane.mayReturn
  rw [Bool.and_eq_true, Bool.and_eq_true, beq_iff_eq, beq_iff_eq, beq_iff_eq, and_assoc]

/-! ## CRANE_OUT -/

theorem Effect.takeOut (heffect : Effect s (R.ported p) es notices w) (hzero : (R.channel c).zeroSet = none)
    (htakes : s.journalTakes (es.length + (n + 1)) = true) :
    ∃ q, (R.ported p).takeOut c = (R.modCrane c fun k => { k with state := .out }).ported q ∧
      Effect s ((R.modCrane c fun k => { k with state := .out }).ported q) (es ++ [craneStateEntry c 9 0 0])
        (notices ||| Notice.crane.mask ||| Notice.entry.mask) w := by
  obtain ⟨q, hq, heffect'⟩ := (heffect.records_changed (R' := R.modCrane c fun k => { k with state := .out })
    rfl).craneEntry htakes c 9 0 0
  refine ⟨q, ?_, heffect'⟩
  rw [State.takeOut, State.setCraneState_of_noZeroSet (by rw [State.channel_ported]; exact hzero), State.modCrane_ported]
  exact hq

/-! ## CRANE_IN -/

/-- The causes of a crane that returns. -/
def Crane.returnCauses (k : Crane) (halted : Bool) : Causes :=
  if halted = true then { k.causes with haltAll := true } else k.causes

/-- The crane that returns. -/
def Crane.returned (k : Crane) (halted : Bool) : Crane :=
  if k.returnCauses halted = {} then { k with state := .idle }
  else { k with causes := k.returnCauses halted, resume := .idle, state := .stopped }

/-- The entries of HALT_ALL on a crane that is OUT. -/
def Crane.haltEntries (k : Crane) (c : Nat) (halted : Bool) : List JournalEntry :=
  if halted = true ∧ k.causes.haltAll = false then [craneStateEntry c 7 1 0] else []

def Crane.haltNotices (k : Crane) (halted : Bool) : BitVec 10 :=
  if halted = true ∧ k.causes.haltAll = false then Notice.crane.mask ||| Notice.entry.mask else 0

variable {s' : State} {halted : Bool}

/-- A crane that is OUT takes the cause HALT_ALL. -/
theorem CraneChange.addHaltAll (h : CraneChange s' R c v) (heffect : Effect s (R.ported p) es notices w)
    (hout : v.state = .out) (htakes : s.journalTakes (es.length + (n + 1)) = true) :
    ∃ R' q, (if halted = true then (R.ported p).addCause c .haltAll else R.ported p) = R'.ported q ∧
      CraneChange s' R' c { v with causes := v.returnCauses halted } ∧
      Effect s (R'.ported q) (es ++ v.haltEntries c halted) (notices ||| v.haltNotices halted) w := by
  have hsame (hkept : v.causes = v.returnCauses halted) (hadded : ¬(halted = true ∧ v.causes.haltAll = false)) :
      CraneChange s' R c { v with causes := v.returnCauses halted } ∧
        Effect s (R.ported p) (es ++ v.haltEntries c halted) (notices ||| v.haltNotices halted) w := by
    rw [← hkept, Crane.haltEntries, if_neg hadded, Crane.haltNotices, if_neg hadded, List.append_nil,
      show (notices ||| 0 : BitVec 10) = notices from BitVec.or_zero]
    exact ⟨h, heffect⟩
  by_cases hhalted : halted = true
  · rw [if_pos hhalted]
    have hcauses : v.returnCauses halted = { v.causes with haltAll := true } := if_pos hhalted
    cases hheld : v.causes.haltAll with
    | true =>
      refine ⟨R, p, ?_, hsame ?_ ?_⟩
      · have hhas : v.causes.has .haltAll = true := hheld
        unfold State.addCause
        dsimp only
        rw [State.crane_ported, h.crane, hhas, if_pos rfl]
      · rw [hcauses, ← hheld]
      · rw [hheld]
        exact fun hboth => Bool.noConfusion hboth.2
    | false =>
      have hadded := h.modCrane fun k => { k with causes := k.causes.put true .haltAll }
      obtain ⟨q, hq, heffect'⟩ := (heffect.records_changed
        (R' := R.modCrane c fun k => { k with causes := k.causes.put true .haltAll }) rfl).craneEntry htakes c 7 1 0
      refine ⟨R.modCrane c fun k => { k with causes := k.causes.put true .haltAll }, q, ?_, ?_, ?_⟩
      · have hhas : v.causes.has .haltAll = false := hheld
        have hstoppable : (v.causes.isEmpty && v.state.stoppable) = false := by
          rw [hout]
          exact Bool.and_false _
        unfold State.addCause
        dsimp only
        rw [State.crane_ported, h.crane, hhas, if_neg Bool.false_ne_true, hstoppable, if_neg Bool.false_ne_true,
          State.modCrane_ported]
        exact hq
      · rw [hcauses]
        exact hadded
      · rw [Crane.haltEntries, if_pos ⟨hhalted, hheld⟩, Crane.haltNotices, if_pos ⟨hhalted, hheld⟩, ← BitVec.or_assoc]
        exact heffect'
  · rw [if_neg hhalted]
    exact ⟨R, p, rfl, hsame (if_neg hhalted).symm fun hboth => hhalted hboth.1⟩

/-- A crane that is OUT returns to service. -/
theorem CraneChange.bringIn (h : CraneChange s' R c v) (heffect : Effect s (R.ported p) es notices w)
    (hs : s'.runwayQuiet) (hyield : v.yield = none) (hdeferral : v.deferral = none) (hout : v.state = .out)
    (hhalted : R.mode = .halted ↔ halted = true) (htakes : s.journalTakes (es.length + (n + 2)) = true) :
    ∃ R' q, (R.ported p).bringIn c = R'.ported q ∧ CraneChange s' R' c (v.returned halted) ∧
      Effect s (R'.ported q) (es ++ v.haltEntries c halted ++ [craneStateEntry c 10 0 0])
        (notices ||| v.haltNotices halted ||| Notice.crane.mask ||| Notice.entry.mask) w := by
  have hlength : (es ++ v.haltEntries c halted).length ≤ es.length + 1 := by
    rw [List.length_append, Crane.haltEntries]
    split_ifs <;> simp
  obtain ⟨R1, q1, hadded, h1, heffect1⟩ := h.addHaltAll (halted := halted) (n := n + 1) heffect hout htakes
  have hset : ∃ R2, (if ((R1.ported q1).crane c).causes.isEmpty then (R1.ported q1).setCraneState c .idle
      else ((R1.ported q1).modCrane c fun k => { k with resume := .idle }).setCraneState c .stopped) = R2.ported q1 ∧
      CraneChange s' R2 c (v.returned halted) ∧ R2.mode = R1.mode := by
    rw [State.crane_ported, h1.crane]
    by_cases hempty : v.returnCauses halted = {}
    · have hkept : { v with causes := v.returnCauses halted } = v := by
        rw [hempty]
        have hnone : v.causes = {} := by
          unfold Crane.returnCauses at hempty
          split_ifs at hempty
          · exact Bool.noConfusion (congrArg Causes.haltAll hempty)
          · exact hempty
        rw [← hnone]
      have hidle := h1.modCrane fun k => { k with state := .idle }
      rw [if_pos ((Causes.isEmpty_iff _).mpr hempty), State.setCraneState_of_notIdle (by
        rw [State.crane_ported, h1.crane]
        show v.state ≠ .idle
        rw [hout]
        decide), State.modCrane_ported]
      rw [hkept] at hidle
      refine ⟨_, rfl, ?_, rfl⟩
      rw [Crane.returned, if_pos hempty]
      exact hidle
    · have hstopped := (h1.modCrane fun k => { k with resume := .idle }).modCrane fun k => { k with state := .stopped }
      rw [if_neg (fun hnone => hempty ((Causes.isEmpty_iff _).mp hnone)), State.modCrane_ported,
        State.setCraneState_of_notIdle (by
          rw [State.crane_ported, (h1.modCrane fun k => { k with resume := .idle }).crane]
          show v.state ≠ .idle
          rw [hout]
          decide), State.modCrane_ported]
      refine ⟨_, rfl, ?_, rfl⟩
      rw [Crane.returned, if_neg hempty]
      exact hstopped
  obtain ⟨R2, hstate, h2, hmode⟩ := hset
  obtain ⟨q2, hq2, heffect2⟩ := (heffect1.records_changed hmode).craneEntry (n := n)
    (State.journalTakes_mono htakes (by omega)) c 10 0 0
  refine ⟨R2, q2, ?_, h2, heffect2⟩
  have hyield' : (v.returned halted).yield = none := by unfold Crane.returned; split_ifs <;> exact hyield
  have hdeferral' : (v.returned halted).deferral = none := by unfold Crane.returned; split_ifs <;> exact hdeferral
  unfold State.bringIn
  dsimp only
  rw [State.ported_mode]
  simp only [hhalted]
  rw [hadded, hstate, hq2]
  have hquiet : (R2.ported q2).runwayQuiet := (h2.quiet hs hyield' hdeferral').congr rfl rfl fun _ => ⟨rfl, rfl⟩
  exact State.afterCU_of_quiet hquiet _

/-- Settles O27: the order's test, then the crane and its entries, then the answer. -/
theorem cranesLeaveAndReturn : Obligations.CranesLeaveAndReturn := by
  have hfit (s : State) (c : Nat) (hlt : c ≤ 3) : s.fitted c = true ↔ c ≤ s.straps := by
    rw [State.fitted_iff_both]
    omega
  refine ⟨?_, ?_⟩
  · intro s o rest c htaken hcrane hlt k may
    have hmay : may ↔ ((s.begin.setInbound .cu rest).fitted c && Crane.mayLeave ((s.begin.setInbound .cu rest).crane c)) =
        true := by
      rw [Bool.and_eq_true, Crane.mayLeave_iff, hfit _ _ hlt]
      rfl
    refine ⟨fun hnot => ?_, fun hgo hzero htakes => ?_⟩
    · exact handle_takeOrder_reply (f := State.craneOrder Crane.mayLeave State.takeOut) htaken
        (State.craneOrder_of_refused hcrane hlt (Bool.eq_false_iff.mpr fun htest => hnot (hmay.mpr htest)))
    · obtain ⟨hfitted, htest⟩ := Bool.and_eq_true_iff.mp (hmay.mp hgo)
      obtain ⟨q, hq, heffect⟩ := (Effect.start_inbound (y := .cu) (rest := rest) (w := fun _ => false) htakes).takeOut
        (c := c) (n := 0) hzero htakes
      have hport : (s.begin.setInbound .cu rest).ported s.port = s.begin.setInbound .cu rest := rfl
      rw [hport] at hq
      have hchange := (CraneChange.refl (s.begin.setInbound .cu rest) c).modCrane fun k => { k with state := .out }
      obtain ⟨t, hnext, hrecords, horder, hshown, hflags, honly⟩ := takeOrder_logged (n := 1)
        (f := State.craneOrder Crane.mayLeave State.takeOut) htaken
        ((State.craneOrder_of_taken hcrane hlt hfitted htest).trans (congrArg (State.reply · o .ok) hq)) heffect (by simp)
        rfl htakes
      have hof {α : Type} (f : State → α) (hf : ∀ x : State, f x.records = f x)
          (hcount : ∀ x m, f { x with writeCount := m } = f x) :
          f t = f ((s.begin.setInbound .cu rest).modCrane c fun k => { k with state := .out }) := by
        rw [← hf t, hrecords, hf, hcount]
      refine ⟨t, hnext, (hof (fun x => x.crane c) (fun _ => rfl) fun _ _ => rfl).trans hchange.crane,
        fun j hj => (hof (fun x => x.crane j) (fun _ => rfl) fun _ _ => rfl).trans (hchange.cranes j hj), ?_, horder, hshown,
        ?_, honly⟩
      · rw [hrecords, hof State.cranes (fun _ => rfl) fun _ _ => rfl]
        rfl
      · rw [hflags, ← BitVec.or_assoc, shownNotices]
  · intro s o rest c htaken hcrane hlt k may causes entries
    have hmay : may ↔ ((s.begin.setInbound .cu rest).fitted c && Crane.mayReturn ((s.begin.setInbound .cu rest).crane c)) =
        true := by
      rw [Bool.and_eq_true, Crane.mayReturn_iff, hfit _ _ hlt]
      rfl
    refine ⟨fun hnot => ?_, fun hgo hmode hs htakes => ?_⟩
    · exact handle_takeOrder_reply (f := State.craneOrder Crane.mayReturn State.bringIn) htaken
        (State.craneOrder_of_refused hcrane hlt (Bool.eq_false_iff.mpr fun htest => hnot (hmay.mpr htest)))
    · obtain ⟨hfitted, htest⟩ := Bool.and_eq_true_iff.mp (hmay.mp hgo)
      obtain ⟨hyield, hdeferral⟩ := hs.2.2 c
      have hmodes : (s.begin.setInbound .cu rest).mode = Mode.halted ↔ decide (s.mode = Mode.halted) = true :=
        decide_eq_true_iff.symm
      obtain ⟨R, q, hq, hchange, heffect⟩ := (CraneChange.refl (s.begin.setInbound .cu rest) c).bringIn
        (halted := decide (s.mode = Mode.halted)) (n := 0)
        (Effect.start_inbound (y := .cu) (rest := rest) (w := fun _ => false) htakes) hs hyield hdeferral hgo.2.1 hmodes htakes
      have hport : (s.begin.setInbound .cu rest).ported s.port = s.begin.setInbound .cu rest := rfl
      rw [hport] at hq
      have hentries : [] ++ k.haltEntries c (decide (s.mode = Mode.halted)) ++ [craneStateEntry c 10 0 0] = entries := by
        rw [List.nil_append, Crane.haltEntries]
        simp only [decide_eq_true_eq]
        rfl
      have hcauses : k.returnCauses (decide (s.mode = Mode.halted)) = causes := by
        unfold Crane.returnCauses
        simp only [decide_eq_true_eq]
        rfl
      have hlength : ([] ++ k.haltEntries c (decide (s.mode = Mode.halted)) ++ [craneStateEntry c 10 0 0]).length ≤ 2 := by
        rw [Crane.haltEntries]
        split_ifs <;> simp
      obtain ⟨t, hnext, hrecords, horder, hshown, hflags, honly⟩ := takeOrder_logged
        (f := State.craneOrder Crane.mayReturn State.bringIn) htaken
        ((State.craneOrder_of_taken hcrane hlt hfitted htest).trans (congrArg (State.reply · o .ok) hq)) heffect hlength
        (hchange.of_state State.holding fun _ _ => rfl) htakes
      have hof {α : Type} (f : State → α) (hf : ∀ x : State, f x.records = f x)
          (hcount : ∀ x m, f { x with writeCount := m } = f x) : f t = f R := by
        rw [← hf t, hrecords, hf, hcount]
      refine ⟨t, hnext, ?_, fun j hj => (hof (fun x => x.crane j) (fun _ => rfl) fun _ _ => rfl).trans (hchange.cranes j hj), ?_,
        hentries ▸ horder, hshown, ?_, honly⟩
      · rw [hof (fun x => x.crane c) (fun _ => rfl) (fun _ _ => rfl), hchange.crane, Crane.returned]
        exact hcauses ▸ rfl
      · have hsame : R.records = { (s.begin.setInbound .cu rest).records with cranes := R.cranes } := by
          have hrest := hchange.rest
          rw [hrest]
          rfl
        have hcount : State.records { R with writeCount := t.writeCount } = { R.records with writeCount := t.writeCount } := rfl
        rw [hrecords, hcount, hsame, hof State.cranes (fun _ => rfl) fun _ _ => rfl]
        rfl
      · rw [hflags, Crane.haltNotices]
        split_ifs
        · rw [← shownNoticesTwice, BitVec.or_assoc, BitVec.or_assoc, BitVec.or_assoc]
          simp only [BitVec.or_assoc]
        · rw [← shownNotices]
          simp only [BitVec.or_assoc]
          rfl

end Sys2Proof.Machine
end

section
/-! PROOF. A crane's work on its move: phases and their progress bytes, steps, leg requests (R43, R66, R87, R90). -/

namespace Sys2Proof.Machine

variable {s t u R : State} {c m n take : Nat} {v : Crane} {h : Channel} {l : List (Nat × StepTelegram)} {x : Move}
  {phase : Phase} {kind : StepKind}

/-! ## Events on top of a move's progress -/

/-- The event so far stands on a state that had the move at `x` and byte `b` in the progress byte of cell `n`. -/
def State.worked (s : State) (m : Nat) (x : Move) (n : Nat) (b : Byte) : State :=
  (s.setMove m x).writeByte (cellOffset n + 3) b

theorem State.move_worked (s : State) (m q : Nat) (x : Move) (n : Nat) (b : Byte) :
    (s.worked m x n b).move? q = if q = m then some x else s.move? q := State.move_setMove ..

theorem State.readByte_worked (s : State) (m : Nat) (x : Move) (n : Nat) (b : Byte) (a : Nat) :
    (s.worked m x n b).readByte a = if a = cellOffset n + 3 then b else s.readByte a := State.readByte_writeByte ..

theorem State.cellIsOf_worked (s : State) (m : Nat) (x : Move) (n : Nat) (b : Byte) (take : Nat) :
    (s.worked m x n b).cellIsOf n take = s.cellIsOf n take := by
  have hother (a : Nat) (ha : a ≠ cellOffset n + 3) : (s.worked m x n b).readByte a = s.readByte a := by
    rw [State.readByte_worked, if_neg ha]
  have htake : (s.worked m x n b).readBytes (cellOffset n + 8) 4 = s.readBytes (cellOffset n + 8) 4 :=
    State.readBytes_congr _ _ _ fun k hk => hother _ (by omega)
  unfold State.cellIsOf State.cellState State.cellTake State.readNat
  rw [hother _ (by omega), htake]

theorem LinkEvent.worked (hR : LinkEvent s R c v h l) (m : Nat) (x : Move) (n : Nat) (b : Byte) :
    LinkEvent (s.worked m x n b) (R.worked m x n b) c v h l where
  crane := hR.crane
  cranes := hR.cranes
  channel := hR.channel
  channels := hR.channels
  sent := hR.sent
  transmitted := hR.transmitted
  unsent := hR.unsent
  records := by
    have hrecords : (R.worked m x n b).records = { R.records with moves := R.moves.put m x } := rfl
    rw [hrecords, hR.records, hR.moves]
    rfl
  port := by
    have hport : (R.worked m x n b).port = { R.port with mem := Tab.set 0 R.port.mem (cellOffset n + 3) b } := rfl
    rw [hport, hR.port]
    rfl

/-- A move's change of phase is shown in the progress byte of its cell (R87). -/
theorem State.setPhase_of_cell (hmove : s.move? m = some x) (horigin : x.origin = .cell n take) (habort : x.abort = none)
    (hcurrent : s.cellIsOf n take = true) :
    s.setPhase m phase = s.worked m { x with phase := phase } n (byte phase.code) := by
  have hcell : (s.setMove m { x with phase := phase }).cellIsOf n take = true := hcurrent
  unfold State.setPhase State.worked
  rw [hmove]
  dsimp only
  generalize s.setMove m { x with phase := phase } = u at hcell ⊢
  rw [horigin, habort]
  dsimp only
  rw [State.progress, if_pos hcell]

/-! ## Steps (R43, R44) -/

/-- The crane that has sent a step. -/
def Crane.stepping (v : Crane) (kind : StepKind) : Crane :=
  { v with
    lastSeq := v.nextNumber, step := some { seq := v.nextNumber, kind := kind }, givenUp := .no, waiting := none
    tagRead := if kind = .tagread then none else v.tagRead }

theorem LinkEvent.sendStep (hR : LinkEvent s R c v h l) (kind : StepKind) :
    LinkEvent s (R.sendStep c kind) c (v.stepping kind) h (l ++ [(c, stepTelegram v.nextNumber v.grant kind)]) := by
  have hsend : R.sendStep c kind =
      (R.setCrane c (v.stepping kind)).send c (stepTelegram v.nextNumber v.grant kind) := by
    unfold State.sendStep
    dsimp only
    rw [hR.crane]
    rfl
  rw [hsend]
  exact (hR.setCrane _).send _

/-- A step that is due goes out at once where the crane is not STOPPED and works over no bed. -/
theorem LinkEvent.dueStep (hR : LinkEvent s R c v h l) (hstate : v.state ≠ .stopped) (hbed : R.workBed c = none)
    (kind : StepKind) :
    LinkEvent s (R.dueStep c kind) c (v.stepping kind) h (l ++ [(c, stepTelegram v.nextNumber v.grant kind)]) := by
  have hdue : R.dueStep c kind = R.sendStep c kind := by
    unfold State.dueStep State.bedHeld
    rw [hR.crane, hbed, if_neg]
    rintro (hstop | hheld)
    · exact hstate hstop
    · cases hheld
  rw [hdue]
  exact hR.sendStep kind

theorem State.currentMove_of_head {rest : List Nat} (hqueue : (s.crane c).queue = m :: rest) (hmove : s.move? m = some x)
    (hphase : x.phase ≠ .queued) : s.currentMove c = some m := by
  unfold State.currentMove
  rw [hqueue]
  dsimp only
  rw [hmove]
  exact if_neg hphase

/-! ## A leg requested (R65, R66, R90) -/

theorem LinkEvent.requestSpan (hR : LinkEvent s R c v h l) (hgrant : v.grant = (s.crane c).grant) (target : Nat) :
    R.requestSpan c target = s.requestSpan c target := by
  unfold State.requestSpan State.runSpan
  rw [hR.crane, hgrant, hR.runway]

theorem LinkEvent.compatible (hR : LinkEvent s R c v h l) (hgrant : v.grant = (s.crane c).grant)
    (hwidth : v.halfWidth = (s.crane c).halfWidth) (htong : v.wholeTong = (s.crane c).wholeTong) {q : Request}
    (hq : q.crane = c) : R.compatible q = s.compatible q := by
  have hwidths (j : Nat) : (R.crane j).halfWidth = (s.crane j).halfWidth := by
    by_cases hj : j = c
    · rw [hj, hR.crane, hwidth]
    · rw [hR.cranes j hj]
  have hgrants (j : Nat) : (R.crane j).grant = (s.crane j).grant := by
    by_cases hj : j = c
    · rw [hj, hR.crane, hgrant]
    · rw [hR.cranes j hj]
  have hclear (i j : Nat) : R.clearance i j = s.clearance i j := by
    rw [State.clearance, hwidths, hwidths, hR.runway, State.clearance]
  have hextent (b : Nat) : R.extent b = s.extent b := by
    unfold State.extent State.runSpan
    rw [hR.bay, hR.runway]
  have hclosed (b : Nat) : R.closed b = s.closed b := by rw [State.closed, hR.bay, State.closed]
  have hneighbours : R.neighbours c = s.neighbours c := by
    unfold State.neighbours State.fitted
    rw [hR.straps]
  have hblockers (a : Span) : R.blockers c a = s.blockers c a := by
    unfold State.blockers State.separated
    rw [hneighbours]
    simp only [hclear, hgrants]
  have hbays (a : Span) (b : Nat) : R.bayAdmits c a b = s.bayAdmits c a b := by
    unfold State.bayAdmits
    rw [hclosed, hextent, hR.bay, hgrants]
  have hloaded : (R.crane c).loaded = (s.crane c).loaded := by rw [Crane.loaded, hR.crane, htong, Crane.loaded]
  have hfun : R.bayAdmits c (s.requestSpan c q.targetX) = s.bayAdmits c (s.requestSpan c q.targetX) :=
    funext fun b => hbays _ b
  unfold State.compatible
  dsimp only
  rw [hq, hR.requestSpan hgrant, hblockers, hloaded, hfun]

/-- The direction of a leg from where its crane stands (R68). -/
def Crane.directionTo (v : Crane) (target : Nat) : Direction :=
  if v.xLaser < target then .east else if target < v.xLaser then .west else .none

/-- The crane in a leg that has just been granted. -/
def Crane.onLeg (v : Crane) (q : Request) (grant : Span) : Crane :=
  { v with
    grant := grant, narrowDue := false
    leg := some
      { kind := q.kind, targetX := q.targetX, targetY := q.targetY, seq := q.seq, direction := v.directionTo q.targetX } }

/-! ## The end of such a handling -/

theorem LinkEvent.coils (hR : LinkEvent s R c v h l) : R.coils = s.coils :=
  State.of_records (u := { s with sent := R.sent, outgoing := R.outgoing, cranes := R.cranes, channels := R.channels })
    State.coils hR.records

theorem State.worked_channels (s : State) (m : Nat) (x : Move) (n : Nat) (b : Byte) :
    (s.worked m x n b).channels = s.channels := rfl

theorem State.worked_coils (s : State) (m : Nat) (x : Move) (n : Nat) (b : Byte) : (s.worked m x n b).coils = s.coils := rfl

theorem State.worked_slots (s : State) (m : Nat) (x : Move) (n : Nat) (b : Byte) : (s.worked m x n b).slots = s.slots := rfl

theorem State.worked_flags (s : State) (m : Nat) (x : Move) (n : Nat) (b : Byte) : (s.worked m x n b).flags = s.flags := rfl

theorem State.crane_worked (s : State) (m : Nat) (x : Move) (n : Nat) (b : Byte) (j : Nat) :
    (s.worked m x n b).crane j = s.crane j := rfl

theorem State.outgoingTo_worked (s : State) (m : Nat) (x : Move) (n : Nat) (b : Byte) (j : Nat) :
    (s.worked m x n b).outgoingTo j = s.outgoingTo j := rfl

theorem State.modCrane_channels (s : State) (c : Nat) (f : Crane → Crane) : (s.modCrane c f).channels = s.channels := rfl

theorem State.worked_frame (s : State) (m : Nat) (x : Move) (n : Nat) (b : Byte) (sent : List (Nat × StepTelegram))
    (outgoing : Tab (List Byte)) (cranes : Tab Crane) (channels : Tab Channel) (moves : Tab Move) (coils : Tab Coil) :
    State.records
      { s.worked m x n b with
        sent := sent, outgoing := outgoing, cranes := cranes, channels := channels, moves := moves, coils := coils } =
      State.records
        { s with
          sent := sent, outgoing := outgoing, cranes := cranes, channels := channels, moves := moves, coils := coils } := rfl

theorem progressByte_unpublished (hn : n < 128) : publishedOffset (cellOffset n + 3) = false := by
  obtain ⟨hlo, hhi⟩ := cellOffset_bounds hn
  simp only [publishedOffset, Bool.or_eq_false_iff, Bool.and_eq_false_iff, decide_eq_false_iff_not]
  omega

/-- A handling whose event stands on the state `u`. -/
theorem handle_worked {g : State → State} (hg : g s.begin = R) (hR : LinkEvent u R c v h l) :
    ∃ t, handle g s = .next t ∧ t.crane c = v ∧ (∀ j, j ≠ c → t.crane j = u.crane j) ∧ t.channel c = h ∧
      (∀ q, q ≠ c → t.channel q = u.channel q) ∧ t.sent = l ∧ Transmitted u t ∧
      t.moves = u.moves ∧ t.coils = u.coils ∧ t.channels = R.channels ∧
      t.records = State.records
        { u with
          sent := t.sent, outgoing := t.outgoing, cranes := t.cranes, channels := t.channels, moves := t.moves
          coils := t.coils } ∧
      t.flags = u.flags ∧ ∀ a, publishedOffset a = false → t.readByte a = u.readByte a := by
  obtain ⟨t, hnext, hrecords, hflags, hbytes⟩ := handle_effect g s
  rw [hg] at hrecords hflags hbytes
  have hmem : R.mem = u.mem := congrArg Port.mem hR.port
  have hsent := State.of_records State.sent hrecords
  have houtgoing := State.of_records State.outgoing hrecords
  have hmoves : t.moves = u.moves := (State.of_records State.moves hrecords).trans hR.moves
  have hcoils : t.coils = u.coils := (State.of_records State.coils hrecords).trans hR.coils
  refine ⟨t, hnext, (State.of_records (fun x => x.crane c) hrecords).trans hR.crane,
    fun j hj => (State.of_records (fun x => x.crane j) hrecords).trans (hR.cranes j hj),
    (State.of_records (fun x => x.channel c) hrecords).trans hR.channel,
    fun q hq => (State.of_records (fun x => x.channel q) hrecords).trans (hR.channels q hq),
    hsent.trans hR.sent, fun k => ?_, hmoves, hcoils, State.of_records State.channels hrecords, ?_,
    hflags.trans (congrArg Port.flags hR.port), fun b hb => ?_⟩
  · rw [State.outgoingTo, houtgoing, hsent]
    exact hR.transmitted k
  · rw [hmoves, hcoils, hrecords, hR.records, hsent, houtgoing, State.of_records State.cranes hrecords,
      State.of_records State.channels hrecords]
  · have := publishedOffset_eq_false hb
    rw [hbytes b (by omega), State.readByte_congr hmem]

end Sys2Proof.Machine
end

section
/-! PROOF. The beginning of a move (R66, R89, R90). -/

namespace Sys2Proof.Machine

variable {s t u R : State} {c m n take : Nat} {v : Crane} {h : Channel} {l : List (Nat × StepTelegram)} {x : Move}
  {phase : Phase} {kind : StepKind}

/-- The request of a leg's grant, of a crane whose request is compatible (R66). -/
theorem State.requestLeg_of_compatible {q : Request} (hheld : (s.crane q.crane).heldWide = false)
    (hcompatible : s.compatible q = true) (hquiet : (s.grantRequest q).runwayQuiet) :
    s.requestLeg q = s.grantRequest q := by
  have hjoin : s.grantOrJoin q = (s.grantRequest q, false) := by
    unfold State.grantOrJoin
    rw [hheld, hcompatible]
    rfl
  unfold State.requestLeg
  rw [hjoin]
  exact State.settleRU_of_quiet hquiet _

/-- The grant of a first leg. -/
theorem LinkEvent.grantLeg (hR : LinkEvent s R c v h l) {q : Request} (hs : s.runwayQuiet) (hq : q.crane = c)
    (hmove : q.kind = .move) (hwhole : q.remainder = false) (hyield : v.yield = none) (hdeferral : v.deferral = none)
    (hcurrent : R.currentMove c = some m) (hphase : R.phaseOf m = some .leg1Wait) :
    R.grantRequest q =
      ((R.modCrane c fun y => y.onLeg q (R.requestSpan c q.targetX)).setPhase m .leg1).dueStep c
        (.goto q.targetX q.targetY) := by
  have hleg := hR.modCrane fun y => y.onLeg q (R.requestSpan c q.targetX)
  have hcurrent' : (R.modCrane c fun y => y.onLeg q (R.requestSpan c q.targetX)).currentMove c = some m := by
    have hqueue : ((R.modCrane c fun y => y.onLeg q (R.requestSpan c q.targetX)).crane c).queue = (R.crane c).queue := by
      rw [hleg.crane, hR.crane]
      rfl
    unfold State.currentMove at hcurrent ⊢
    rw [hqueue]
    exact hcurrent
  have hphase' : (R.modCrane c fun y => y.onLeg q (R.requestSpan c q.targetX)).phaseOf m = some .leg1Wait := hphase
  have hlegs : (R.modCrane c fun y => y.onLeg q (R.requestSpan c q.targetX)) = R.modCrane c fun y =>
      { y with
        grant := R.requestSpan c q.targetX, narrowDue := false
        leg := some
          { kind := q.kind, targetX := q.targetX, targetY := q.targetY, seq := q.seq
            direction := if v.xLaser < q.targetX then .east else if q.targetX < v.xLaser then .west else .none } } := by
    unfold State.modCrane
    rw [hR.crane]
    rfl
  unfold State.grantRequest
  dsimp only
  rw [hq, hR.crane, ← hlegs, State.requestLeft_of_quiet (hleg.quiet hs hyield hdeferral), hwhole, hmove]
  simp only [Bool.false_eq_true, if_false, hcurrent', hphase']

theorem State.dueStep_channels (s : State) (c : Nat) (kind : StepKind) : (s.dueStep c kind).channels = s.channels := by
  unfold State.dueStep
  split_ifs <;> rfl

theorem State.beginner_of_head {rest : List Nat} (hservice : s.inService = true) (hfitted : s.fitted c = true)
    (hstate : (s.crane c).state = .idle) (hqueue : (s.crane c).queue = m :: rest) (hmove : s.move? m = some x)
    (hphase : x.phase = .queued) (hhook : s.recordAt (.hook c) = none) : s.beginner c = some (m, x) := by
  have hworking : (s.crane c).working = .idle := by
    rw [Crane.working, hstate, if_neg (by decide)]
  have hallows : s.hookAllows c x = true := by
    rw [State.hookAllows, hhook]
    rfl
  unfold State.beginner
  rw [hservice, hfitted, hworking]
  simp only [Bool.and_self, beq_self_eq_true, if_true]
  rw [hqueue]
  dsimp only
  rw [hmove]
  exact if_pos ⟨hphase, hallows⟩

theorem State.beginner_of_empty (hqueue : (s.crane c).queue = []) : s.beginner c = none := by
  unfold State.beginner
  rw [hqueue]
  exact ite_self _

theorem State.workBed_of_leg1 {rest : List Nat} (hqueue : (s.crane c).queue = m :: rest) (hmove : s.move? m = some x)
    (hphase : x.phase = .leg1) : s.workBed c = none := by
  have hcurrent := State.currentMove_of_head hqueue hmove (by rw [hphase]; decide)
  unfold State.workBed Move.workPlace
  rw [hcurrent, Option.bind_some, hmove]
  dsimp only
  rw [hphase]

theorem State.setWorking_of_idle {st : CraneState} (hstate : (s.crane c).state = .idle)
    (hzero : (s.channel c).zeroSet = none) : s.setWorking c st = s.modCrane c fun k => { k with state := st } := by
  unfold State.setWorking
  rw [hstate, if_neg (by decide), State.setCraneState_of_noZeroSet hzero]

/-- The begin of a move that starts from no hook, its request in hand. -/
theorem State.beginMove_of_beginner {q : Request} (hbegin : s.beginner c = some (m, x)) (hsource : ∀ y, x.source ≠ .hook y)
    (hrequest : ((s.setWorking c .busy).setPhase m .leg1Wait).legRequest c = some q) :
    s.beginMove c = ((s.setWorking c .busy).setPhase m .leg1Wait).requestLeg q := by
  unfold State.beginMove
  rw [hbegin]
  dsimp only
  cases hfrom : x.source with
  | hook y => exact absurd hfrom (hsource y)
  | _ =>
    dsimp only
    rw [hrequest]

/-- A handling on top of two phases of one move. -/
theorem handle_worked_twice {g : State → State} {x y : Move} {a b : Byte} (hg : g s.begin = R)
    (hR : LinkEvent ((s.worked m x n a).worked m y n b) R c v h l) (hn : n < 128) :
    ∃ t, handle g s = .next t ∧ t.crane c = v ∧ (∀ j, j ≠ c → t.crane j = s.crane j) ∧ t.move? m = some y ∧
      (∀ q, q ≠ m → t.move? q = s.move? q) ∧ t.channels = R.channels ∧ t.sent = l ∧ Transmitted s t ∧
      t.records = State.records
        { s with
          sent := t.sent, outgoing := t.outgoing, cranes := t.cranes, channels := t.channels, moves := t.moves } ∧
      t.flags = s.flags ∧ t.readByte (cellOffset n + 3) = b ∧ OnlyWrites s t (fun a => a == cellOffset n + 3) := by
  obtain ⟨t, hnext, hcrane, hcranes, -, -, hsent, htransmitted, hmoves, hcoils, hchannels, hrecords, hflags, hbytes⟩ :=
    handle_worked hg hR
  have hlive (j : Nat) : t.move? j = if j = m then some y else s.move? j := by
    rw [State.move?, hmoves, ← State.move?, State.move_worked, State.move_worked]
    split_ifs <;> rfl
  have hframe : t.records = State.records
      { s with
        sent := t.sent, outgoing := t.outgoing, cranes := t.cranes, channels := t.channels, moves := t.moves } := by
    rw [hcoils, State.worked_coils, State.worked_coils] at hrecords
    exact hrecords.trans ((State.worked_frame ..).trans (State.worked_frame ..))
  refine ⟨t, hnext, hcrane, fun j hj => ?_, ?_, fun j hj => ?_, hchannels, hsent, fun j => ?_, hframe, ?_, ?_,
    fun i hi hout => ?_⟩
  · rw [hcranes j hj, State.crane_worked, State.crane_worked]
  · rw [hlive, if_pos rfl]
  · rw [hlive, if_neg hj]
  · rw [htransmitted j, State.outgoingTo_worked, State.outgoingTo_worked]
  · rw [hflags, State.worked_flags, State.worked_flags]
  · rw [hbytes _ (progressByte_unpublished hn), State.readByte_worked, if_pos rfl]
  · have hne : i ≠ cellOffset n + 3 := beq_eq_false_iff_ne.mp hout
    rw [hbytes i hi, State.readByte_worked, if_neg hne, State.readByte_worked, if_neg hne]

theorem Crane.stepping_goto (v : Crane) (a b : Nat) :
    v.stepping (.goto a b) =
      { v with
        lastSeq := v.nextNumber, step := some { seq := v.nextNumber, kind := .goto a b }, givenUp := .no
        waiting := none } := by
  unfold Crane.stepping
  rw [if_neg (by simp)]

/-- Settles O35: the phase, the request and its grant, the GOTO, one after the other. -/
theorem moveBeginStartsLegOne : Obligations.MoveBeginStartsLegOne := by
  refine ⟨?_, ?_⟩
  · intro c s m n take rest v k next number grant hmode hc hstate hqueue hmove hphase hcrane hsource hhook habort horigin hn
      hcurrent hs hheld hzero hcompatible
    obtain ⟨hyield, hdeferral⟩ := hs.2.2 c
    let q : Request := { crane := c, kind := .move, targetX := v.sourceX, targetY := v.sourceY, seq := v.seq }
    -- the crane is BUSY
    have hbusy := (LinkEvent.start s c).modCrane fun y => { y with state := .busy }
    have hworking : s.begin.setWorking c .busy = s.begin.modCrane c fun y => { y with state := .busy } :=
      State.setWorking_of_idle hstate hzero
    -- the move waits for its leg
    have hwaits := hbusy.worked m { v with phase := .leg1Wait } n (byte Phase.leg1Wait.code)
    have hset : (s.begin.setWorking c .busy).setPhase m .leg1Wait =
        (s.begin.modCrane c fun y => { y with state := .busy }).worked m { v with phase := .leg1Wait } n
          (byte Phase.leg1Wait.code) := by
      rw [hworking]
      exact State.setPhase_of_cell hmove horigin habort hcurrent
    have hRchannels : ((s.begin.modCrane c fun y => { y with state := .busy }).worked m { v with phase := .leg1Wait } n
        (byte Phase.leg1Wait.code)).channels = s.channels := rfl
    generalize hR : (s.begin.modCrane c fun y => { y with state := .busy }).worked m { v with phase := .leg1Wait } n
      (byte Phase.leg1Wait.code) = R at hwaits hset hRchannels
    generalize hu : s.worked m { v with phase := .leg1Wait } n (byte Phase.leg1Wait.code) = u at hwaits
    have hRmove : R.move? m = some { v with phase := .leg1Wait } := by rw [← hR, State.move_worked, if_pos rfl]
    have hRqueue : (R.crane c).queue = m :: rest := by rw [hwaits.crane]; exact hqueue
    have hRcurrent := State.currentMove_of_head hRqueue hRmove fun hqueued => by cases hqueued
    have hrequest : R.legRequest c = some q := by
      unfold State.legRequest
      rw [hRcurrent]
      dsimp only
      rw [hRmove]
    have hquiet : u.runwayQuiet := by rw [← hu]; exact hs
    have hfits : R.compatible q = true := by
      have hsame : u.compatible q = s.compatible q := by rw [← hu]; rfl
      rw [hwaits.compatible (by rw [← hu]; rfl) (by rw [← hu]; rfl) (by rw [← hu]; rfl) rfl, hsame]
      exact hcompatible
    have hspan : R.requestSpan c v.sourceX = grant := by
      have hsame : u.requestSpan c v.sourceX = s.requestSpan c v.sourceX := by rw [← hu]; rfl
      rw [hwaits.requestSpan (by rw [← hu]; rfl), hsame]
    -- the leg is granted
    have hgranted := hwaits.modCrane fun y => y.onLeg q grant
    have hgrant := hwaits.grantLeg (q := q) hquiet rfl rfl rfl hyield hdeferral hRcurrent
      (by rw [State.phaseOf, hRmove]; rfl)
    rw [show q.targetX = v.sourceX from rfl, hspan] at hgrant
    have hRcell : (R.modCrane c fun y => y.onLeg q grant).cellIsOf n take = true := by
      have hsame : (R.modCrane c fun y => y.onLeg q grant).cellIsOf n take = R.cellIsOf n take := rfl
      rw [hsame, ← hR, State.cellIsOf_worked]
      exact hcurrent
    have hleg : (R.modCrane c fun y => y.onLeg q grant).setPhase m .leg1 =
        (R.modCrane c fun y => y.onLeg q grant).worked m { v with phase := .leg1 } n (byte Phase.leg1.code) :=
      State.setPhase_of_cell (x := { v with phase := .leg1Wait }) hRmove horigin habort hRcell
    rw [hleg] at hgrant
    -- the GOTO goes out
    have hinLeg := hgranted.worked m { v with phase := .leg1 } n (byte Phase.leg1.code)
    have hbed : ((R.modCrane c fun y => y.onLeg q grant).worked m { v with phase := .leg1 } n
        (byte Phase.leg1.code)).workBed c = none :=
      State.workBed_of_leg1 (m := m) (rest := rest) (x := { v with phase := .leg1 }) (by rw [hinLeg.crane]; exact hqueue)
        (by rw [State.move_worked, if_pos rfl]) rfl
    have hsent := hinLeg.dueStep (fun hstop => by cases hstop) hbed (.goto v.sourceX v.sourceY)
    have hdone := hsent.quiet (by exact hquiet) hyield hdeferral
    have hg : s.begin.afterCU (s.begin.beginMove c) = ((R.modCrane c fun y => y.onLeg q grant).worked m
        { v with phase := .leg1 } n (byte Phase.leg1.code)).dueStep c (.goto v.sourceX v.sourceY) := by
      rw [State.beginMove_of_beginner (s := s.begin) (State.beginner_of_head (s := s.begin) (State.inService_iff.mpr hmode)
        (State.fitted_iff_both.mpr ⟨hc, c.isLt⟩) hstate hqueue hmove hphase hhook) hsource (by rw [hset]; exact hrequest),
        hset, State.requestLeg_of_compatible (by rw [hwaits.crane]; exact hheld) hfits (by rw [hgrant]; exact hdone), hgrant]
      exact State.afterCU_of_quiet hdone _
    rw [← hu] at hsent
    obtain ⟨t, hnext, htcrane, hcranes, htmove, htmoves, hchannels, htsent, htransmitted, hrecords, hrest⟩ :=
      handle_worked_twice (g := fun s => s.afterCU (s.beginMove c)) hg hsent hn
    refine ⟨t, hnext, ?_, hcranes, htmove, htmoves, htsent, htransmitted, ?_, hrest⟩
    · rw [htcrane, Crane.stepping_goto]
      rfl
    · have hkept : t.channels = s.channels := by
        rw [hchannels, State.dueStep_channels, State.worked_channels, State.modCrane_channels, hRchannels]
      rw [hrecords, hkept]
  · intro c s hqueue hs
    have hg : s.begin.afterCU (s.begin.beginMove c) = s.begin := by
      unfold State.beginMove
      rw [State.beginner_of_empty (s := s.begin) hqueue]
      exact State.afterCU_of_quiet (s := s.begin) hs _
    exact handle_of_shown (g := fun s => s.afterCU (s.beginMove c)) hg rfl rfl

end Sys2Proof.Machine
end

section
/-! PROOF. A completed step, and the report that narrows a grant (R46, R69, R88 to R98). -/

namespace Sys2Proof.Machine

variable {s t u R : State} {c m n take : Nat} {v : Crane} {h : Channel} {l : List (Nat × StepTelegram)} {x : Move}
  {phase : Phase} {kind : StepKind} {rest : List Nat} {st : Step} {coil : Coil}

/-! ## What a move's progress changes besides the crane -/

/-- `u` is `s` but for moves, coils, what is to be published, and the progress byte of cell `n`, which is `b`. -/
structure Rebased (s u : State) (n : Nat) (b : Byte) : Prop where
  records : u.records = State.records { s with moves := u.moves, coils := u.coils }
  flags : u.flags = s.flags
  byte : u.readByte (cellOffset n + 3) = b
  bytes : ∀ a, a ≠ cellOffset n + 3 → u.readByte a = s.readByte a

theorem Rebased.of_worked (s : State) (m : Nat) (x : Move) (n : Nat) (b : Byte) : Rebased s (s.worked m x n b) n b where
  records := rfl
  flags := rfl
  byte := by rw [State.readByte_worked, if_pos rfl]
  bytes a ha := by rw [State.readByte_worked, if_neg ha]

theorem Rebased.of_state {α : Type} {b : Byte} (h : Rebased s u n b) (f : State → α) (hf : ∀ x : State, f x.records = f x)
    (hsame : ∀ moves coils, f { s with moves := moves, coils := coils } = f s) : f u = f s := by
  rw [← hf u, h.records, hf, hsame]

theorem LinkEvent.setMove (hR : LinkEvent s R c v h l) (m : Nat) (x : Move) :
    LinkEvent (s.setMove m x) (R.setMove m x) c v h l where
  crane := hR.crane
  cranes := hR.cranes
  channel := hR.channel
  channels := hR.channels
  sent := hR.sent
  transmitted := hR.transmitted
  unsent := hR.unsent
  records := by
    have hrecords : (R.setMove m x).records = { R.records with moves := R.moves.put m x } := rfl
    rw [hrecords, hR.records, hR.moves]
    rfl
  port := hR.port

theorem LinkEvent.setCoil (hR : LinkEvent s R c v h l) (r : Nat) (y : Coil) :
    LinkEvent (s.setCoil r y) (R.setCoil r y) c v h l where
  crane := hR.crane
  cranes := hR.cranes
  channel := hR.channel
  channels := hR.channels
  sent := hR.sent
  transmitted := hR.transmitted
  unsent := hR.unsent
  records := by
    have hrecords : (R.setCoil r y).records = { R.records with coils := R.coils.put r y } := rfl
    rw [hrecords, hR.records, hR.coils]
    rfl
  port := hR.port

/-! ## The step completed (R46) -/

theorem State.testDone_of_step (hstep : (s.crane c).step = some st) (hstate : (s.crane c).state ≠ .fault)
    (hdone : st.seq = (s.crane c).doneSeq) : s.testDone c = s.stepDone c st := by
  unfold State.testDone
  dsimp only
  rw [hstep]
  exact if_pos ⟨hstate, hdone⟩

/-- The crane whose step is forgotten. -/
def Crane.stepless (v : Crane) : Crane := { v with step := none, givenUp := .no, waiting := none }

theorem State.stepDone_of_move (hleg : ((s.clearStep c).crane c).onYieldLeg = false)
    (hcurrent : (s.clearStep c).currentMove c = some m) (hmove : (s.clearStep c).move? m = some x)
    (hquiet : ((s.clearStep c).phaseDone m x st.kind).runwayQuiet) :
    s.stepDone c st = (s.clearStep c).phaseDone m x st.kind := by
  unfold State.stepDone
  dsimp only
  rw [hleg, if_neg Bool.false_ne_true, hcurrent]
  dsimp only
  rw [hmove]
  exact State.afterCU_of_quiet hquiet _

theorem Move.safeAbort_of_none (habort : x.abort = none) : x.safeAbort = false := by
  rw [Move.safeAbort, habort]
  rfl

theorem State.workBed_of_noBed (hqueue : (s.crane c).queue = m :: rest) (hmove : s.move? m = some x)
    (hphase : x.phase ≠ .queued) (hbeds : ∀ b e, x.source ≠ .bed b e ∧ x.dest ≠ .bed b e) : s.workBed c = none := by
  have hcurrent := State.currentMove_of_head hqueue hmove hphase
  have hplace (p : Place) (hp : x.workPlace = some p) : p = x.source ∨ p = x.dest := by
    unfold Move.workPlace at hp
    split at hp
    · exact .inl (Option.some.inj hp).symm
    · exact .inl (Option.some.inj hp).symm
    · exact .inl (Option.some.inj hp).symm
    · exact .inl (Option.some.inj hp).symm
    · split at hp
      · exact .inl (Option.some.inj hp).symm
      · exact .inr (Option.some.inj hp).symm
    · split at hp
      · exact .inl (Option.some.inj hp).symm
      · exact .inr (Option.some.inj hp).symm
    · split at hp
      · exact .inl (Option.some.inj hp).symm
      · exact .inr (Option.some.inj hp).symm
    · cases hp
  unfold State.workBed
  rw [hcurrent, Option.bind_some, hmove]
  dsimp only
  split
  · next b e hp =>
    rcases hplace _ hp with hsource | hdest
    · exact absurd hsource.symm (hbeds b e).1
    · exact absurd hdest.symm (hbeds b e).2
  · rfl

/-! ## The narrowing after a leg (R69) -/

theorem State.narrowRoom_of_open (hopen : s.closedBays = []) : s.narrowRoom c = s.roomOf c := by
  have hclosed (b : Nat) (hb : b ∈ [0, 1, 2]) : ¬s.keepsOff c b = true := fun hkeeps => by
    have hshut : s.closed b = true := by
      unfold State.keepsOff at hkeeps
      dsimp only at hkeeps
      simp only [Bool.and_eq_true] at hkeeps
      exact hkeeps.1.1.1
    have hin : b ∈ s.closedBays := List.mem_filter.mpr ⟨hb, hshut⟩
    rw [hopen] at hin
    cases hin
  unfold State.narrowRoom
  rw [List.filter_eq_nil_iff.mpr hclosed]
  rfl

theorem State.closureTests_of_open (hopen : s.closedBays = []) : s.closureTests c = s := by
  rw [State.closureTests, hopen, List.foldl_nil]

/-- The report of a crane that stands after its leg: the grant narrows to the margin around it. -/
theorem LinkEvent.reportRU_narrowing (hR : LinkEvent s R c v h l) {loadedBefore wasHeld : Bool} (hs : s.runwayQuiet)
    (hyield : v.yield = none) (hdeferral : v.deferral = none) (hleg : v.leg = none) (hnarrow : v.narrowDue = true)
    (hspeed : v.speed = 0) (hlock : v.lock = .locked) (hheld : v.heldWide = false)
    (hwidth : v.halfWidth = (s.crane c).halfWidth) (hbreach : ∀ b < 3, c ∉ (s.bay b).breach) (hopen : s.closedBays = [])
    (hroom : s.hasRoom c (s.near v)) (hlo : s.runway.lo ≤ (s.near v).lo) (hhi : (s.near v).hi ≤ s.runway.hi) :
    R.reportRU c loadedBefore wasHeld = R.setCrane c { v with narrowDue := false, grant := s.near v } := by
  have hnarrowed := hR.setCrane { v with narrowDue := false, grant := s.near v }
  have htrailed : (R.crane c).trailed R.runway.margin = (R.crane c).grant := by
    rw [Crane.trailed, hR.crane, hleg]
    rfl
  have hshrink : R.shrink c = R := by
    rw [State.shrink, htrailed]
    exact if_pos rfl
  obtain ⟨hrlo, hrhi⟩ := State.roomOf_of_hasRoom hroom hlo hhi
  have hordered : (s.near v).lo ≤ (s.near v).hi := by
    unfold State.near Span.around
    dsimp only
    omega
  have hnear : (Span.around v.xLaser R.runway.margin).limitTo (R.narrowRoom c) = s.near v := by
    rw [State.narrowRoom_of_open (hR.closedBays.trans hopen), hR.roomOf hwidth, hR.runway]
    exact Span.limitTo_of_within hordered hrlo hrhi
  have hnarrows : v.narrows = true := decide_eq_true ⟨hnarrow, hspeed, hlock, by rw [hheld]; rfl⟩
  have hnarrowing : R.narrow c = R.setCrane c { v with narrowDue := false, grant := s.near v } := by
    unfold State.narrow
    dsimp only
    rw [hR.crane, hnarrows, if_pos rfl, hnear]
    exact State.scan_of_quiet (hnarrowed.quiet hs hyield hdeferral)
  have htest (b : Nat) (hb : b < 3) : (R.setCrane c { v with narrowDue := false, grant := s.near v }).breachTest c b =
      R.setCrane c { v with narrowDue := false, grant := s.near v } := by
    have hout : ((R.setCrane c { v with narrowDue := false, grant := s.near v }).bay b).breach.contains c = false := by
      rw [hnarrowed.bay]
      simpa using hbreach b hb
    unfold State.breachTest
    dsimp only
    rw [hout]
    rfl
  have hlocked : (v.lock = .locked ∧ (!v.heldWide) = true) := ⟨hlock, by rw [hheld]; rfl⟩
  unfold State.reportRU
  dsimp only
  rw [hR.crane, if_pos hlocked, hshrink, ite_self, hnarrowing]
  simp only [List.foldl_cons, List.foldl_nil, htest 0 (by decide), htest 1 (by decide), htest 2 (by decide)]
  rw [State.closureTests_of_open (hnarrowed.closedBays.trans hopen), ite_self]

/-! ## The rest of a report -/

/-- The end of the report of a crane that is not IDLE, its step completed and its grant as RU leaves it. -/
theorem State.finishReport_of_done {R R' : State} {loadedBefore wasHeld : Bool} (hR : LinkEvent u R' c v h l)
    (hservice : R.testDone c |>.inService) (hreport : (R.testDone c).reportRU c loadedBefore wasHeld = R')
    (hstate : v.state ≠ .idle) (hsession : h.session = none) (hzero : h.zeroSet = none) :
    R.finishReport c loadedBefore wasHeld = R'.endReport c := by
  have hineligible : R'.hookEligible c = false :=
    Bool.eq_false_iff.mpr fun helig => hstate (hR.hookEligible.mp helig).2.1
  unfold State.finishReport
  dsimp only
  rw [if_pos hservice, hreport, State.hookSample_of_unweighed (by rw [hR.channel]; exact hsession)
    (by rw [hR.channel]; exact hzero) hineligible]
  rfl

end Sys2Proof.Machine
end

section
/-! PROOF. The six steps whose completion carries a move on (R90 to R98). -/

namespace Sys2Proof.Machine

variable {s t u R : State} {c m n take : Nat} {v : Crane} {h : Channel} {l : List (Nat × StepTelegram)} {x : Move}
  {phase : Phase} {kind done : StepKind} {rest : List Nat} {st : Step} {cargo : Coil}

/-- A crane's move whose cell shows its phase, that works over no bed and is not aborted (R87, R103). -/
structure OnMove (s : State) (c m n take : Nat) (rest : List Nat) (v : Crane) (x : Move) : Prop where
  queue : v.queue = m :: rest
  move : s.move? m = some x
  crane : x.crane = c
  withdrawal : x.withdrawal = none
  abort : x.abort = none
  origin : x.origin = .cell n take
  current : s.cellIsOf n take = true
  beds : ∀ b e, x.source ≠ .bed b e ∧ x.dest ≠ .bed b e
  busy : v.state = .busy

theorem LinkEvent.move (hR : LinkEvent s R c v h l) (q : Nat) : R.move? q = s.move? q := by
  rw [State.move?, hR.moves, State.move?]

theorem LinkEvent.coil (hR : LinkEvent s R c v h l) (q : Nat) : R.coil? q = s.coil? q := by
  rw [State.coil?, hR.coils, State.coil?]

theorem State.coil_worked (s : State) (m : Nat) (x : Move) (n : Nat) (b : Byte) (q : Nat) :
    (s.worked m x n b).coil? q = s.coil? q := rfl

theorem LinkEvent.slots (hR : LinkEvent s R c v h l) : R.slots = s.slots :=
  State.of_records (u := { s with sent := R.sent, outgoing := R.outgoing, cranes := R.cranes, channels := R.channels })
    State.slots hR.records

theorem LinkEvent.cellIsOf (hR : LinkEvent s R c v h l) : R.cellIsOf n take = s.cellIsOf n take :=
  State.cellIsOf_congr fun _ _ _ => State.readByte_congr (congrArg Port.mem hR.port) _

/-- The move before the first TAGREAD of its pick. -/
def Move.unread (x : Move) : Move := { x with attempts := 0 }

/-- The move passes to its next phase, and the step of that phase goes out. -/
theorem LinkEvent.advance (hR : LinkEvent s R c v h l) (hon : OnMove s c m n take rest v x) (hphase : phase ≠ .queued)
    (kind : StepKind) :
    LinkEvent (s.worked m { x with phase := phase } n (byte phase.code)) ((R.setPhase m phase).dueStep c kind) c
      (v.stepping kind) h (l ++ [(c, stepTelegram v.nextNumber v.grant kind)]) := by
  have hset : R.setPhase m phase = R.worked m { x with phase := phase } n (byte phase.code) :=
    State.setPhase_of_cell ((hR.move m).trans hon.move) hon.origin hon.abort (hR.cellIsOf.trans hon.current)
  have hworked := hR.worked m { x with phase := phase } n (byte phase.code)
  rw [hset]
  refine hworked.dueStep (by rw [hon.busy]; decide) ?_ kind
  exact State.workBed_of_noBed (x := { x with phase := phase }) (by rw [hworked.crane]; exact hon.queue)
    (by rw [State.move_worked, if_pos rfl]) hphase
    hon.beds

/-- The crane once its leg is over. -/
def Crane.landed (v : Crane) : Crane := { v with leg := none, narrowDue := true }

theorem LinkEvent.endLeg (hR : LinkEvent s R c v h l) (hs : s.runwayQuiet) (hyield : v.yield = none)
    (hdeferral : v.deferral = none) : LinkEvent s (R.endLeg c) c v.landed h l := by
  have hlanded := hR.modCrane fun y => { y with leg := none, narrowDue := true }
  have hend : R.endLeg c = R.modCrane c fun y => { y with leg := none, narrowDue := true } :=
    State.requestLeft_of_quiet (hlanded.quiet hs hyield hdeferral) ..
  rw [hend]
  exact hlanded

theorem State.seatHeight_congr (hslots : t.slots = s.slots) (hcoils : t.coils = s.coils) (y : Coil) (p : Place) :
    t.seatHeight y p = s.seatHeight y p := by
  unfold State.seatHeight State.slot State.coil?
  rw [hslots, hcoils]

/-- The leg is over, and the crane lowers at the place the move is bound for. -/
theorem LinkEvent.landOnto (hR : LinkEvent s R c v h l) (hon : OnMove s c m n take rest v x) (hs : s.runwayQuiet)
    (hyield : v.yield = none) (hdeferral : v.deferral = none) (hcoil : s.coil? x.coil = some cargo) (hphase : phase ≠ .queued)
    (p : Place) :
    LinkEvent (s.worked m { x with phase := phase } n (byte phase.code))
      (((R.endLeg x.crane).setPhase m phase).lowerOnto m p) c (v.landed.stepping (.lower (s.seatHeight cargo p))) h
      (l ++ [(c, stepTelegram v.nextNumber v.grant (.lower (s.seatHeight cargo p)))]) := by
  have hended := hR.endLeg hs hyield hdeferral
  have hland : OnMove s c m n take rest v.landed x :=
    ⟨hon.queue, hon.move, hon.crane, hon.withdrawal, hon.abort, hon.origin, hon.current, hon.beds, hon.busy⟩
  have hset : (R.endLeg c).setPhase m phase = (R.endLeg c).worked m { x with phase := phase } n (byte phase.code) :=
    State.setPhase_of_cell ((hended.move m).trans hon.move) hon.origin hon.abort (hended.cellIsOf.trans hon.current)
  have hmove : ((R.endLeg c).setPhase m phase).move? m = some { x with phase := phase } := by
    rw [hset, State.move_worked, if_pos rfl]
  have hmoveCoil : ((R.endLeg c).setPhase m phase).moveCoil m = some cargo := by
    rw [State.moveCoil, hmove, hset, Option.bind_some, State.coil_worked, hended.coil]
    exact hcoil
  have hseat : ((R.endLeg c).setPhase m phase).seatHeight cargo p = s.seatHeight cargo p := by
    rw [hset]
    exact State.seatHeight_congr ((State.worked_slots ..).trans hended.slots) ((State.worked_coils ..).trans hended.coils) cargo p
  have hlower : ((R.endLeg x.crane).setPhase m phase).lowerOnto m p =
      ((R.endLeg c).setPhase m phase).dueStep c (.lower (s.seatHeight cargo p)) := by
    rw [hon.crane, State.lowerOnto, hmove, hmoveCoil]
    dsimp only
    rw [hseat, hon.crane]
  rw [hlower]
  exact hended.advance hland hphase _

theorem Rebased.after {s1 : State} {b : Byte} (h : Rebased s1 u n b)
    (hrecords : s1.records = State.records { s with moves := s1.moves, coils := s1.coils }) (hflags : s1.flags = s.flags)
    (hmem : s1.mem = s.mem) : Rebased s u n b where
  records := by
    have hsame : State.records { s1 with moves := u.moves, coils := u.coils } =
        { s1.records with moves := u.moves, coils := u.coils } := rfl
    rw [h.records, hsame, hrecords]
    rfl
  flags := h.flags.trans hflags
  byte := h.byte
  bytes a ha := (h.bytes a ha).trans (State.readByte_congr hmem _)

/-- What a completed step has made of the move and its coil. -/
structure Carried (s u : State) (m n : Nat) (x : Move) (cargo : Coil) (phase : Phase) : Prop where
  rebased : Rebased s u n (byte phase.code)
  move : u.move? m = some { x with phase := phase, attempts := if phase = .pickVerify then 0 else x.attempts }
  moves : ∀ q, q ≠ m → u.move? q = s.move? q
  coil : u.coil? x.coil = some (if phase = .pickHoist then { cargo with placeDoubt := false } else cargo)
  coils : ∀ q, q ≠ x.coil → u.coil? q = s.coil? q

theorem Carried.of_worked (hcoil : s.coil? x.coil = some cargo) (hverify : phase ≠ .pickVerify) (hhoist : phase ≠ .pickHoist) :
    Carried s (s.worked m { x with phase := phase } n (byte phase.code)) m n x cargo phase where
  rebased := .of_worked ..
  move := by rw [State.move_worked, if_pos rfl, if_neg hverify]
  moves q hq := by rw [State.move_worked, if_neg hq]
  coil := by rw [if_neg hhoist]; exact hcoil
  coils _ _ := rfl

/-- Whether the phase is a leg, and the crane once it is over. -/
def Crane.carriedFrom (v : Crane) (phase : Phase) : Crane := if phase = .leg1 ∨ phase = .leg2 then v.landed else v

/-- The step of a move is complete, and the move goes on. -/
theorem LinkEvent.phaseDone (hR : LinkEvent s R c v h l) (hon : OnMove s c m n take rest v x) (hs : s.runwayQuiet)
    (hyield : v.yield = none) (hdeferral : v.deferral = none) (hcoil : s.coil? x.coil = some cargo)
    (hgoes : x.phase = .pickLower ∧ phase = .pickGrip ∧ kind = .grip ∨
      x.phase = .pickGrip ∧ v.tong = .closedLoaded ∧ phase = .pickVerify ∧ kind = .tagread ∨
      x.phase = .pickVerify ∧ v.tagRead = some (some cargo.id) ∧ phase = .pickHoist ∧ kind = .hoist s.runway.clearHeight ∨
      x.phase = .setLower ∧ phase = .setRelease ∧ kind = .release ∨
      x.phase = .leg1 ∧ phase = .pickLower ∧ kind = .lower (s.seatHeight cargo x.source) ∨
      x.phase = .leg2 ∧ phase = .setLower ∧ kind = .lower (s.seatHeight cargo x.dest)) :
    ∃ u, LinkEvent u (R.phaseDone m x done) c ((v.carriedFrom x.phase).stepping kind) h
        (l ++ [(c, stepTelegram v.nextNumber v.grant kind)]) ∧ Carried s u m n x cargo phase := by
  have hsafe := Move.safeAbort_of_none hon.abort
  have hstill (hphase : x.phase ≠ .leg1) (hphase' : x.phase ≠ .leg2) : v.carriedFrom x.phase = v :=
    if_neg (not_or.mpr ⟨hphase, hphase'⟩)
  rcases hgoes with ⟨hphase, rfl, rfl⟩ | ⟨hphase, htong, rfl, rfl⟩ | ⟨hphase, htag, rfl, rfl⟩ | ⟨hphase, rfl, rfl⟩ |
    ⟨hphase, rfl, rfl⟩ | ⟨hphase, rfl, rfl⟩
  · have hdone : R.phaseDone m x done = (R.setPhase m .pickGrip).dueStep c .grip := by
      unfold State.phaseDone
      rw [hon.withdrawal, hphase, hsafe, hon.crane]
      rfl
    rw [hdone, hstill (by rw [hphase]; decide) (by rw [hphase]; decide)]
    exact ⟨_, hR.advance hon (by decide) _, .of_worked hcoil (by decide) (by decide)⟩
  · have hon' : OnMove (s.setMove m x.unread) c m n take rest v x.unread :=
      ⟨hon.queue, by rw [State.move_setMove, if_pos rfl], hon.crane, hon.withdrawal, hon.abort, hon.origin, hon.current, hon.beds,
        hon.busy⟩
    have hdone : R.phaseDone m x done =
        ((R.setMove m x.unread).setPhase m .pickVerify).dueStep c .tagread := by
      have hmod : R.modMove m (fun y => { y with attempts := 0 }) = R.setMove m x.unread := by
        simp only [State.modMove, hR.move, hon.move]
        rfl
      unfold State.phaseDone
      rw [hon.withdrawal, hphase, hsafe]
      dsimp only
      rw [if_neg Bool.false_ne_true, State.gripDone, hon.crane, hR.crane, if_pos htong, hmod]
    rw [hdone, hstill (by rw [hphase]; decide) (by rw [hphase]; decide)]
    refine ⟨_, (hR.setMove m x.unread).advance hon' (by decide) _, ?_, ?_, fun q hq => ?_, hcoil, fun _ _ => rfl⟩
    · exact (Rebased.of_worked ..).after rfl rfl rfl
    · rw [State.move_worked, if_pos rfl]
      rfl
    · rw [State.move_worked, if_neg hq, State.move_setMove, if_neg hq]
  · have hon' : OnMove (s.setCoil x.coil { cargo with placeDoubt := false }) c m n take rest v x :=
      ⟨hon.queue, hon.move, hon.crane, hon.withdrawal, hon.abort, hon.origin, hon.current, hon.beds, hon.busy⟩
    have hdone : R.phaseDone m x done = ((R.setCoil x.coil { cargo with placeDoubt := false }).setPhase m .pickHoist).dueStep c
        (.hoist s.runway.clearHeight) := by
      have hmod : R.modCoil x.coil (fun y => { y with placeDoubt := false }) =
          R.setCoil x.coil { cargo with placeDoubt := false } := by
        simp only [State.modCoil, hR.coil, hcoil]
      have hread : v.tagRead.join = some (((R.coil? x.coil).map Coil.id).getD 0) := by
        rw [htag, hR.coil, hcoil]
        rfl
      have hheight : R.hoistStep = .hoist s.runway.clearHeight := by rw [State.hoistStep, hR.runway]
      unfold State.phaseDone
      rw [hon.withdrawal, hphase, hsafe]
      dsimp only
      rw [if_neg Bool.false_ne_true, State.tagDone]
      dsimp only
      rw [hon.crane, hR.crane, if_pos hread, hmod, hheight]
    rw [hdone, hstill (by rw [hphase]; decide) (by rw [hphase]; decide)]
    refine ⟨_, (hR.setCoil x.coil { cargo with placeDoubt := false }).advance hon' (by decide) _, ?_, ?_, fun q hq => ?_, ?_,
      fun q hq => ?_⟩
    · exact (Rebased.of_worked ..).after rfl rfl rfl
    · rw [State.move_worked, if_pos rfl]
      rfl
    · rw [State.move_worked, if_neg hq]
      rfl
    · exact (State.coil_setCoil ..).trans (if_pos rfl)
    · exact (State.coil_setCoil ..).trans (if_neg hq)
  · have hdone : R.phaseDone m x done = (R.setPhase m .setRelease).dueStep c .release := by
      unfold State.phaseDone
      rw [hon.withdrawal, hphase, hon.crane]
    rw [hdone, hstill (by rw [hphase]; decide) (by rw [hphase]; decide)]
    exact ⟨_, hR.advance hon (by decide) _, .of_worked hcoil (by decide) (by decide)⟩
  · have hdone : R.phaseDone m x done = ((R.endLeg x.crane).setPhase m .pickLower).lowerOnto m x.source := by
      unfold State.phaseDone
      rw [hon.withdrawal, hphase]
    rw [hdone, Crane.carriedFrom, if_pos (.inl hphase)]
    exact ⟨_, hR.landOnto hon hs hyield hdeferral hcoil (by decide) _, .of_worked hcoil (by decide) (by decide)⟩
  · have hdone : R.phaseDone m x done = ((R.endLeg x.crane).setPhase m .setLower).lowerOnto m x.dest := by
      unfold State.phaseDone
      rw [hon.withdrawal, hphase]
    rw [hdone, Crane.carriedFrom, if_pos (.inr hphase)]
    exact ⟨_, hR.landOnto hon hs hyield hdeferral hcoil (by decide) _, .of_worked hcoil (by decide) (by decide)⟩

end Sys2Proof.Machine
end

section
/-! PROOF. A STATUS that completes a step (R45, R46, R69). -/

namespace Sys2Proof.Machine

variable {s t u R : State} {c m n take : Nat} {v : Crane} {h : Channel} {l : List (Nat × StepTelegram)} {x : Move}
  {phase : Phase} {kind : StepKind} {rest : List Nat} {st : Step} {cargo : Coil} {b : Byte} {r : StatusReport}

/-! ## What a rebased state keeps -/

theorem Rebased.crane (hu : Rebased s u n b) (j : Nat) : u.crane j = s.crane j :=
  hu.of_state (fun x => x.crane j) (fun _ => rfl) fun _ _ => rfl

theorem Rebased.channel (hu : Rebased s u n b) (j : Nat) : u.channel j = s.channel j :=
  hu.of_state (fun x => x.channel j) (fun _ => rfl) fun _ _ => rfl

theorem Rebased.bay (hu : Rebased s u n b) (j : Nat) : u.bay j = s.bay j :=
  hu.of_state (fun x => x.bay j) (fun _ => rfl) fun _ _ => rfl

theorem Rebased.runway (hu : Rebased s u n b) : u.runway = s.runway := hu.of_state State.runway (fun _ => rfl) fun _ _ => rfl

theorem Rebased.inService (hu : Rebased s u n b) : u.inService = s.inService :=
  hu.of_state State.inService (fun _ => rfl) fun _ _ => rfl

theorem Rebased.closedBays (hu : Rebased s u n b) : u.closedBays = s.closedBays :=
  hu.of_state State.closedBays (fun _ => rfl) fun _ _ => rfl

theorem Rebased.quiet (hu : Rebased s u n b) (hs : s.runwayQuiet) : u.runwayQuiet :=
  hs.congr (hu.of_state State.requests (fun _ => rfl) fun _ _ => rfl)
    (hu.of_state State.stalled (fun _ => rfl) fun _ _ => rfl) fun j => by rw [hu.crane]; exact ⟨rfl, rfl⟩

theorem Rebased.near (hu : Rebased s u n b) (y : Crane) : u.near y = s.near y := by rw [State.near, hu.runway, State.near]

theorem Rebased.hasRoom (hu : Rebased s u n b) {g : Span} (hroom : s.hasRoom c g) : u.hasRoom c g := by
  have hstraps : u.straps = s.straps := hu.of_state State.straps (fun _ => rfl) fun _ _ => rfl
  unfold State.hasRoom at hroom ⊢
  simp only [hu.crane, hu.runway, hstraps]
  exact hroom

/-- A handling on top of a move's progress. -/
theorem handle_carried {g : State → State} (hg : g s.begin = R) (hR : LinkEvent u R c v h l)
    (hu : Carried s u m n x cargo phase) (hn : n < 128) :
    ∃ t, handle g s = .next t ∧ t.crane c = v ∧ (∀ j, j ≠ c → t.crane j = s.crane j) ∧
      t.move? m = some { x with phase := phase, attempts := if phase = .pickVerify then 0 else x.attempts } ∧
      (∀ q, q ≠ m → t.move? q = s.move? q) ∧
      t.coil? x.coil = some (if phase = .pickHoist then { cargo with placeDoubt := false } else cargo) ∧
      (∀ q, q ≠ x.coil → t.coil? q = s.coil? q) ∧ t.channel c = h ∧ (∀ q, q ≠ c → t.channel q = s.channel q) ∧
      t.sent = l ∧ Transmitted s t ∧
      t.records = State.records
        { s with
          sent := t.sent, outgoing := t.outgoing, cranes := t.cranes, moves := t.moves, coils := t.coils
          channels := t.channels } ∧
      t.flags = s.flags ∧ t.readByte (cellOffset n + 3) = byte phase.code ∧
      OnlyWrites s t (fun a => a == cellOffset n + 3) := by
  obtain ⟨t, hnext, hcrane, hcranes, hchannel, hchannels, hsent, htransmitted, hmoves, hcoils, -, hrecords, hflags, hbytes⟩ :=
    handle_worked hg hR
  have hmove (j : Nat) : t.move? j = u.move? j := by rw [State.move?, hmoves, State.move?]
  have hcoil (j : Nat) : t.coil? j = u.coil? j := by rw [State.coil?, hcoils, State.coil?]
  have hframe : State.records
      { u with
        sent := t.sent, outgoing := t.outgoing, cranes := t.cranes, channels := t.channels, moves := t.moves
        coils := t.coils } =
      { u.records with
        sent := t.sent, outgoing := t.outgoing, cranes := t.cranes, channels := t.channels, moves := t.moves
        coils := t.coils } := rfl
  refine ⟨t, hnext, hcrane, fun j hj => (hcranes j hj).trans (hu.rebased.crane j), (hmove m).trans hu.move,
    fun q hq => (hmove q).trans (hu.moves q hq), (hcoil _).trans hu.coil, fun q hq => (hcoil q).trans (hu.coils q hq), hchannel,
    fun q hq => (hchannels q hq).trans (hu.rebased.channel q), hsent, fun j => ?_, ?_, hflags.trans hu.rebased.flags, ?_,
    fun i hi hout => ?_⟩
  · rw [htransmitted j, State.outgoingTo, hu.rebased.of_state State.outgoing (fun _ => rfl) fun _ _ => rfl, ← State.outgoingTo]
  · rw [hrecords, hframe, hu.rebased.records]
    rfl
  · rw [hbytes _ (progressByte_unpublished hn), hu.rebased.byte]
  · rw [hbytes i hi, hu.rebased.bytes i (beq_eq_false_iff_ne.mp hout)]

/-! ## The report as RU takes it -/

/-- The crane whose grant narrows to the margin around it. -/
def State.narrowed (s : State) (v : Crane) : Crane := { v with narrowDue := false, grant := s.near v }

/-- What RU makes of the crane at the report that completed a step: after a leg the grant narrows. -/
theorem LinkEvent.reportRU_done (hR : LinkEvent u R c v h l) (hu : Rebased s u n b) {loadedBefore wasHeld : Bool}
    (hs : s.runwayQuiet) (hyield : v.yield = none) (hdeferral : v.deferral = none) (hleg : v.leg = none)
    (hbreach : ∀ b < 3, c ∉ (s.bay b).breach) (hopen : s.closedBays = []) (hlock : v.lock = .locked)
    (hheld : v.heldWide = false) (hwidth : v.halfWidth = (s.crane c).halfWidth)
    (hnarrow : v.narrowDue = true → v.speed = 0 ∧ s.runway.lo ≤ (s.near v).lo ∧ (s.near v).hi ≤ s.runway.hi ∧
      s.hasRoom c (s.near v)) :
    ∃ R', R.reportRU c loadedBefore wasHeld = R' ∧
      LinkEvent u R' c (if v.narrowDue = true then s.narrowed v else v) h l := by
  by_cases hdue : v.narrowDue = true
  · obtain ⟨hspeed, hlo, hhi, hroom⟩ := hnarrow hdue
    rw [if_pos hdue]
    have hnear := hu.near v
    refine ⟨_, hR.reportRU_narrowing (hu.quiet hs) hyield hdeferral hleg hdue hspeed hlock hheld (by rw [hu.crane]; exact hwidth)
      (fun b hb => by rw [hu.bay]; exact hbreach b hb) (hu.closedBays.trans hopen) (by rw [hnear]; exact hu.hasRoom hroom)
      (by rw [hnear, hu.runway]; exact hlo) (by rw [hnear, hu.runway]; exact hhi), ?_⟩
    rw [State.narrowed, ← hnear]
    exact hR.setCrane _
  · rw [if_neg hdue]
    refine ⟨R, ?_, hR⟩
    have hported := hR.reportRU (p := R.port) (loadedBefore := loadedBefore) (wasHeld := wasHeld)
      ⟨hleg, Bool.eq_false_iff.mpr hdue, fun b hb => by rw [hu.bay]; exact hbreach b hb,
        fun _ => .inr (hu.closedBays.trans hopen)⟩
    rwa [State.ported_port] at hported

theorem Crane.unleg (hleg : v.leg = none) (hnarrow : v.narrowDue = false) (g : Span) (hgrant : g = v.grant) :
    v = { v with leg := none, narrowDue := false, grant := g } := by
  subst hgrant
  cases v
  dsimp only at hleg hnarrow
  subst hleg hnarrow
  rfl

/-- Settles O29: the step is completed, the move goes on, RU narrows the grant after a leg, and the hook channel has its
sample. -/
theorem statusCompletesAStep : Obligations.StatusCompletesAStep := by
  intro c r s m n take rest v coil st phase kind k h u x near onLeg number hmode hc hlink hlock hxe hex hbusy hcode hlo hhi hheld
    hs hbreach hopen hsession hzero hqueue hmove hcrane hwithdrawal habort horigin hn hcurrent hbeds hcoil hstep hdone hgoes
    hleg hnoLeg
  have hservice := State.inService_iff.mpr hmode
  obtain ⟨hyield, hdeferral⟩ := hs.2.2 c
  have hphase : v.phase ≠ .queued := by
    rcases hgoes with ⟨hp, -⟩ | ⟨hp, -⟩ | ⟨hp, -⟩ | ⟨hp, -⟩ | ⟨hp, -⟩ | ⟨hp, -⟩ <;> rw [hp] <;> decide
  have hkind (a b : Nat) : kind ≠ .goto a b := by
    rcases hgoes with ⟨-, -, hk⟩ | ⟨-, -, -, hk⟩ | ⟨-, -, -, hk⟩ | ⟨-, -, hk⟩ | ⟨-, -, hk⟩ | ⟨-, -, hk⟩ <;>
      rw [hk] <;> simp
  -- the values, the lock, the tests
  have hjudged : LinkEvent s ((s.begin.stored c r).judgeLock c) c { u with missCount := 0 } h [] :=
    LinkEvent.judgeLock_hit ((LinkEvent.start s c).storeWhole hlink) hlock (Crane.took_lockDistance_le hxe hex)
  have hsound : k.state ≠ .fault := by rw [hbusy]; decide
  have htested : s.begin.tested c r = (s.begin.stored c r).judgeLock c :=
    (State.tested_of_service (s := s.begin) (hjudged.inService.trans hservice)).trans
      (hjudged.testFaults_unported hsound hcode hlo hhi)
  generalize (s.begin.stored c r).judgeLock c = R at hjudged htested
  -- the step is complete
  have hcleared : LinkEvent s (R.clearStep c) c ({ u with missCount := 0 } : Crane).stepless h [] := hjudged.modCrane _
  have hon : OnMove s c m n take rest ({ u with missCount := 0 } : Crane).stepless v :=
    ⟨hqueue, hmove, hcrane, hwithdrawal, habort, horigin, hcurrent, hbeds, hbusy⟩
  obtain ⟨w, hworked, hcarried⟩ := hcleared.phaseDone (done := st.kind) hon hs hyield hdeferral hcoil hgoes
  have hquiet := hworked.quiet (hcarried.rebased.quiet hs)
    (by unfold Crane.carriedFrom; split_ifs <;> exact hyield) (by unfold Crane.carriedFrom; split_ifs <;> exact hdeferral)
  have hstepDone : R.testDone c = (R.clearStep c).phaseDone m v st.kind := by
    have hyieldLeg : ((R.clearStep c).crane c).onYieldLeg = false := by
      rw [hcleared.crane]
      by_cases hin : onLeg
      · obtain ⟨g, hg, hgkind⟩ := (hleg hin).1
        have hleg' : ({ u with missCount := 0 } : Crane).stepless.leg = some g := hg
        unfold Crane.onYieldLeg
        rw [hleg']
        cases g
        subst hgkind
        rfl
      · have hleg' : ({ u with missCount := 0 } : Crane).stepless.leg = none := (hnoLeg hin).1
        unfold Crane.onYieldLeg
        rw [hleg']
    have hmove' : (R.clearStep c).move? m = some v := (hcleared.move m).trans hmove
    rw [State.testDone_of_step (st := st) (by rw [hjudged.crane]; exact hstep) (by rw [hjudged.crane]; exact hsound)
      (by rw [hjudged.crane]; exact hdone)]
    exact State.stepDone_of_move hyieldLeg
      (State.currentMove_of_head (rest := rest) (by rw [hcleared.crane]; exact hqueue) hmove' hphase) hmove' hquiet
  -- RU takes the report
  obtain ⟨R', hreport, hreported⟩ := hworked.reportRU_done hcarried.rebased (loadedBefore := k.loaded)
    (wasHeld := k.heldWide) hs
    (by unfold Crane.carriedFrom; split_ifs <;> exact hyield) (by unfold Crane.carriedFrom; split_ifs <;> exact hdeferral)
    (by
      unfold Crane.carriedFrom
      split_ifs with hin
      · rfl
      · exact (hnoLeg hin).1) hbreach hopen
    (by unfold Crane.carriedFrom; split_ifs <;> exact hlock) (by unfold Crane.carriedFrom; split_ifs <;> exact hheld)
    (by unfold Crane.carriedFrom; split_ifs <;> rfl)
    (by
      unfold Crane.carriedFrom
      split_ifs with hin
      · exact fun _ => (hleg hin).2
      · exact fun hdue => absurd ((hnoLeg hin).2.symm.trans hdue) Bool.false_ne_true)
  have hserving : (R.testDone c).inService = true := by
    rw [hstepDone, hworked.inService, hcarried.rebased.inService, hservice]
  have htakes : onLink c (fun s k => s.takeStatus k r) s.begin = R'.endReport c := by
    have hwhole : s.begin.takeStatus c r = (s.begin.tested c r).finishReport c k.loaded k.heldWide := by
      rw [State.takeStatus_of_linked (s := s.begin) hlink, State.takeWhole_eq]
      rfl
    rw [onLink_of_fitted hc, hwhole, htested]
    refine State.finishReport_of_done hreported hserving (by rw [hstepDone]; exact hreport) ?_ hsession hzero
    have hstill : k.state ≠ .idle := by rw [hbusy]; decide
    unfold Crane.carriedFrom
    split_ifs <;> exact hstill
  obtain ⟨t, hnext, htcrane, hcranes, htmove, htmoves, htcoil, htcoils, hchannel, hchannels, hsent, htransmitted, hrecords,
    hflags, hbyte, honly⟩ := handle_carried htakes hreported.endReport hcarried hn
  refine ⟨t, hnext, ?_, hcranes, htmove, htmoves, htcoil, htcoils, ?_, hchannels, ?_, htransmitted, hrecords, hflags, hbyte,
    honly, ?_⟩
  · rw [htcrane]
    by_cases hin : onLeg
    · have hdue : (({ u with missCount := 0 } : Crane).stepless.landed.stepping kind).narrowDue = true := rfl
      rw [Crane.carriedFrom, if_pos hin, if_pos hdue]
      simp only [if_pos hin]
      rfl
    · have hlegless : (({ u with missCount := 0 } : Crane).stepless.stepping kind).leg = none := (hnoLeg hin).1
      have hnotDue : (({ u with missCount := 0 } : Crane).stepless.stepping kind).narrowDue = false := (hnoLeg hin).2
      rw [Crane.carriedFrom, if_neg hin, hnotDue, if_neg Bool.false_ne_true]
      simp only [if_neg hin]
      exact Crane.unleg hlegless hnotDue _ rfl
  · rw [hchannel, hcarried.rebased.inService, hservice]
  · rw [hsent]
    cases kind with
    | goto a b => exact absurd rfl (hkind a b)
    | _ => rfl
  · refine shows_craneGroup hnext (htakes.trans (State.ported_port _).symm) fun hreset => ?_
    have hin : R'.inService = true := by rw [hreported.inService, hcarried.rebased.inService, hservice]
    rw [State.inService, hreset] at hin
    cases hin

end Sys2Proof.Machine
end

section
/-! PROOF. TRUCK_RELEASE and TRUCK_CANCEL (R157, R158). -/

namespace Sys2Proof.Machine

variable {s t u R : State} {b n : Nat} {p : Port} {es : List JournalEntry} {notices : BitVec 10} {w : Nat → Bool} {o : Order}
  {rest : List Order}

/-! ## The coils of a truck -/

/-- `t` is `s` but for its coils, its bays and what is to be published. -/
def TruckOnly (s t : State) : Prop := t = { s with coils := t.coils, bays := t.bays, touched := t.touched }

theorem TruckOnly.refl (s : State) : TruckOnly s s := rfl

theorem TruckOnly.trans (h : TruckOnly s t) (g : TruckOnly t u) : TruckOnly s u := by
  unfold TruckOnly at h g ⊢
  rw [g, h]

theorem TruckOnly.of_state {α : Type} (h : TruckOnly s t) (f : State → α)
    (hf : ∀ coils bays touched, f { s with coils := coils, bays := bays, touched := touched } = f s) : f t = f s := by
  unfold TruckOnly at h
  rw [h, hf]

theorem State.setCoil_truckOnly (s : State) (r : Nat) (c : Coil) : TruckOnly s (s.setCoil r c) := rfl

theorem State.modCoil_truckOnly (s : State) (r : Nat) (f : Coil → Coil) : TruckOnly s (s.modCoil r f) := by
  unfold State.modCoil
  split
  · exact State.setCoil_truckOnly ..
  · exact TruckOnly.refl s

theorem State.modCoil_bays (s : State) (r : Nat) (f : Coil → Coil) : (s.modCoil r f).bays = s.bays := by
  unfold State.modCoil
  split <;> rfl

/-- Records go one after the other. -/
theorem State.removeCoils (l : List Nat) (s : State) :
    TruckOnly s (l.foldl State.removeCoil s) ∧ (l.foldl State.removeCoil s).bays = s.bays ∧
      ∀ q, (l.foldl State.removeCoil s).coil? q = if q ∈ l then none else s.coil? q := by
  induction l generalizing s with
  | nil => exact ⟨TruckOnly.refl s, rfl, fun _ => rfl⟩
  | cons r l ih =>
    obtain ⟨hrest, hbays, hcoil⟩ := ih (s.removeCoil r)
    refine ⟨TruckOnly.trans (show TruckOnly s (s.removeCoil r) from rfl) hrest, hbays, fun q => ?_⟩
    rw [List.foldl_cons, hcoil, State.coil_removeCoil]
    by_cases hl : q ∈ l
    · rw [if_pos hl, if_pos (List.mem_cons_of_mem r hl)]
    · simp only [List.mem_cons, hl, or_false, if_false]

/-- The coils of a plan lose OUTBOUND one after the other. -/
theorem State.clearOutbound (l : List (Nat × Entry)) (s : State) :
    TruckOnly s (l.foldl (fun s p => s.setOutbound p.2.coil false) s) ∧
      (l.foldl (fun s p => s.setOutbound p.2.coil false) s).bays = s.bays ∧
      ∀ q, (l.foldl (fun s p => s.setOutbound p.2.coil false) s).coil? q =
        (s.coil? q).map fun c => if l.any (fun p => p.2.coil == q) then { c with outbound := false } else c := by
  induction l generalizing s with
  | nil => exact ⟨TruckOnly.refl s, rfl, fun q => by simp⟩
  | cons p l ih =>
    obtain ⟨hrest, hbays, hcoil⟩ := ih (s.setOutbound p.2.coil false)
    refine ⟨(State.modCoil_truckOnly ..).trans hrest, hbays.trans (State.modCoil_bays ..), fun q => ?_⟩
    rw [List.foldl_cons, hcoil, State.setOutbound, State.coil_modCoil]
    by_cases hp : q = p.2.coil
    · rw [if_pos hp, hp, Option.map_map]
      refine congrArg (Option.map · (s.coil? p.2.coil)) (funext fun c => ?_)
      simp
    · rw [if_neg hp]
      simp only [List.any_cons, beq_eq_false_iff_ne.mpr (Ne.symm hp), Bool.false_or]

/-! ## The bay without its truck -/

/-- A bay EMPTY without a truck. -/
def State.vacate (s : State) (b : Nat) : State :=
  (s.modBay b Bay.withoutTruck).modBay b fun k => { k with state := .empty }

theorem State.bay_vacate (s : State) (b d : Nat) :
    (s.vacate b).bay d = if d = b then { (s.bay b).withoutTruck with state := .empty } else s.bay d := by
  unfold State.vacate
  by_cases hd : d = b
  · rw [if_pos hd, hd, State.bay_modBay_self, State.bay_modBay_self]
  · rw [if_neg hd, State.bay_modBay, if_neg hd, State.bay_modBay, if_neg hd]

theorem State.vacate_truckOnly (s : State) (b : Nat) : TruckOnly s (s.vacate b) :=
  TruckOnly.trans (t := s.modBay b Bay.withoutTruck) rfl rfl

theorem State.coil_vacate (s : State) (b q : Nat) : (s.vacate b).coil? q = s.coil? q := rfl

theorem State.vacate_ported (s : State) (p : Port) (b : Nat) : (s.ported p).vacate b = (s.vacate b).ported p := by
  unfold State.vacate
  rw [State.modBay_ported, State.modBay_ported]

theorem State.emptyBay_eq (s : State) (b : Nat) :
    s.emptyBay b = (s.vacate b).produce (bayEntry (s.vacate b) b {}) := by
  have hset (u : State) : u.setBayState b .empty = u.modBay b fun k => { k with state := .empty } :=
    if_neg fun h => h.2 rfl
  unfold State.emptyBay
  dsimp only
  rw [hset]
  rfl

/-- The entry of a bay that has become EMPTY. -/
def emptiedEntry (b : Nat) : JournalEntry := { kind := 7, subject := b, detail := [1, 0xFF] }

theorem bayEntry_bytes_of_empty (hstate : (s.bay b).state = .empty) :
    (bayEntry s b {}).bytes = (emptiedEntry b).bytes := by
  unfold bayEntry
  rw [hstate]
  rfl

theorem Effect.emptyBay (h : Effect s (R.ported p) es notices w) (htakes : s.journalTakes (es.length + (n + 1)) = true)
    (b : Nat) :
    ∃ q, (R.ported p).emptyBay b = (R.vacate b).ported q ∧
      Effect s ((R.vacate b).ported q) (es ++ [emptiedEntry b]) (notices ||| Notice.entry.mask) w := by
  obtain ⟨q, hq, heffect⟩ := (h.records_changed (R' := R.vacate b)
    ((State.vacate_truckOnly R b).of_state State.mode fun _ _ _ => rfl)).produce htakes
    (bayEntry ((R.vacate b).ported p) b {})
  refine ⟨q, ?_, heffect.congr ?_⟩
  · rw [State.emptyBay_eq, State.vacate_ported]
    exact hq
  · have hempty : (((R.vacate b).ported p).bay b).state = .empty := by
      show ((R.vacate b).bay b).state = _
      rw [State.bay_vacate, if_pos rfl]
    rw [List.map_append, List.map_append, List.map_singleton, List.map_singleton, bayEntry_bytes_of_empty hempty]

/-! ## The two orders -/

/-- An order that empties a bay: its coils, the bay, the entry, then the answer. -/
theorem takeOrder_emptyBay {y : Owner} {k : Nat} {f : State → Order → State} {a : Answer} (h : TakenUp s y k o rest)
    (hR : TruckOnly (s.begin.setInbound y rest) R) (hbays : R.bays = s.bays)
    (hf : f (s.begin.setInbound y rest) o = (R.emptyBay b).reply o a) (htakes : s.journalTakes 1 = true) :
    ∃ t, handle (takeOrder y k f) s = .next t ∧ (∀ q, t.coil? q = R.coil? q) ∧
      t.bay b = { (s.bay b).withoutTruck with state := .empty } ∧ (∀ d, d ≠ b → t.bay d = s.bay d) ∧
      t.records = State.records
        { s.setInbound y rest with sent := [], coils := t.coils, bays := t.bays, writeCount := t.writeCount } ∧
      JournaledInOrder s t [emptiedEntry b] ∧ ShowsAnswer t o.cell a ∧
      t.flags = s.flags ||| Notice.entry.mask ||| Notice.answer.mask ∧
      OnlyWrites s t (fun x => answerByte o.cell x || s.journalPlace 1 x) := by
  obtain ⟨X, hX⟩ : ∃ X, X = s.begin.setInbound y rest := ⟨_, rfl⟩
  have hXport : R.ported s.port = R := by
    have hport : X.port = s.port := by rw [hX]; cases y <;> rfl
    have hRport : R.port = X.port := by
      rw [← hX] at hR
      exact hR.of_state State.port fun _ _ _ => rfl
    rw [← hport, ← hRport, State.ported_port]
  have hmode : R.mode = s.begin.mode := by
    refine (hR.of_state State.mode fun _ _ _ => rfl).trans ?_
    cases y <;> rfl
  have hheld : R.holding = s.holding := by
    refine (hR.of_state State.holding fun _ _ _ => rfl).trans ?_
    cases y <;> rfl
  have hstart : Effect s (R.ported s.port) [] 0 (fun _ => false) := (Effect.start htakes).records_changed hmode
  obtain ⟨q, hq, heffect⟩ := hstart.emptyBay (n := 0) htakes b
  rw [hXport] at hq
  have hvacated := State.vacate_truckOnly R b
  obtain ⟨t, hnext, hrecords, horder, hshown, hflags, honly⟩ := takeOrder_logged (n := 1) h
    (hf.trans (congrArg (State.reply · o a) hq)) heffect (by simp)
    ((hvacated.of_state State.holding fun _ _ _ => rfl).trans hheld) htakes
  have hof {α : Type} (f : State → α) (hf : ∀ x : State, f x.records = f x)
      (hcount : ∀ x m, f { x with writeCount := m } = f x) : f t = f (R.vacate b) := by
    rw [← hf t, hrecords, hf, hcount]
  have hbay (d : Nat) : t.bay d = if d = b then { (s.bay b).withoutTruck with state := .empty } else s.bay d := by
    have hsame (d : Nat) : R.bay d = s.bay d := by
      unfold State.bay
      rw [hbays]
    rw [hof (fun x => x.bay d) (fun _ => rfl) (fun _ _ => rfl), State.bay_vacate, hsame, hsame]
  refine ⟨t, hnext, fun q => (hof (fun x => x.coil? q) (fun _ => rfl) fun _ _ => rfl).trans (State.coil_vacate ..),
    (hbay b).trans (if_pos rfl), fun d hd => (hbay d).trans (if_neg hd), ?_, horder, hshown, ?_, honly⟩
  · rw [hrecords, hof State.coils (fun _ => rfl) fun _ _ => rfl, hof State.bays (fun _ => rfl) fun _ _ => rfl]
    have hboth := hR.trans hvacated
    generalize R.vacate b = V at hboth
    unfold TruckOnly at hboth
    rw [hboth]
    cases y <;> rfl
  · rw [hflags, ← BitVec.or_assoc]
    exact congrArg (fun m => s.flags ||| m ||| Notice.answer.mask) (BitVec.zero_or ..)

theorem State.bedSourceLive_iff {b : Nat} : s.bedSourceLive b = true ↔ ∃ p ∈ s.moves, ∃ e, p.2.source = .bed b e := by
  unfold State.bedSourceLive
  rw [List.any_eq_true]
  refine exists_congr fun p => and_congr_right fun _ => ?_
  cases p.2.source <;> simp

theorem State.digLive_iff {b : Nat} : s.digLive b = true ↔ ∃ p ∈ s.moves, ∃ e, p.2.origin = .dig b e := by
  unfold State.digLive
  rw [List.any_eq_true]
  refine exists_congr fun p => and_congr_right fun _ => ?_
  cases p.2.origin <;> simp

theorem State.planLive_iff {b : Nat} : s.planLive b = true ↔ ∃ p ∈ s.moves, ∃ e, p.2.origin = .plan b e := by
  unfold State.planLive
  rw [List.any_eq_true]
  refine exists_congr fun p => and_congr_right fun _ => ?_
  cases p.2.origin <;> simp

/-- When a TRUCK_RELEASE may be taken (R157). -/
theorem State.releasable_iff {b : Nat} :
    (((s.bay b).state = .ready ∨ (s.bay b).state = .discrepant) ∧ ¬ s.bedSourceLive b ∧ ¬ s.digLive b) ↔
      ((s.bay b).state = .ready ∨ (s.bay b).state = .discrepant) ∧
        ¬∃ p ∈ s.moves, (∃ e, p.2.origin = .dig b e) ∨ ∃ e, p.2.source = .bed b e := by
  refine and_congr_right fun _ => ?_
  rw [State.bedSourceLive_iff, State.digLive_iff, ← not_or]
  simp only [and_or_left, exists_or]
  exact not_congr or_comm

/-- When a TRUCK_CANCEL may be taken (R158). -/
theorem State.cancellable_iff {b : Nat} :
    s.cancellable b = true ↔ (s.bay b).state = .arrived ∨
      (s.bay b).state = .planHold ∧ (∀ p ∈ (s.bay b).plan, p.2.bed = .free) ∧
        ¬∃ p ∈ s.moves, (∃ e, p.2.origin = .plan b e) ∨ (∃ e, p.2.origin = .dig b e) ∨ ∃ e, p.2.source = .bed b e := by
  have hlive : (!s.planLive b && !s.digLive b && !s.bedSourceLive b) = true ↔
      ¬∃ p ∈ s.moves, (∃ e, p.2.origin = .plan b e) ∨ (∃ e, p.2.origin = .dig b e) ∨ ∃ e, p.2.source = .bed b e := by
    rw [← Bool.not_or, ← Bool.not_or, Bool.not_eq_true', ← Bool.not_eq_true, Bool.or_eq_true, Bool.or_eq_true,
      State.planLive_iff, State.digLive_iff, State.bedSourceLive_iff]
    simp only [and_or_left, exists_or, or_assoc]
  unfold State.cancellable
  rw [Bool.or_eq_true, beq_iff_eq, Bool.and_assoc, Bool.and_assoc, ← Bool.and_assoc (!s.planLive b), Bool.and_eq_true,
    Bool.and_eq_true, hlive, beq_iff_eq, List.all_eq_true]
  simp only [beq_iff_eq, and_assoc]

/-- Settles O47: the test of the bay, then its coils, then the bay itself with its entry. -/
theorem trucksLeave : Obligations.TrucksLeave := by
  refine ⟨?_, ?_⟩
  · intro s o rest b htaken hbody hb y live may onBed weights
    obtain ⟨X, hX⟩ : ∃ X, X = s.begin.setInbound .lu rest := ⟨_, rfl⟩
    have hbay : Body.bay o.body = b := hbody
    have hmay : may ↔ ((X.bay b).state = .ready ∨ (X.bay b).state = .discrepant) ∧ ¬ X.bedSourceLive b ∧ ¬ X.digLive b := by
      rw [hX]
      exact (State.releasable_iff (s := s)).symm
    refine ⟨fun hnot => handle_takeOrder_reply (f := State.releaseOrder) htaken ?_, fun hgo htakes => ?_⟩
    · rw [← hX]
      unfold State.releaseOrder
      dsimp only
      rw [hbay, if_neg (by omega), if_neg (fun h => hnot (hmay.mpr h)), hX]
      rfl
    · obtain ⟨hrest, hbays, hcoil⟩ := State.removeCoils ((X.coils.filter fun p => p.2.onBedOf b).map (·.1)) X
      have horder : X.releaseOrder o =
          ((((X.coils.filter fun p => p.2.onBedOf b).map (·.1)).foldl State.removeCoil X).emptyBay b).reply o
            (releaseAnswer y.truckRef (s.coils.filter onBed).length weights.sum) := by
        unfold State.releaseOrder
        dsimp only
        rw [hbay, if_neg (by omega), if_pos (hmay.mp hgo), hX, List.length_map]
        rfl
      rw [hX] at hrest hbays hcoil horder
      obtain ⟨t, hnext, hcoils, hgone, hothers, hall⟩ := takeOrder_emptyBay (f := State.releaseOrder) htaken hrest hbays
        horder htakes
      refine ⟨t, hnext, fun q => ?_, hgone, hothers, hall⟩
      rw [hcoils, hcoil]
      refine if_congr ?_ rfl rfl
      rw [List.any_eq_true, List.mem_map]
      refine exists_congr fun p => ?_
      rw [List.mem_filter, Bool.and_eq_true, beq_iff_eq, and_assoc]
      exact and_congr_right fun _ => and_comm
  · intro s o rest b htaken hbody hb y live may
    obtain ⟨X, hX⟩ : ∃ X, X = s.begin.setInbound .lu rest := ⟨_, rfl⟩
    have hbay : Body.bay o.body = b := hbody
    have hmay : may ↔ X.cancellable b = true := by
      rw [hX]
      exact (State.cancellable_iff (s := s)).symm
    refine ⟨fun hnot => handle_takeOrder_reply (f := State.cancelOrder) htaken ?_, fun hgo htakes => ?_⟩
    · rw [← hX]
      unfold State.cancelOrder
      dsimp only
      rw [hbay, if_neg (by omega), if_neg (fun h => hnot (hmay.mpr h)), hX]
      rfl
    · obtain ⟨hrest, hbays, hcoil⟩ := State.clearOutbound y.plan X
      have horder : X.cancelOrder o =
          ((y.plan.foldl (fun s p => s.setOutbound p.2.coil false) X).emptyBay b).reply o { code := .done } := by
        unfold State.cancelOrder
        dsimp only
        rw [hbay, if_neg (by omega), if_pos (hmay.mp hgo), hX]
        rfl
      rw [hX] at hrest hbays hcoil horder
      obtain ⟨t, hnext, hcoils, hall⟩ := takeOrder_emptyBay (f := State.cancelOrder) htaken hrest hbays horder htakes
      exact ⟨t, hnext, fun q => (hcoils q).trans (hcoil q), hall⟩

end Sys2Proof.Machine
end

section
/-! PROOF. TRUCK_ARRIVE (R139; log entry 51). -/

namespace Sys2Proof.Machine

variable {s t u R : State} {b n take value : Nat} {o : Order} {rest : List Order}

/-! ## A cell WORKING whose progress is then written -/

theorem State.working_of_current (hcurrent : s.cellIsOf n take = true) (value : Nat) :
    s.working n take value = (s.writeByte (cellOffset n + 3) (byte value)).writeByte (cellOffset n) 3 := if_pos hcurrent

theorem State.progress_of_current (hcurrent : s.cellIsOf n take = true) (value : Nat) :
    s.progress n take value = s.writeByte (cellOffset n + 3) (byte value) := if_pos hcurrent

theorem State.cellTake_writeByte (s : State) (n a : Nat) (v : Byte) (ha : a < cellOffset n + 8 ∨ cellOffset n + 12 ≤ a) :
    (s.writeByte a v).cellTake n = s.cellTake n := by
  unfold State.cellTake State.readNat
  refine congrArg _ (State.readBytes_congr _ _ _ fun k hk => ?_)
  rw [State.readByte_writeByte, if_neg (by omega)]

theorem State.cellIsOf_working (hcurrent : s.cellIsOf n take = true) (value : Nat) :
    (s.working n take value).cellIsOf n take = true := by
  have hstate : (s.working n take value).cellState n = 3 := by
    rw [State.working_of_current hcurrent, State.cellState, State.readByte_writeByte, if_pos rfl]
    rfl
  have htake : (s.working n take value).cellTake n = s.cellTake n := by
    rw [State.working_of_current hcurrent, State.cellTake_writeByte _ _ _ _ (by omega),
      State.cellTake_writeByte _ _ _ _ (by omega)]
  unfold State.cellIsOf at hcurrent ⊢
  rw [hstate, htake]
  exact (Bool.and_eq_true_iff.mp hcurrent).2

theorem State.modBay_writeByte (s : State) (a : Nat) (v : Byte) (b : Nat) (f : Bay → Bay) :
    (s.writeByte a v).modBay b f = (s.modBay b f).writeByte a v := rfl

theorem State.cellIsOf_modBay (s : State) (b : Nat) (f : Bay → Bay) : (s.modBay b f).cellIsOf n take = s.cellIsOf n take := rfl

theorem State.modBay_working (hcurrent : s.cellIsOf n take = true) (value : Nat) (f : Bay → Bay) :
    (s.working n take value).modBay b f = (s.modBay b f).working n take value := by
  rw [State.working_of_current hcurrent,
    State.working_of_current ((State.cellIsOf_modBay s b f).trans hcurrent), State.modBay_writeByte, State.modBay_writeByte]

theorem State.channel_working (s : State) (n take value q : Nat) : (s.working n take value).channel q = s.channel q := by
  unfold State.working
  split_ifs <;> rfl

theorem State.bay_working (s : State) (n take value d : Nat) : (s.working n take value).bay d = s.bay d := by
  unfold State.working
  split_ifs <;> rfl

theorem State.writeByte_records (s : State) (a : Nat) (v : Byte) : (s.writeByte a v).records = s.records := rfl

/-- A handling that writes its cell WORKING, then its progress. -/
theorem handle_progressed {g : State → State} {first : Nat} (hcell : o.cell < 128)
    (hcurrent : s.cellIsOf o.cell o.take = true)
    (hg : g s.begin = (u.working o.cell o.take first).progress o.cell o.take value) (hmem : u.mem = s.mem)
    (hflags : u.flags = s.flags) : ∃ t, handle g s = .next t ∧ t.records = u.records ∧ Working s t o value := by
  obtain ⟨hlo, hhi⟩ := cellOffset_bounds hcell
  have hcurrent' : u.cellIsOf o.cell o.take = true :=
    (State.cellIsOf_congr fun b _ _ => State.readByte_congr hmem b).trans hcurrent
  obtain ⟨t, hnext, hrecords, htflags, hbytes⟩ := handle_effect g s
  rw [hg, State.progress_of_current (State.cellIsOf_working hcurrent' first), State.working_of_current hcurrent']
    at hrecords htflags hbytes
  rw [State.writeByte_records, State.writeByte_records, State.writeByte_records] at hrecords
  rw [State.writeByte_flags, State.writeByte_flags, State.writeByte_flags] at htflags
  refine ⟨t, hnext, hrecords, ?_, ?_, htflags.trans hflags, fun b hb hw => ?_⟩
  · rw [hbytes _ (by omega), State.readByte_writeByte, if_neg (by omega), State.readByte_writeByte, if_pos rfl]
  · rw [hbytes _ (by omega), State.readByte_writeByte, if_pos rfl]
  · have := publishedOffset_eq_false hb
    simp only [workingByte, Bool.or_eq_false_iff, beq_eq_false_iff_ne] at hw
    rw [hbytes b (by omega), State.readByte_writeByte, if_neg hw.2, State.readByte_writeByte, if_neg hw.1,
      State.readByte_writeByte, if_neg hw.2, State.readByte_congr hmem]

/-! ## An arrival opens -/

/-- `t` is `s` but for its channels, its bays and what is to be published. -/
def PlatformOnly (s t : State) : Prop := t = { s with bays := t.bays, channels := t.channels, touched := t.touched }

theorem PlatformOnly.trans (h : PlatformOnly s t) (g : PlatformOnly t u) : PlatformOnly s u := by
  unfold PlatformOnly at h g ⊢
  rw [g, h]

theorem PlatformOnly.of_state {α : Type} (h : PlatformOnly s t) (f : State → α)
    (hf : ∀ bays channels touched, f { s with bays := bays, channels := channels, touched := touched } = f s) : f t = f s := by
  unfold PlatformOnly at h
  rw [h, hf]

theorem State.modBay_platformOnly (s : State) (b : Nat) (f : Bay → Bay) : PlatformOnly s (s.modBay b f) := rfl

theorem State.modChannel_platformOnly (s : State) (k : Nat) (f : Channel → Channel) : PlatformOnly s (s.modChannel k f) := rfl

/-- The record of the truck that arrives. -/
def Bay.withTruck (k : Bay) (d : Body) : Bay :=
  { k.withoutTruck with
    truckRef := d.truckRef, spacing := d.spacing, frontLimit := d.frontLimit, rearLimit := d.rearLimit
    grossLimit := d.grossLimit }

/-- Zero tracking of both platform channels ends. -/
def State.untracked (s : State) (b : Nat) : State :=
  (s.modChannel (frontChannel b) fun c => { c with batchSet := none }).modChannel (rearChannel b) fun c =>
    { c with batchSet := none }

/-- The bay ARRIVING with its truck, zero tracking over, before its cell waits. -/
def State.arriving (s : State) (b : Nat) (d : Body) : State :=
  ((s.modBay b fun k => k.withTruck d).modBay b fun k => { k with state := .arriving }).untracked b

theorem State.channel_modChannel (s : State) (k q : Nat) (f : Channel → Channel) :
    (s.modChannel k f).channel q = if q = k then f (s.channel k) else s.channel q := State.channel_setChannel ..

theorem State.channel_untracked (s : State) (b q : Nat) :
    (s.untracked b).channel q =
      if q = 4 + 2 * b ∨ q = 5 + 2 * b then { s.channel q with batchSet := none } else s.channel q := by
  unfold State.untracked frontChannel rearChannel
  by_cases hrear : q = 5 + 2 * b
  · rw [State.channel_modChannel, if_pos hrear, if_pos (.inr hrear), State.channel_modChannel, if_neg (by omega), hrear]
  · rw [State.channel_modChannel, if_neg hrear, State.channel_modChannel]
    by_cases hfront : q = 4 + 2 * b
    · rw [if_pos hfront, if_pos (.inl hfront), hfront]
    · rw [if_neg hfront, if_neg (by omega)]

theorem State.untracked_platformOnly (s : State) (b : Nat) : PlatformOnly s (s.untracked b) :=
  (State.modChannel_platformOnly ..).trans (State.modChannel_platformOnly ..)

theorem State.arriving_platformOnly (s : State) (b : Nat) (d : Body) : PlatformOnly s (s.arriving b d) :=
  ((State.modBay_platformOnly ..).trans (State.modBay_platformOnly ..)).trans (State.untracked_platformOnly ..)

theorem State.channel_arriving (s : State) (b q : Nat) (d : Body) :
    (s.arriving b d).channel q =
      if q = 4 + 2 * b ∨ q = 5 + 2 * b then { s.channel q with batchSet := none } else s.channel q :=
  State.channel_untracked ..

theorem State.bay_arriving (s : State) (b j : Nat) (d : Body) :
    (s.arriving b d).bay j = if j = b then { (s.bay b).withTruck d with state := .arriving } else s.bay j := by
  show ((s.modBay b fun k => k.withTruck d).modBay b fun k => { k with state := .arriving }).bay j = _
  by_cases hj : j = b
  · rw [if_pos hj, hj, State.bay_modBay_self, State.bay_modBay_self]
  · rw [if_neg hj, State.bay_modBay, if_neg hj, State.bay_modBay, if_neg hj]

/-- A bay leaves EMPTY, its channels without a zero set. -/
theorem State.setBayState_arriving (hempty : (s.bay b).state = .empty)
    (hzero : ∀ q, q = 4 + 2 * b ∨ q = 5 + 2 * b → (s.channel q).zeroSet = none) :
    s.setBayState b .arriving = (s.modBay b fun k => { k with state := .arriving }).untracked b := by
  have hend (u : State) (q : Nat) (hq : (u.channel q).zeroSet = none) :
      u.endTracking q = u.modChannel q fun c => { c with batchSet := none } := by
    refine State.dropZeroSet_of_none ?_
    rw [State.channel_modChannel, if_pos rfl]
    exact hq
  obtain ⟨U, hU⟩ : ∃ U, U = s.modBay b fun k => { k with state := .arriving } := ⟨_, rfl⟩
  have hUzero (q : Nat) (hq : q = 4 + 2 * b ∨ q = 5 + 2 * b) : (U.channel q).zeroSet = none := by
    rw [hU]
    exact hzero q hq
  have hset : s.setBayState b .arriving = (U.endTracking (frontChannel b)).endTracking (rearChannel b) := by
    rw [hU]
    exact if_pos ⟨hempty, by decide⟩
  rw [hset, hend U (frontChannel b) (hUzero _ (.inl rfl)), hend, ← hU]
  · rfl
  · rw [State.channel_modChannel, if_neg (by unfold rearChannel frontChannel; omega)]
    exact hUzero _ (.inr rfl)

/-- A platform session opens in a cell that is WORKING. -/
theorem State.openPlatform_of_active {purpose : Purpose} (hcurrent : s.cellIsOf n take = true)
    (hfront : (s.channel (frontChannel b)).active = true) (hrear : (s.channel (rearChannel b)).active = true)
    (hwaiting : (s.bay b).waitingCell = some (n, take)) :
    (s.working n take 0).openPlatform b purpose =
      (((s.modBay b fun k => { k with session := some { purpose := purpose } }).working n take 0).progress n take 1, true) := by
  obtain ⟨f, hf⟩ : ∃ f : Bay → Bay, f = fun k => { k with session := some { purpose := purpose } } := ⟨_, rfl⟩
  have hkept : ((s.modBay b f).bay b).waitingCell = some (n, take) := by
    rw [State.bay_modBay_self, hf]
    exact hwaiting
  unfold State.openPlatform
  rw [State.channel_working, State.channel_working, hfront, hrear, Bool.and_self, if_pos rfl, ← hf]
  dsimp only
  rw [State.modBay_working hcurrent, State.bay_working, hkept]

/-- The bay ARRIVING with its truck, its cell waiting. -/
def State.awaiting (s : State) (b : Nat) (o : Order) : State :=
  (s.arriving b o.body).modBay b fun k => { k with waitingCell := some (o.cell, o.take) }

/-- The bay ARRIVING with its session. -/
def State.received (s : State) (b : Nat) (o : Order) : State :=
  (s.awaiting b o).modBay b fun k => { k with session := some { purpose := .arrival } }

theorem State.received_platformOnly (s : State) (b : Nat) (o : Order) : PlatformOnly s (s.received b o) :=
  ((State.arriving_platformOnly ..).trans (State.modBay_platformOnly ..)).trans (State.modBay_platformOnly ..)

theorem State.channel_modBay (s : State) (b q : Nat) (f : Bay → Bay) : (s.modBay b f).channel q = s.channel q := rfl

theorem State.channel_received (s : State) (b q : Nat) (o : Order) :
    (s.received b o).channel q =
      if q = 4 + 2 * b ∨ q = 5 + 2 * b then { s.channel q with batchSet := none } else s.channel q := by
  rw [State.received, State.channel_modBay, State.awaiting, State.channel_modBay, State.channel_arriving]

theorem State.bay_received (s : State) (b d : Nat) (o : Order) :
    (s.received b o).bay d =
      if d = b then
        { (s.bay b).withTruck o.body with
          state := .arriving, waitingCell := some (o.cell, o.take), session := some { purpose := .arrival } }
      else s.bay d := by
  unfold State.received State.awaiting
  by_cases hd : d = b
  · rw [if_pos hd, hd, State.bay_modBay_self, State.bay_modBay_self, State.bay_arriving, if_pos rfl]
  · rw [if_neg hd, State.bay_modBay, if_neg hd, State.bay_modBay, if_neg hd, State.bay_arriving, if_neg hd]

theorem State.truckArriveOrder_eq (hbay : Body.bay o.body = b) (hempty : (s.bay b).state = .empty) :
    s.truckArriveOrder o =
      (let p := (((((s.modBay b fun k => k.withTruck o.body).setBayState b .arriving).modBay b fun k =>
        { k with waitingCell := some (o.cell, o.take) }).working o.cell o.take 0).openPlatform b .arrival)
      if p.2 then p.1 else p.1.settleArrival b .noWeight) := by
  subst hbay
  exact if_neg (not_not.mpr hempty)

theorem State.truckArriveOrder_of_refused (hbay : Body.bay o.body = b) (hkept : (s.bay b).state ≠ .empty) :
    s.truckArriveOrder o = s.reply o (s.bayRefusal b) := by
  subst hbay
  exact if_pos hkept

/-- TRUCK_ARRIVE at an EMPTY bay whose channels are ACTIVE. -/
theorem State.truckArriveOrder_of_active (hbay : Body.bay o.body = b) (hempty : (s.bay b).state = .empty)
    (hchannels : ∀ q, q = 4 + 2 * b ∨ q = 5 + 2 * b → (s.channel q).active = true ∧ (s.channel q).zeroSet = none)
    (hcurrent : s.cellIsOf o.cell o.take = true) :
    s.truckArriveOrder o = ((s.received b o).working o.cell o.take 0).progress o.cell o.take 1 := by
  have hset : (s.modBay b fun k => k.withTruck o.body).setBayState b .arriving = s.arriving b o.body :=
    State.setBayState_arriving (by rw [State.bay_modBay_self]; exact hempty) fun q hq => (hchannels q hq).2
  have hactive (q : Nat) (hq : q = 4 + 2 * b ∨ q = 5 + 2 * b) : ((s.awaiting b o).channel q).active = true := by
    refine (congrArg Channel.active ((State.channel_arriving s b q o.body).trans (if_pos hq))).trans ?_
    exact (hchannels q hq).1
  have hwaiting : ((s.awaiting b o).bay b).waitingCell = some (o.cell, o.take) := by
    rw [State.awaiting, State.bay_modBay_self]
  have hcurrent' : (s.awaiting b o).cellIsOf o.cell o.take = true := by
    have hmem : (s.awaiting b o).mem = s.mem :=
      ((State.arriving_platformOnly s b o.body).trans (State.modBay_platformOnly ..)).of_state State.mem fun _ _ _ => rfl
    exact (State.cellIsOf_congr fun x _ _ => State.readByte_congr hmem x).trans hcurrent
  rw [State.truckArriveOrder_eq hbay hempty, hset]
  show (let p := ((s.awaiting b o).working o.cell o.take 0).openPlatform b .arrival; if p.2 then p.1 else _) = _
  rw [State.openPlatform_of_active hcurrent' (hactive _ (.inl rfl)) (hactive _ (.inr rfl)) hwaiting]
  exact if_pos rfl

/-- Settles O45: the test of the bay, then the truck, its channels and its session. -/
theorem truckArriveOpensTheArrival : Obligations.TruckArriveOpensTheArrival := by
  intro s o rest b htaken hbody hb hslo hshi hflo hfhi hrlo hrhi hglo hghi
  have hbay : Body.bay o.body = b := hbody
  have hgood : Body.truckArriveBad o.body = none := by
    refine firstBad_eq_none _ _ ?_
    simp [inRange, Body.bay, Body.spacing, Body.frontLimit, Body.rearLimit, Body.grossLimit, hbody, hb, hslo, hshi, hflo, hfhi,
      hrlo, hrhi, hglo, hghi]
  obtain ⟨X, hX⟩ : ∃ X, X = s.begin.setInbound .lu rest := ⟨_, rfl⟩
  refine ⟨fun hkept => ?_, fun hempty hchannels => ?_⟩
  · refine handle_takeOrder_reply htaken ((State.checked_of_good hgood).trans ?_)
    exact State.truckArriveOrder_of_refused (s := s.begin.setInbound .lu rest) hbay hkept
  · have hqs (q : Nat) (hq : q = 4 + 2 * b ∨ q = 5 + 2 * b) : (X.channel q).active = true ∧ (X.channel q).zeroSet = none := by
      obtain ⟨hconfigured, hdata, hfault, hzero⟩ := hchannels q (by simpa using hq)
      have hsame : X.channel q = s.channel q := by rw [hX]; rfl
      rw [hsame, Channel.active, hconfigured, hdata, hfault]
      exact ⟨rfl, hzero⟩
    have hXbay (d : Nat) : X.bay d = s.bay d := by rw [hX]; rfl
    have hXcurrent : X.cellIsOf o.cell o.take = true := by
      have hXmem : X.mem = s.mem := by rw [hX]; rfl
      exact (State.cellIsOf_congr fun x _ _ => State.readByte_congr hXmem x).trans htaken.current
    have horder := State.truckArriveOrder_of_active (s := X) hbay (by rw [hXbay]; exact hempty) hqs hXcurrent
    obtain ⟨Y, hY⟩ : ∃ Y, Y = X.received b o := ⟨_, rfl⟩
    have hYonly : PlatformOnly X Y := hY ▸ State.received_platformOnly X b o
    have hXchannel (q : Nat) : X.channel q = s.channel q := by rw [hX]; rfl
    rw [← hY] at horder
    obtain ⟨t, hnext, hrecords, hworking⟩ := handle_progressed
      (g := takeOrder .lu Kind.truckArrive fun s o => s.checked o (Body.truckArriveBad o.body) State.truckArriveOrder)
      htaken.cell htaken.current
      (((takeOrder_begin htaken).trans (State.checked_of_good hgood)).trans (hX ▸ horder))
      (by rw [hYonly.of_state State.mem fun _ _ _ => rfl, hX]; rfl)
      (by rw [hYonly.of_state State.flags fun _ _ _ => rfl, hX]; rfl)
    refine ⟨t, hnext, ?_, fun d hd => ?_, fun q => ?_, ?_, hworking⟩
    · rw [State.of_records (fun x => x.bay b) hrecords, hY, State.bay_received, if_pos rfl, hXbay]
      rfl
    · rw [State.of_records (fun x => x.bay d) hrecords, hY, State.bay_received, if_neg hd, hXbay]
    · rw [State.of_records (fun x => x.channel q) hrecords, hY, State.channel_received, hXchannel]
    · rw [State.of_records State.bays hrecords, State.of_records State.channels hrecords, hrecords]
      unfold PlatformOnly at hYonly
      rw [hYonly, hX]
      rfl

end Sys2Proof.Machine
end

section
/-! PROOF. A first LOAD_PLAN of one coil at a station (R143 to R146). -/

namespace Sys2Proof.Machine

variable {s t u R : State} {b e n r k m pos : Nat} {p : Port} {c : Coil} {o : Order} {rest : List Order} {v : Entry}
  {loads : Nat × Nat}

/-! ## What a plan changes -/

/-- `t` is `s` but for its bays, coils, stations, moves, cranes and what is to be published. -/
def PlanOnly (s t : State) : Prop :=
  t = { s with
    bays := t.bays, coils := t.coils, stations := t.stations, moves := t.moves, nextSeq := t.nextSeq, cranes := t.cranes
    touched := t.touched }

theorem PlanOnly.trans (h : PlanOnly s t) (g : PlanOnly t u) : PlanOnly s u := by
  unfold PlanOnly at h g ⊢
  rw [g, h]

theorem PlanOnly.of_state {α : Type} (h : PlanOnly s t) (f : State → α)
    (hf : ∀ bays coils stations moves nextSeq cranes touched,
      f { s with
        bays := bays, coils := coils, stations := stations, moves := moves, nextSeq := nextSeq, cranes := cranes
        touched := touched } = f s) : f t = f s := by
  unfold PlanOnly at h
  rw [h, hf]

theorem State.modBay_planOnly (s : State) (b : Nat) (f : Bay → Bay) : PlanOnly s (s.modBay b f) := rfl

theorem State.setCoil_planOnly (s : State) (r : Nat) (c : Coil) : PlanOnly s (s.setCoil r c) := rfl

theorem State.setStation_planOnly (s : State) (n : Nat) (x : Station) : PlanOnly s (s.setStation n x) := rfl

theorem State.takeMoveUp_planOnly (s : State) (v : Move) (k m : Nat) (q : List Nat) : PlanOnly s (s.takeMoveUp v k m q) := rfl

/-- A plan's work on a state whose bytes have changed. -/
theorem PlanOnly.exists_ported (h : PlanOnly (R.ported p) t) : ∃ R', t = R'.ported p ∧ PlanOnly R R' := by
  unfold PlanOnly at h
  exact ⟨{ R with
    bays := t.bays, coils := t.coils, stations := t.stations, moves := t.moves, nextSeq := t.nextSeq, cranes := t.cranes
    touched := t.touched }, h, rfl⟩

/-! ## A move to a bed -/

theorem Tab.put_singleton {α : Type} (k : Nat) (x y : α) : Tab.put [(k, x)] k y = [(k, y)] := by
  simp [Tab.put, Tab.erase, Tab.place]

/-- The marks of a move from a station to a bed entry: the station LEAVING, the entry RESERVED, the move in the coil's record. -/
def State.markBedMove (s : State) (r : Nat) (c : Coil) (n b e : Nat) (v : Entry) (m : Nat) : State :=
  ((s.setStation n { s.station n with state := .leaving, move := some m }).modBay b fun x =>
    { x with plan := x.plan.put e { v with bed := .reserved } }).setCoil r { c with move := some m }

theorem State.markBedMove_planOnly (s : State) (r : Nat) (c : Coil) (n b e : Nat) (v : Entry) (m : Nat) :
    PlanOnly s (s.markBedMove r c n b e v m) :=
  ((State.setStation_planOnly ..).trans (State.modBay_planOnly ..)).trans (State.setCoil_planOnly ..)

theorem State.setCoil_bay (s : State) (r : Nat) (c : Coil) (d : Nat) : (s.setCoil r c).bay d = s.bay d := rfl

theorem State.bay_markBedMove (d : Nat) :
    (s.markBedMove r c n b e v m).bay d =
      if d = b then { s.bay b with plan := (s.bay b).plan.put e { v with bed := .reserved } } else s.bay d := by
  rw [State.markBedMove, State.setCoil_bay, State.bay_modBay]
  rfl

theorem State.coil_markBedMove (q : Nat) :
    (s.markBedMove r c n b e v m).coil? q = if q = r then some { c with move := some m } else s.coil? q := by
  rw [State.markBedMove, State.coil_setCoil]
  rfl

theorem State.station_markBedMove (d : Nat) :
    (s.markBedMove r c n b e v m).station d =
      if d = n then { s.station n with state := .leaving, move := some m } else s.station d := by
  have hkept (u : State) (f : Bay → Bay) (x : Coil) : ((u.modBay b f).setCoil r x).station d = u.station d := rfl
  rw [State.markBedMove, hkept, State.station_setStation]

theorem State.bay_takeMoveUp (s : State) (v : Move) (k m d : Nat) (q : List Nat) : (s.takeMoveUp v k m q).bay d = s.bay d := rfl

theorem State.coil_takeMoveUp (s : State) (v : Move) (k m d : Nat) (q : List Nat) :
    (s.takeMoveUp v k m q).coil? d = s.coil? d := rfl

theorem State.station_takeMoveUp (s : State) (v : Move) (k m d : Nat) (q : List Nat) :
    (s.takeMoveUp v k m q).station d = s.station d := rfl

theorem State.move_takeMoveUp (s : State) (v : Move) (k m d : Nat) (q : List Nat) :
    (s.takeMoveUp v k m q).move? d = if d = m then some v else s.move? d := State.move_setMove ..

theorem State.crane_takeMoveUp (s : State) (v : Move) (k m d : Nat) (q : List Nat) :
    (s.takeMoveUp v k m q).crane d = if d = k then { s.crane k with queue := q } else s.crane d := State.crane_setCrane ..

/-- What a mark on the bed leaves as it is. -/
theorem State.of_markBedMove {α : Type} (f : State → α)
    (hf : ∀ (x : State) bays coils stations touched,
      f { x with bays := bays, coils := coils, stations := stations, touched := touched } = f x) :
    f (s.markBedMove r c n b e v m) = f s := by
  have h : s.markBedMove r c n b e v m =
      { s with
        bays := (s.markBedMove r c n b e v m).bays, coils := (s.markBedMove r c n b e v m).coils
        stations := (s.markBedMove r c n b e v m).stations, touched := (s.markBedMove r c n b e v m).touched } := rfl
  rw [h, hf]

theorem State.createMove_toBed {origin : Origin} {tag : Nat} {auto : Bool} (hc : s.coil? r = some c) (hmove : c.move = none)
    (hplace : c.place = .station n) (hentry : s.entry? b e = some v) (hqueue : (s.crane k).queue.length < 8) (hm : m < 32)
    (hfree : s.move? m = none) (hused : ∀ q < m, (s.move? q).isSome = true) :
    s.createMove origin tag r c (.bed b e) auto k =
      some ((s.markBedMove r c n b e v m).takeMoveUp (s.newMove origin tag r c (.bed b e) auto k) k m
        ((s.crane k).queue ++ [m])) := by
  have hlow : s.moves.lowestFree Config.moveNumbers 0 = some m :=
    Tab.lowestFree_of_least _ 0 m (Nat.zero_le m) (by rw [Nat.zero_add]; exact hm) hfree fun q _ hq => hused q hq
  have hcoil (x : Station) (f : Bay → Bay) : ((s.setStation n x).modBay b f).coil? r = some c := hc
  have hmarked (x : Station) : (s.setStation n x).entry? b e = some v := hentry
  have hmarks : ((s.markSource c.place m).markDest (.bed b e) m r).modCoil r (fun x => { x with move := some m }) =
      s.markBedMove r c n b e v m := by
    rw [hplace, State.markSource, State.markDest, State.modEntry_of_some (hmarked _), State.modCoil, hcoil]
    rfl
  have hroom : c.move.isNone = true ∧ (s.crane k).queue.length < Config.queuePlaces := ⟨by rw [hmove]; rfl, hqueue⟩
  unfold State.createMove
  rw [if_pos hroom, hlow]
  dsimp only
  rw [hmarks, hplace]
  unfold State.takeMoveUp State.newMove
  rw [hplace]
  rfl

/-! ## The plan's entry is started -/

/-- The one entry of a plan that is accepted. -/
def planEntry (r pos : Nat) : Entry := { coil := r, position := pos }

/-- The crane for an entry rests on the cranes and on where the coil lies. -/
theorem State.chooseCrane_congr {c' : Coil} (hcranes : t.cranes = s.cranes) (hstraps : t.straps = s.straps)
    (hplace : c'.place = c.place) (hx : t.placeX c.place = s.placeX c.place) (l : List Nat) (named : Option Nat) (x : Nat) :
    t.chooseCrane (t.choiceFor r c' l) named x = s.chooseCrane (s.choiceFor r c l) named x := by
  have hserves : t.serves = s.serves := by
    funext y j
    unfold State.serves State.fitted State.crane
    rw [hcranes, hstraps]
  have hload : t.load = s.load := by
    funext j
    unfold State.load State.crane
    rw [hcranes]
  unfold State.chooseCrane State.cranesFor State.choiceFor
  dsimp only
  rw [State.ranked_congr hload, hserves, hplace, hx]

theorem State.askEntry_of_moving (hentry : s.entry? b e = some v) (hcoil : s.coil? v.coil = some c) (hmove : c.move = none)
    (hplace : c.place = .station n)
    (hchoice : s.chooseCrane (s.choiceFor v.coil c []) none (s.bay b).centre = some k)
    (hcreate : s.createMove (.plan b e) 0 v.coil c (.bed b e) false k = some u) :
    s.askEntry b e = u.modEntry b e fun v => { v with state := .moving } := by
  have hmoving : s.evaluate b e v.coil c = (u, .moving) := by
    unfold State.evaluate State.entryMove
    rw [hplace]
    dsimp only
    rw [hchoice]
    dsimp only
    rw [hcreate]
  have hlive : c.move.isSome = false := by rw [hmove]; rfl
  unfold State.askEntry
  rw [hentry]
  dsimp only
  rw [hcoil]
  dsimp only
  rw [hlive, if_neg Bool.false_ne_true, hplace]
  dsimp only
  rw [hmoving]

/-- What stands in the tables once the one entry of a plan is MOVING. -/
structure EntryMoving (s t : State) (b r n k m pos : Nat) (c : Coil) : Prop where
  only : PlanOnly s t
  bay : t.bay b =
    { s.bay b with plan := [(0, { planEntry r pos with state := .moving, started := true, bed := .reserved })] }
  bays : ∀ d, d ≠ b → t.bay d = s.bay d
  coil : t.coil? r = some { c with move := some m }
  coils : ∀ q, q ≠ r → t.coil? q = s.coil? q
  station : t.station n = { s.station n with state := .leaving, move := some m }
  stations : ∀ d, d ≠ n → t.station d = s.station d
  move : t.move? m = some
    { seq := s.nextSeq, origin := .plan b 0, tag := 0, coil := r, source := .station n, dest := .bed b 0
      auto := false, crane := k, phase := .queued, sourceX := (s.station n).x, sourceY := (s.station n).y
      destX := (s.bay b).centre, destY := min 4000 ((s.bay b).frontLine + pos) }
  moves : ∀ q, q ≠ m → t.move? q = s.move? q
  nextSeq : t.nextSeq = nextSequence s.nextSeq
  crane : t.crane k = { s.crane k with queue := (s.crane k).queue ++ [m] }
  cranes : ∀ j, j ≠ k → t.crane j = s.crane j

/-- The one entry of a LOADING bay's plan is started. -/
theorem State.startEntries_of_one (hstate : (s.bay b).state = .loading) (hplan : (s.bay b).plan = [(0, planEntry r pos)])
    (hc : s.coil? r = some c) (hmove : c.move = none) (hplace : c.place = .station n)
    (hchoice : s.chooseCrane (s.choiceFor r c []) none (s.bay b).centre = some k)
    (hqueue : (s.crane k).queue.length < 8) (hm : m < 32) (hfree : s.move? m = none)
    (hused : ∀ q < m, (s.move? q).isSome = true) : EntryMoving s (State.startEntries 6 s b) b r n k m pos c := by
  obtain ⟨started, hstarted⟩ : ∃ x : Entry, x = { planEntry r pos with started := true } := ⟨_, rfl⟩
  obtain ⟨W, hW⟩ : ∃ W, W = s.modBay b fun x => { x with plan := x.plan.put 0 started } := ⟨_, rfl⟩
  have hentry : s.entry? b 0 = some (planEntry r pos) := by
    unfold State.entry?
    rw [hplan]
    rfl
  have hstart : (s.modEntry b 0 fun v => { v with started := true }) = W := by
    rw [State.modEntry_of_some hentry, hW, hstarted]
  have hWbay : W.bay b = { s.bay b with plan := [(0, started)] } := by
    rw [hW, State.bay_modBay_self, hplan, Tab.put_singleton]
  have hWbays (d : Nat) (hd : d ≠ b) : W.bay d = s.bay d := by
    rw [hW, State.bay_modBay, if_neg hd]
  have hWentry : W.entry? b 0 = some started := by
    unfold State.entry?
    rw [hWbay]
    rfl
  have hWonly : PlanOnly s W := hW ▸ State.modBay_planOnly ..
  have hWof {α : Type} (f : State → α) (hf : ∀ b g, f (s.modBay b g) = f s) : f W = f s := by rw [hW, hf]
  obtain ⟨V, hV⟩ : ∃ V, V = (W.markBedMove r c n b 0 started m).takeMoveUp (W.newMove (.plan b 0) 0 r c (.bed b 0) false k) k m
    ((s.crane k).queue ++ [m]) := ⟨_, rfl⟩
  have hcreate : W.createMove (.plan b 0) 0 r c (.bed b 0) false k = some V := by
    have hWcrane : W.crane k = s.crane k := hWof (fun x => x.crane k) fun _ _ => rfl
    rw [hV, ← hWcrane]
    refine State.createMove_toBed ((hWof (fun x => x.coil? r) fun _ _ => rfl).trans hc) hmove hplace hWentry ?_ hm
      ((hWof (fun x => x.move? m) fun _ _ => rfl).trans hfree) fun q hq => ?_
    · rw [hWcrane]
      exact hqueue
    · rw [hWof (fun x => x.move? q) fun _ _ => rfl]
      exact hused q hq
  have hVbay : V.bay b = { s.bay b with plan := [(0, { started with bed := .reserved })] } := by
    rw [hV, State.bay_takeMoveUp, State.bay_markBedMove, if_pos rfl, hWbay]
    exact congrArg (fun l => { s.bay b with plan := l }) (Tab.put_singleton ..)
  have hVentry : V.entry? b 0 = some { started with bed := .reserved } := by
    unfold State.entry?
    rw [hVbay]
    rfl
  obtain ⟨U, hU⟩ : ∃ U, U = V.modBay b fun x =>
    { x with plan := x.plan.put 0 { started with bed := .reserved, state := .moving } } := ⟨_, rfl⟩
  have hask : W.askEntry b 0 = U := by
    have hchoice' : W.chooseCrane (W.choiceFor r c []) none (W.bay b).centre = some k := by
      rw [hWbay, State.chooseCrane_congr (s := s) (c := c) (hWof State.cranes fun _ _ => rfl)
        (hWof State.straps fun _ _ => rfl) rfl (by rw [hplace]; exact hWof (fun x => (x.station n).x) fun _ _ => rfl)]
      exact hchoice
    have hrecord : started.coil = r := by rw [hstarted]; rfl
    rw [State.askEntry_of_moving hWentry (c := c) (n := n) (k := k) (u := V)
      (by rw [hrecord]; exact (hWof (fun x => x.coil? r) fun _ _ => rfl).trans hc) hmove hplace
      (by rw [hrecord]; exact hchoice') (by rw [hrecord]; exact hcreate), State.modEntry_of_some hVentry, hU]
  have hUbay : U.bay b =
      { s.bay b with plan := [(0, { planEntry r pos with state := .moving, started := true, bed := .reserved })] } := by
    rw [hU, State.bay_modBay_self, hVbay]
    dsimp only
    rw [Tab.put_singleton, hstarted]
  have hnone : U.nextEntry b = none := by
    unfold State.nextEntry
    rw [hUbay]
    rfl
  have hnext : s.nextEntry b = some 0 := by
    unfold State.nextEntry
    rw [hplan]
    rfl
  have hflights : s.flights b < 2 := by
    unfold State.flights
    rw [hplan]
    exact Nat.zero_lt_two
  have hrun : State.startEntries 6 s b = U := by
    unfold State.startEntries
    rw [if_pos ⟨hstate, hflights⟩, hnext]
    dsimp only
    rw [hstart, hask]
    unfold State.startEntries
    rw [hnone]
    exact ite_id _
  have hUof {α : Type} (f : State → α) (hf : ∀ (x : State) b g, f (x.modBay b g) = f x) : f U = f V := by rw [hU, hf]
  have hmarkedOf {α : Type} (f : State → α) (hf : ∀ (x : State) bays coils stations touched,
      f { x with bays := bays, coils := coils, stations := stations, touched := touched } = f x) :
      f (W.markBedMove r c n b 0 started m) = f s := (State.of_markBedMove f hf).trans (hWof f fun _ _ => hf ..)
  rw [hrun]
  refine
    { only := ?_, bay := hUbay, bays := fun d hd => ?_, coil := ?_, coils := fun q hq => ?_, station := ?_
      stations := fun d hd => ?_, move := ?_, moves := fun q hq => ?_, nextSeq := ?_, crane := ?_, cranes := fun j hj => ?_ }
  · rw [hU, hV]
    exact ((hWonly.trans (State.markBedMove_planOnly ..)).trans (State.takeMoveUp_planOnly ..)).trans
      (State.modBay_planOnly ..)
  · rw [hU, State.bay_modBay, if_neg hd, hV, State.bay_takeMoveUp, State.bay_markBedMove, if_neg hd, hWbays d hd]
  · rw [hUof (fun x => x.coil? r) fun _ _ _ => rfl, hV, State.coil_takeMoveUp, State.coil_markBedMove, if_pos rfl]
  · rw [hUof (fun x => x.coil? q) fun _ _ _ => rfl, hV, State.coil_takeMoveUp, State.coil_markBedMove, if_neg hq]
    exact hWof (fun x => x.coil? q) fun _ _ => rfl
  · rw [hUof (fun x => x.station n) fun _ _ _ => rfl, hV, State.station_takeMoveUp, State.station_markBedMove, if_pos rfl,
      hWof (fun x => x.station n) fun _ _ => rfl]
  · rw [hUof (fun x => x.station d) fun _ _ _ => rfl, hV, State.station_takeMoveUp, State.station_markBedMove, if_neg hd]
    exact hWof (fun x => x.station d) fun _ _ => rfl
  · rw [hUof (fun x => x.move? m) fun _ _ _ => rfl, hV, State.move_takeMoveUp, if_pos rfl]
    refine congrArg some ?_
    unfold State.newMove State.placeX State.placeY
    rw [hplace]
    dsimp only
    rw [hWentry, hWbay, hstarted, hWof State.nextSeq fun _ _ => rfl, hWof (fun x => x.station n) fun _ _ => rfl]
    rfl
  · rw [hUof (fun x => x.move? q) fun _ _ _ => rfl, hV, State.move_takeMoveUp, if_neg hq]
    exact hmarkedOf (fun x => x.move? q) fun _ _ _ _ _ => rfl
  · rw [hUof State.nextSeq fun _ _ _ => rfl, hV, State.takeMoveUp_nextSeq]
    exact congrArg nextSequence (hmarkedOf State.nextSeq fun _ _ _ _ _ => rfl)
  · rw [hUof (fun x => x.crane k) fun _ _ _ => rfl, hV, State.crane_takeMoveUp, if_pos rfl,
      hmarkedOf (fun x => x.crane k) fun _ _ _ _ _ => rfl]
  · rw [hUof (fun x => x.crane j) fun _ _ _ => rfl, hV, State.crane_takeMoveUp, if_neg hj]
    exact hmarkedOf (fun x => x.crane j) fun _ _ _ _ _ => rfl

end Sys2Proof.Machine
end

section
/-! PROOF. LOAD_PLAN accepted: its checks, its entry, its answer (R143 to R146). -/

namespace Sys2Proof.Machine

variable {s t u R : State} {b e n r k m pos : Nat} {p : Port} {c : Coil} {o : Order} {rest : List Order} {v : Entry}
  {loads : Nat × Nat} {es : List JournalEntry} {notices : BitVec 10} {w : Nat → Bool}

/-! ## The checks of one entry -/

theorem Bay.exceeded_of_within {x : Bay} {front rear : Nat} (hfront : front ≤ x.frontLimit) (hrear : rear ≤ x.rearLimit)
    (hgross : front + rear ≤ x.grossLimit) : x.exceeded front rear = none := by
  unfold Bay.exceeded
  rw [if_neg (Nat.not_lt.mpr hfront), if_neg (Nat.not_lt.mpr hrear), if_neg (Nat.not_lt.mpr hgross)]

/-- A coil at a station that every check passes. -/
theorem State.checkItems_of_one {it : PlanItem} {front rear : Nat} (hr : s.recordOf it.id = some r) (hc : s.coil? r = some c)
    (hplace : c.place = .station n) (hmove : c.move = none) (hquality : c.qualityHold = false) (hout : c.outbound = false)
    (heligible : s.eligible (s.station n).x (s.bay b).centre k = true)
    (hf : front = loads.1 + frontShare c.weightUsed it.position (s.bay b).spacing)
    (hrear : rear = loads.2 + rearShare c.weightUsed it.position (s.bay b).spacing)
    (hwithin : (s.bay b).exceeded front rear = none) : s.checkItems b loads [it] = .ok (front, rear) := by
  have hitem : s.itemCoil it = some c := by
    unfold State.itemCoil
    rw [hr]
    exact hc
  have hallowed : s.itemForbidden b it = false := by
    unfold State.itemForbidden
    rw [hitem]
    dsimp only
    rw [hplace, hmove, hquality, hout]
    rfl
  have hk : k ∈ [0, 1, 2, 3] := by
    have hserves := (Bool.and_eq_true_iff.mp heligible).1
    unfold State.serves at hserves
    simp only [Bool.and_eq_true] at hserves
    have hlt := (State.fitted_iff_both.mp hserves.1.1.1).2
    rw [show ([0, 1, 2, 3] : List Nat) = List.range 4 from rfl, List.mem_range]
    exact hlt
  have hserved : s.itemUnserved b it = false := by
    unfold State.itemUnserved
    rw [hitem]
    dsimp only
    rw [hplace, Bool.not_eq_false']
    exact List.any_eq_true.mpr ⟨k, hk, heligible⟩
  unfold State.checkItems firstItem
  rw [hitem, hallowed, hserved]
  unfold State.addLoads
  rw [hitem]
  dsimp only [Option.map_some, Option.getD_some]
  rw [← hf, ← hrear, hwithin]
  rfl

/-- A first plan of one entry that every check passes. -/
theorem State.checkPlan_of_one {d : Body} {it : PlanItem} (hplan : (s.bay b).plan = []) (hcount : d.entryCount = 1)
    (hitems : d.planItems = [it]) (hid : 1 ≤ it.id) (hposition : it.position ≤ (s.bay b).spacing)
    (hgood : s.checkItems b ((s.bay b).tareFront, (s.bay b).tareRear) [it] = .ok loads) :
    s.checkPlan b 1 d = .ok loads := by
  have hloaded : (s.bay b).loadedPlan = [] := by rw [Bay.loadedPlan, hplan]; rfl
  have hnone : s.loadedItems b = [] := by rw [State.loadedItems, hloaded]; rfl
  have hloads : (s.bay b).loadedLoads = ((s.bay b).tareFront, (s.bay b).tareRear) := by rw [Bay.loadedLoads, hloaded]; rfl
  have hfields : itemsBad (s.bay b).spacing 0 [] [it] = none := by
    unfold itemsBad
    rw [if_neg (by simp; omega), if_neg (by simp; omega)]
    rfl
  unfold State.checkPlan
  dsimp only
  rw [hcount, hloaded, hnone, hitems, hfields, hloads]
  exact hgood

/-! ## The plan taken up -/

/-- The bay LOADING with its plan, the coil OUTBOUND, before the entry is started. -/
def State.accepted (s : State) (b r pos : Nat) (c : Coil) : State :=
  ((s.setCoil r { c with outbound := true }).modBay b fun x =>
    { x with plan := [(0, planEntry r pos)], remaining := 1 }).modBay b fun x => { x with state := .loading }

theorem State.modBay_truckOnly (s : State) (b : Nat) (f : Bay → Bay) : TruckOnly s (s.modBay b f) := rfl

theorem State.accepted_truckOnly (s : State) (b r pos : Nat) (c : Coil) : TruckOnly s (s.accepted b r pos c) :=
  ((State.setCoil_truckOnly ..).trans (State.modBay_truckOnly ..)).trans (State.modBay_truckOnly ..)

theorem State.bay_accepted (d : Nat) :
    (s.accepted b r pos c).bay d =
      if d = b then { s.bay b with state := .loading, remaining := 1, plan := [(0, planEntry r pos)] } else s.bay d := by
  unfold State.accepted
  by_cases hd : d = b
  · rw [if_pos hd, hd, State.bay_modBay_self, State.bay_modBay_self, State.setCoil_bay]
  · rw [if_neg hd, State.bay_modBay, if_neg hd, State.bay_modBay, if_neg hd, State.setCoil_bay]

theorem State.coil_accepted (q : Nat) :
    (s.accepted b r pos c).coil? q = if q = r then some { c with outbound := true } else s.coil? q := by
  have hkept (u : State) (f g : Bay → Bay) : ((u.modBay b f).modBay b g).coil? q = u.coil? q := rfl
  rw [State.accepted, hkept, State.coil_setCoil]

theorem State.setBayState_of_busy {x : BayState} (hbusy : (s.bay b).state ≠ .empty) :
    s.setBayState b x = s.modBay b fun y => { y with state := x } := if_neg fun h => hbusy h.1

theorem State.acceptPlan_of_one {it : PlanItem} (hplan : (s.bay b).plan = []) (hstate : (s.bay b).state = .arrived)
    (hfresh : s.newEntries [it] = [planEntry r pos]) (hc : s.coil? r = some c) :
    s.acceptPlan o b [it] loads =
      (State.startEntries 6 ((s.accepted b r pos c).produce (bayEntry (s.accepted b r pos c) b {})) b).reply o
        (planAnswer [0] loads) := by
  have hset : s.setOutbound r true = s.setCoil r { c with outbound := true } := by
    unfold State.setOutbound State.modCoil
    rw [hc]
  have hloaded : ((s.setCoil r { c with outbound := true }).bay b).loadedPlan = [] := by
    rw [State.setCoil_bay, Bay.loadedPlan, hplan]
    rfl
  have hbusy : (((s.setCoil r { c with outbound := true }).modBay b fun x =>
      { x with plan := [(0, planEntry r pos)], remaining := 1 }).bay b).state ≠ .empty := by
    rw [State.bay_modBay_self, State.setCoil_bay]
    dsimp only
    rw [hstate]
    decide
  have hentries : addEntries [planEntry r pos] [] = ([(0, planEntry r pos)], [0]) := rfl
  have hset' : (planEntry r pos).coil = r := rfl
  unfold State.acceptPlan
  dsimp only
  rw [hfresh, hplan, List.filter_nil, List.foldl_nil, List.foldl_cons, List.foldl_nil, hset', hset, hloaded, hentries]
  dsimp only [List.isEmpty_cons, List.length_singleton]
  rw [if_neg Bool.false_ne_true, State.setBayState_of_busy hbusy]
  rfl

theorem bayEntry_bytes {x : BayState} (hstate : (s.bay b).state = x) :
    (bayEntry s b {}).bytes = JournalEntry.bytes { kind := 7, subject := b, detail := [byte x.code, 0xFF] } := by
  unfold bayEntry
  rw [hstate]
  rfl

/-- Settles O46: the checks pass, the plan is taken up, and its one entry starts its move. -/
theorem loadPlanStartsTheFirstEntry : Obligations.LoadPlanStartsTheFirstEntry := by
  refine ⟨?_, ?_⟩
  · intro s o rest b htaken hbody hb harrived hhold
    refine handle_takeOrder_reply (f := State.loadPlanOrder) htaken ?_
    have hbay : Body.bay o.body = b := hbody
    obtain ⟨X, hX⟩ : ∃ X, X = s.begin.setInbound .lu rest := ⟨_, rfl⟩
    have hstate : (X.bay b).state = (s.bay b).state := by rw [hX]; rfl
    have hrefusal : X.loadPlanOrder o = X.reply o (X.bayRefusal b) := by
      unfold State.loadPlanOrder
      dsimp only
      rw [hbay, if_neg (by omega)]
      rw [← hstate] at harrived hhold
      split
      next hcase => exact absurd hcase harrived
      next hcase => exact absurd hcase hhold
      next => rfl
    rw [← hX, hrefusal, State.bayRefusal, hstate]
    rfl
  · intro s o rest b r n k m c y position w rear front htaken hbody hb harrived hplan hcount hid hposition hr hc hplace hmove
      hquality hout heligible hchoice hfront hrear hgross hqueue hm hfree hused htakes
    have hbay : Body.bay o.body = b := hbody
    obtain ⟨X, hX⟩ : ∃ X, X = s.begin.setInbound .lu rest := ⟨_, rfl⟩
    have hXof {α : Type} (f : State → α) (hf : f (s.begin.setInbound .lu rest) = f s) : f X = f s := by rw [hX, hf]
    have hXbay (d : Nat) : X.bay d = s.bay d := hXof (fun x => x.bay d) rfl
    have hXcoil (q : Nat) : X.coil? q = s.coil? q := hXof (fun x => x.coil? q) rfl
    obtain ⟨it, hit⟩ : ∃ it : PlanItem, it = { id := fieldNat o.body 8 4, position := position } := ⟨_, rfl⟩
    have hitems : Body.planItems o.body = [it] := by
      unfold Body.planItems Body.entryCount
      rw [hcount, hit]
      rfl
    have hrecord : X.recordOf it.id = some r := by
      rw [hit]
      exact (hXof (fun x => x.recordOf (fieldNat o.body 8 4)) rfl).trans hr
    have hchecked : X.checkPlan b 1 o.body = .ok (y.tareFront + front, y.tareRear + rear) := by
      refine State.checkPlan_of_one ((congrArg Bay.plan (hXbay b)).trans hplan) hcount hitems (by rw [hit]; exact hid)
        (by rw [hit, hXbay]; exact hposition) ?_
      rw [hXbay]
      refine State.checkItems_of_one (n := n) (k := k) hrecord ((hXcoil r).trans hc) hplace hmove hquality hout ?_ ?_ ?_ ?_
      · rw [hXbay, hXof (fun x => x.station n) rfl, hXof State.eligible rfl]
        exact heligible
      · rw [hit, hXbay]
        rfl
      · rw [hit, hXbay]
        rfl
      · rw [hXbay]
        exact Bay.exceeded_of_within hfront hrear hgross
    have hfresh : X.newEntries [it] = [planEntry r position] := by
      unfold State.newEntries
      rw [List.filterMap_cons, hrecord, hit]
      rfl
    obtain ⟨A, hA⟩ : ∃ A, A = X.accepted b r position c := ⟨_, rfl⟩
    have horder : X.loadPlanOrder o =
        (State.startEntries 6 (A.produce (bayEntry A b {})) b).reply o
          (planAnswer [0] (y.tareFront + front, y.tareRear + rear)) := by
      have hXarrived : (X.bay b).state = .arrived := (congrArg Bay.state (hXbay b)).trans harrived
      unfold State.loadPlanOrder
      dsimp only
      rw [hbay, if_neg (by omega), hXarrived]
      dsimp only
      unfold State.planOrder
      dsimp only
      rw [hchecked]
      dsimp only
      rw [hitems, State.acceptPlan_of_one ((congrArg Bay.plan (hXbay b)).trans hplan) hXarrived hfresh ((hXcoil r).trans hc), hA]
    have hAonly : TruckOnly X A := hA ▸ State.accepted_truckOnly ..
    have hAof {α : Type} (f : State → α)
        (hf : ∀ (x : State) coils bays touched, f { x with coils := coils, bays := bays, touched := touched } = f x)
        (hX : f (s.begin.setInbound .lu rest) = f s) : f A = f s := (hAonly.of_state f (hf X)).trans (hXof f hX)
    have hAbay : A.bay b = { y with state := .loading, remaining := 1, plan := [(0, planEntry r position)] } := by
      rw [hA, State.bay_accepted, if_pos rfl, hXbay]
    have hAport : A.ported s.port = A := by
      have hport : A.port = s.port := hAof State.port (fun _ _ _ _ => rfl) rfl
      rw [← hport, State.ported_port]
    have hstart : Effect s (A.ported s.port) [] 0 (fun _ => false) :=
      (Effect.start htakes).records_changed (hAof State.mode (fun _ _ _ _ => rfl) rfl)
    obtain ⟨q, hq, heffect⟩ := hstart.produce (n := 0) htakes (bayEntry A b {})
    rw [hAport] at hq
    have hAcrane (j : Nat) : A.crane j = s.crane j := hAof (fun x => x.crane j) (fun _ _ _ _ => rfl) rfl
    have hAmove (j : Nat) : A.move? j = s.move? j := hAof (fun x => x.move? j) (fun _ _ _ _ => rfl) rfl
    have hAstation (j : Nat) : A.station j = s.station j := hAof (fun x => x.station j) (fun _ _ _ _ => rfl) rfl
    have hAcoil (j : Nat) : A.coil? j = if j = r then some { c with outbound := true } else s.coil? j := by
      rw [hA, State.coil_accepted, hXcoil]
    obtain ⟨T, hT⟩ : ∃ T, T = State.startEntries 6 (A.ported q) b := ⟨_, rfl⟩
    have hmoving : EntryMoving (A.ported q) T b r n k m position { c with outbound := true } := by
      rw [hT]
      refine State.startEntries_of_one (congrArg Bay.state hAbay) (congrArg Bay.plan hAbay) ((hAcoil r).trans (if_pos rfl))
        hmove hplace ?_ ((congrArg (fun x => x.queue.length) (hAcrane k)).trans_lt hqueue) hm ((hAmove m).trans hfree)
        fun j hj => (congrArg Option.isSome (hAmove j)).trans (hused j hj)
      have hcentre : ((A.ported q).bay b).centre = y.centre := by
        rw [State.bay_ported, hAbay]
      have hx : (A.ported q).placeX c.place = s.placeX c.place := by
        rw [hplace]
        exact congrArg Station.x (hAstation n)
      have hcranes : (A.ported q).cranes = s.cranes := hAof State.cranes (fun _ _ _ _ => rfl) rfl
      have hstraps : (A.ported q).straps = s.straps := hAof State.straps (fun _ _ _ _ => rfl) rfl
      rw [hcentre, State.chooseCrane_congr (s := s) (c := c) (c' := { c with outbound := true }) hcranes hstraps rfl hx]
      exact hchoice
    obtain ⟨R, hR, hRonly⟩ := hmoving.only.exists_ported
    rw [hq, ← hT, hR] at horder
    have hRmode : R.mode = A.mode := hRonly.of_state State.mode fun _ _ _ _ _ _ _ => rfl
    have hRheld : R.holding = s.holding :=
      (hRonly.of_state State.holding fun _ _ _ _ _ _ _ => rfl).trans (hAof State.holding (fun _ _ _ _ => rfl) rfl)
    have hentry : ([] ++ [bayEntry A b {}]).map JournalEntry.bytes =
        [({ kind := 7, subject := b, detail := [4, 0xFF] } : JournalEntry)].map JournalEntry.bytes := by
      rw [List.nil_append, List.map_singleton, List.map_singleton, bayEntry_bytes (congrArg Bay.state hAbay)]
      rfl
    obtain ⟨t, hnext, hrecords, hjournal, hshown, hflags, honly⟩ := takeOrder_logged (n := 1) (f := State.loadPlanOrder) htaken
      (hX ▸ horder) ((heffect.records_changed hRmode).congr hentry) (by simp) hRheld htakes
    have hof {α : Type} (f : State → α) (hf : ∀ x : State, f x.records = f x)
        (hcount : ∀ x m, f { x with writeCount := m } = f x) (hport : ∀ (x : State) p, f (x.ported p) = f x) : f t = f T := by
      rw [← hf t, hrecords, hf, hcount, hR, hport]
    have hbays (d : Nat) : t.bay d = T.bay d := hof (fun x => x.bay d) (fun _ => rfl) (fun _ _ => rfl) fun _ _ => rfl
    have hcoils (d : Nat) : t.coil? d = T.coil? d := hof (fun x => x.coil? d) (fun _ => rfl) (fun _ _ => rfl) fun _ _ => rfl
    have hstations (d : Nat) : t.station d = T.station d :=
      hof (fun x => x.station d) (fun _ => rfl) (fun _ _ => rfl) fun _ _ => rfl
    have hmoves (d : Nat) : t.move? d = T.move? d := hof (fun x => x.move? d) (fun _ => rfl) (fun _ _ => rfl) fun _ _ => rfl
    have hcranes (d : Nat) : t.crane d = T.crane d := hof (fun x => x.crane d) (fun _ => rfl) (fun _ _ => rfl) fun _ _ => rfl
    have hPseq : (A.ported q).nextSeq = s.nextSeq := hAof State.nextSeq (fun _ _ _ _ => rfl) rfl
    refine ⟨t, hnext, ?_, fun d hd => ?_, ?_, fun d hd => ?_, ?_, fun d hd => ?_, ?_, fun d hd => ?_, ?_, ?_, fun j hj => ?_, ?_,
      ?_, ?_, ?_, honly⟩
    · rw [hbays, hmoving.bay, State.bay_ported, hAbay]
      rfl
    · rw [hbays, hmoving.bays d hd, State.bay_ported, hA, State.bay_accepted, if_neg hd, hXbay]
    · rw [hcoils, hmoving.coil]
    · rw [hcoils, hmoving.coils d hd, State.coil_ported, hAcoil, if_neg hd]
    · have hstation : (A.ported q).station n = s.station n := hAstation n
      rw [hstations, hmoving.station, hstation]
    · exact (hstations d).trans ((hmoving.stations d hd).trans (hAstation d))
    · have hstation : (A.ported q).station n = s.station n := hAstation n
      rw [hmoves, hmoving.move, hPseq, hstation, State.bay_ported, hAbay]
    · exact (hmoves d).trans ((hmoving.moves d hd).trans (hAmove d))
    · rw [hof State.nextSeq (fun _ => rfl) (fun _ _ => rfl) fun _ _ => rfl, hmoving.nextSeq, hPseq]
      rfl
    · rw [hcranes, hmoving.crane, State.crane_ported, hAcrane]
    · rw [hcranes, hmoving.cranes j hj, State.crane_ported, hAcrane]
    · have hRof {α : Type} (f : State → α) (hf : ∀ x : State, f x.records = f x)
          (hcount : ∀ x m, f { x with writeCount := m } = f x) : f t = f R := by
        rw [← hf t, hrecords, hf, hcount]
      rw [hrecords, hRof State.bays (fun _ => rfl) fun _ _ => rfl, hRof State.coils (fun _ => rfl) fun _ _ => rfl,
        hRof State.stations (fun _ => rfl) fun _ _ => rfl, hRof State.moves (fun _ => rfl) fun _ _ => rfl,
        hRof State.nextSeq (fun _ => rfl) fun _ _ => rfl, hRof State.cranes (fun _ => rfl) fun _ _ => rfl]
      unfold PlanOnly at hRonly
      unfold TruckOnly at hAonly
      rw [hRonly, hAonly, hX]
      rfl
    · exact hjournal
    · exact hshown
    · rw [hflags, ← BitVec.or_assoc]
      exact congrArg (fun m => s.flags ||| m ||| Notice.answer.mask) (BitVec.zero_or ..)

end Sys2Proof.Machine
end

section
/-! PROOF. A change of mode by a mode order (R161, R163), and START with every check passed (R166). -/

namespace Sys2Proof.Machine

variable {s t u R M : State} {p q : Port} {o : Order} {a : Answer} {es : List JournalEntry} {notices : BitVec 10} {n c : Nat}
  {new : Mode}

/-! ## What the port has seen since the mode changed -/

/-- Between the beginning of a command that changed the mode and a state of its handling: the entries and notices, the mode in
the directory, and no cell written. -/
structure ModeChanged (s t : State) (new : Mode) (es : List JournalEntry) (notices : BitVec 10) : Prop where
  effect : Effect { s with mode := new } t es notices fun _ => false
  shown : t.readByte 1 = byte new.code

theorem ModeChanged.records_changed {R' : State} (h : ModeChanged s (R.ported p) new es notices) (hmode : R'.mode = R.mode) :
    ModeChanged s (R'.ported p) new es notices := ⟨h.effect.records_changed hmode, h.shown⟩

theorem State.journalTakes_changed (hs : s.journalTakes n = true) (hnew : new ≠ .resetting) :
    State.journalTakes { s with mode := new } n = true := by
  obtain ⟨hheld, hroom, -, hcount⟩ := State.journalTakes_iff.mp hs
  exact State.journalTakes_iff.mpr ⟨hheld, hroom, hnew, hcount⟩

theorem State.readByte_produce_of_directory (hs : s.journalTakes (n + 1) = true) (e : JournalEntry) {b : Nat} (hb : b < 0x10) :
    (s.produce e).readByte b = s.readByte b := by
  have hplace := journalOffset_bounds s.writeCount
  rw [State.produce_of_takes hs]
  exact State.readByte_writeEntry_of_outside (.inl hb) (.inl (by omega))

/-- An entry is produced once the mode has changed. -/
theorem ModeChanged.produce (h : ModeChanged s (R.ported p) new es notices)
    (hs : State.journalTakes { s with mode := new } (es.length + (n + 1)) = true) (e : JournalEntry) :
    ∃ q, (R.ported p).produce e = R.ported q ∧ ModeChanged s (R.ported q) new (es ++ [e]) (notices ||| Notice.entry.mask) := by
  obtain ⟨q, hq, heffect⟩ := h.effect.produce hs e
  refine ⟨q, hq, heffect, ?_⟩
  rw [← hq, State.readByte_produce_of_directory (h.effect.logged.takes hs) e (by omega)]
  exact h.shown

theorem ModeChanged.raise (h : ModeChanged s (R.ported p) new es notices) (m : Notice) :
    ∃ q, (R.ported p).raise m = R.ported q ∧ ModeChanged s (R.ported q) new es (notices ||| m.mask) := by
  obtain ⟨q, hq, heffect⟩ := h.effect.raise m
  refine ⟨q, hq, heffect, ?_⟩
  rw [← hq]
  exact h.shown

theorem ModeChanged.craneEntry (h : ModeChanged s (R.ported p) new es notices)
    (hs : State.journalTakes { s with mode := new } (es.length + (n + 1)) = true) (c event b13 b14 : Nat) :
    ∃ q, (R.ported p).craneEntry c event b13 b14 = R.ported q ∧
      ModeChanged s (R.ported q) new (es ++ [craneStateEntry c event b13 b14])
        (notices ||| Notice.crane.mask ||| Notice.entry.mask) := by
  obtain ⟨q, hq, hraised⟩ := h.raise .crane
  obtain ⟨q', hq', hproduced⟩ := hraised.produce hs
    { kind := 4, subject := c, detail := [byte event, byte b13, byte b14, 0] ++ leBytes 2 0 }
  refine ⟨q', (congrArg (State.produce · _) hq).trans hq', hproduced.effect.congr ?_, hproduced.shown⟩
  simp only [List.map_append, List.map_cons, List.map_nil, craneStateEntry_bytes]

/-- The change of mode: the directory, the entry, the notice. -/
theorem State.changeMode_announced (hport : R.port = s.port) (hmode : R.mode = s.mode) (hnew : new ≠ .resetting)
    (htakes : s.journalTakes (n + 1) = true) :
    ∃ q, R.changeMode new = State.ported { R with mode := new } q ∧
      ModeChanged s (State.ported { R with mode := new } q) new [modeEntry new s.mode 0]
        (Notice.entry.mask ||| Notice.mode.mask) := by
  obtain ⟨R1, hR1⟩ : ∃ R1, R1 = { R with mode := new } := ⟨_, rfl⟩
  have hport1 : R1.port = s.port := by rw [hR1]; exact hport
  have hread (b : Nat) : R1.readByte b = s.readByte b := State.readByte_congr (congrArg Port.mem hport1) b
  have hgeneral {b : Nat} (hb : 8 ≤ b) : (R1.writeGroup Group.general).readByte b = s.readByte b :=
    (State.readByte_writeGroup_of_outside (.inr hb)).trans (hread b)
  have htakes' := State.journalTakes_changed htakes hnew
  obtain ⟨p1, hp1⟩ : ∃ p1, R1.writeGroup Group.general = R1.ported p1 := ⟨_, State.writeGroup_portOnly ..⟩
  have hkept : (R1.writeGroup Group.general).writeCount = s.writeCount ∧
      (R1.writeGroup Group.general).holding = s.holding ∧ (R1.writeGroup Group.general).flags = s.flags ∧
      (R1.writeGroup Group.general).mode = new := by
    have hmode1 : R1.mode = new := by rw [hR1]
    have hwritten : (R1.writeGroup Group.general).records = R1.records := State.writeGroup_records ..
    refine ⟨(State.of_records State.writeCount hwritten).trans (congrArg Port.writeCount hport1),
      (State.of_records State.holding hwritten).trans (congrArg Port.holding hport1),
      (State.writeGroup_flags ..).trans (congrArg Port.flags hport1), (State.of_records State.mode hwritten).trans hmode1⟩
  have hstart : ModeChanged s (R1.ported p1) new [] 0 := by
    rw [← hp1]
    refine ⟨⟨Logged.of_unwritten htakes' hkept.1 hkept.2.1 hkept.2.2.2 fun b hb => hgeneral ?_, hkept.2.2.1.trans
      BitVec.or_zero.symm, fun b hb _ _ => hgeneral (by omega)⟩, ?_⟩
    · have := ringByte_iff.mp hb
      omega
    · have hbody := State.readByte_writeGroup_body (s := R1) (g := Group.general) (i := 0) (by decide)
      refine hbody.trans ?_
      rw [hR1]
      rfl
  obtain ⟨q, hq, hproduced⟩ := hstart.produce (n := n) (by rw [List.length_nil, Nat.zero_add]; exact htakes')
    (modeEntry new s.mode 0)
  obtain ⟨q', hq', hraised⟩ := hproduced.raise .mode
  have hlast : R.changeMode new = ((R1.writeGroup Group.general).produce (modeEntry new s.mode 0)).raise .mode := by
    rw [hR1, ← hmode]
    rfl
  rw [← hR1]
  refine ⟨q', ?_, ?_⟩
  · rw [hlast, hp1, hq, hq']
  · exact hraised

/-! ## A mode order is handled -/

/-- The state a mode order is handled in: it is no longer held, and intake has gone on (R163). -/
def State.ordered (s : State) : State := { s.begin with modeOrder := none, posts := postsGoingOn s.posts }

theorem takeModeOrder_due {k : Nat} {f : State → Order → State} (h : ModeOrderDue s k o) :
    takeModeOrder k f s.begin = f s.ordered o := by
  have hheld : s.begin.modeOrder = some o := h.held
  have hall : s.begin.allTakenUp = true := h.owners
  unfold takeModeOrder
  rw [hheld]
  dsimp only
  rw [if_pos ⟨h.kind, hall⟩, State.dropDealt_eq]
  rfl

/-- A mode order that changes the mode, writes entries and is answered. -/
theorem takeModeOrder_changed {k : Nat} {f : State → Order → State} (h : ModeOrderDue s k o)
    (hf : f s.ordered o = (R.ported p).reply o a) (hchanged : ModeChanged s (R.ported p) new es notices)
    (hlen : es.length ≤ n) (hheld : R.holding = s.holding) (htakes : s.journalTakes n = true) :
    ∃ t, handle (takeModeOrder k f) s = .next t ∧ t.readByte 1 = byte new.code ∧
      t.records = State.records { R with writeCount := t.writeCount } ∧ JournaledInOrder s t es ∧ ShowsAnswer t o.cell a ∧
      t.flags = s.flags ||| (notices ||| Notice.answer.mask) ∧
      OnlyWrites s t (fun b => answerByte o.cell b || s.journalPlace n b) := by
  obtain ⟨hlo, hhi⟩ := cellOffset_bounds h.cell
  have hcurrent : (R.ported p).cellIsOf o.cell o.take = true :=
    (hchanged.effect.cellIsOf h.cell fun _ _ _ => rfl).trans h.current
  obtain ⟨q, hq, heffect, hshown, hout⟩ := hchanged.effect.answer h.cell hcurrent a
  have hg : takeModeOrder k f s.begin = R.ported q := ((takeModeOrder_due h).trans hf).trans hq
  obtain ⟨t, hnext, hrecords, hflags, hbytes⟩ := handle_effect (takeModeOrder k f) s
  rw [hg] at hrecords hflags hbytes
  have hcount : t.writeCount = q.writeCount := State.of_records State.writeCount hrecords
  have hholding : t.holding = q.holding := State.of_records State.holding hrecords
  have hmode : t.mode = R.mode := State.of_records (u := R.ported q) State.mode hrecords
  have hempty : s.holding = [] := (State.journalTakes_iff.mp htakes).1
  have hlogged : Logged { s with mode := new } t es := by
    refine ⟨⟨hcount.trans heffect.logged.order.count, hholding.trans heffect.logged.order.held, fun i e he => ?_⟩,
      hmode.trans heffect.logged.mode, fun b hb hplace => ?_⟩
    · rw [← heffect.logged.order.entries i e he]
      refine State.readBytes_congr _ _ _ fun k hk => hbytes _ ?_
      have := journalOffset_bounds (s.writeCount + i)
      dsimp only
      omega
    · have hring := ringByte_iff.mp hb
      rw [hbytes b (by omega), heffect.logged.others b hb hplace]
  refine ⟨t, hnext, ?_, ?_, ⟨hlogged.order.count, hlogged.order.held, hlogged.order.entries⟩, ?_, hflags.trans heffect.flags, ?_⟩
  · rw [hbytes 1 (by omega), hout 1 ?_, hchanged.shown]
    simp only [answerByte, Bool.or_eq_false_iff, beq_eq_false_iff_ne, decide_eq_false_iff_not]
    omega
  · have hheld' : R.holding = q.holding := hheld.trans (hempty.trans heffect.logged.order.held.symm)
    rw [hrecords, hcount]
    unfold State.records State.ported
    rw [← hheld']
  · exact hshown.congr h.cell fun b hb hb' => hbytes b (by omega)
  · have hwrites : OnlyWrites { s with mode := new } t
        (fun b => answerByte o.cell b || State.journalPlace { s with mode := new } n b) :=
      .of_logged hlogged hlen (fun b hb => (Bool.or_eq_false_iff.mp hb).2) fun b hb hb' hw => by
        rw [hbytes b (by omega)]
        refine heffect.cells b hb hb' ?_
        rw [(Bool.or_eq_false_iff.mp hw).1]
        rfl
    exact hwrites

/-- A mode order that is answered and changes nothing else. -/
theorem takeModeOrder_answered {k : Nat} {f : State → Order → State} (h : ModeOrderDue s k o)
    (hf : f s.ordered o = s.ordered.reply o a) :
    ∃ t, handle (takeModeOrder k f) s = .next t ∧
      t.records = State.records { s with sent := [], modeOrder := none, posts := postsGoingOn s.posts } ∧ Answered s t o a := by
  obtain ⟨t, hnext, hrecords, hanswered⟩ := handle_answered (u := s.ordered) h.cell h.current ((takeModeOrder_due h).trans hf) rfl
    rfl
  exact ⟨t, hnext, hrecords, hanswered⟩

/-! ## START -/

theorem State.closureAtStart_of_open (hopen : s.closedBays = []) : s.closureAtStart = s := by
  unfold State.closureAtStart
  have hfold (l : List Nat) : l.foldl (fun s c => State.closureTests s c) s = s := by
    induction l with
    | nil => rfl
    | cons c l ih => rw [List.foldl_cons, State.closureTests_of_open hopen, ih]
  exact hfold _

theorem State.closedBays_congr (hbays : t.bays = s.bays) : t.closedBays = s.closedBays := by
  unfold State.closedBays
  refine congrArg (List.filter · [0, 1, 2]) (funext fun b => ?_)
  unfold State.closed State.bay
  rw [hbays]

/-- Settles O49: the grants, the change of mode, then the answer. -/
theorem startEntersRun : Obligations.StartEntersRun := by
  intro s o hdue hsetup hrefusal hopen htakes
  obtain ⟨cranes, touched, hgrants⟩ := s.ordered.makeGrants_eq
  have hcrane (c : Nat) := s.ordered.makeGrants_crane c
  obtain ⟨G, hG⟩ : ∃ G, G = s.ordered.makeGrants := ⟨_, rfl⟩
  rw [← hG] at hgrants hcrane
  have hport : G.port = s.port := by rw [hgrants]; rfl
  have hmode : G.mode = s.mode := by rw [hgrants]; rfl
  obtain ⟨q, hq, hchanged⟩ := State.changeMode_announced (n := 0) hport hmode (new := .run) (by decide) htakes
  obtain ⟨R, hR⟩ : ∃ R, R = { G with mode := .run } := ⟨_, rfl⟩
  rw [← hR] at hq hchanged
  have hclosed : (R.ported q).closedBays = [] := by
    have hbays : (R.ported q).bays = s.bays := by
      rw [hR, hgrants]
      rfl
    rw [State.closedBays_congr hbays, hopen]
  have horder : s.ordered.startOrder o = (R.ported q).reply o .ok := by
    have hchecked : s.ordered.startRefusal = none := hrefusal
    unfold State.startOrder
    rw [hchecked]
    dsimp only
    rw [← hG, hq, State.closureAtStart_of_open hclosed]
  have hheld : R.holding = s.holding := by
    rw [hR, hgrants]
    rfl
  obtain ⟨t, hnext, hbyte, hrecords, hjournal, hshown, hflags, honly⟩ := takeModeOrder_changed (n := 1) hdue horder hchanged
    (by simp) hheld htakes
  have hof {α : Type} (f : State → α) (hf : ∀ x : State, f x.records = f x)
      (hcount : ∀ x m, f { x with writeCount := m } = f x) : f t = f R := by
    rw [← hf t, hrecords, hf, hcount]
  refine ⟨t, hnext, (hof State.mode (fun _ => rfl) fun _ _ => rfl).trans (by rw [hR]), hbyte, fun c => ?_, ?_, hsetup ▸ hjournal,
    hshown, ?_, honly⟩
  · have hRcrane : R.crane c = G.crane c := by rw [hR]; rfl
    rw [hof (fun x => x.crane c) (fun _ => rfl) fun _ _ => rfl, hRcrane, hcrane]
    exact if_congr State.fitted_iff_both rfl rfl
  · rw [hrecords, hof State.cranes (fun _ => rfl) fun _ _ => rfl, hR, hgrants]
    rfl
  · rw [hflags, ← BitVec.or_assoc, ← BitVec.or_assoc]

end Sys2Proof.Machine
end

section
/-! PROOF. What a mode order does to the cranes, one after the other; HALT_ALL (R168). -/

namespace Sys2Proof.Machine

variable {s t u R M : State} {p q : Port} {o : Order} {a : Answer} {es : List JournalEntry} {notices : BitVec 10} {n c : Nat}
  {new : Mode} {l : List (Nat × StepTelegram)} {v : Crane}

/-! ## The cranes and their links -/

/-- `R` is `M` but for the cranes and what their links send; the telegrams `l` have been sent. -/
structure Fleet (M R : State) (l : List (Nat × StepTelegram)) : Prop where
  rest : R = { M with cranes := R.cranes, sent := R.sent, outgoing := R.outgoing, touched := R.touched }
  sent : R.sent = l
  transmitted : Transmitted M R

theorem Fleet.refl (hsent : M.sent = []) : Fleet M M [] where
  rest := rfl
  sent := hsent
  transmitted c := by
    rw [hsent]
    exact (List.append_nil _).symm

theorem Fleet.of_state {α : Type} (h : Fleet M R l) (f : State → α)
    (hf : ∀ cranes sent outgoing touched,
      f { M with cranes := cranes, sent := sent, outgoing := outgoing, touched := touched } = f M) : f R = f M := by
  have hrest := h.rest
  rw [hrest, hf]

theorem Fleet.modCrane (h : Fleet M R l) (c : Nat) (f : Crane → Crane) : Fleet M (R.modCrane c f) l where
  rest := by
    have hmod : R.modCrane c f =
        { R with cranes := (R.modCrane c f).cranes, touched := (R.modCrane c f).touched } := rfl
    have hrest := h.rest
    rw [hmod]
    generalize (R.modCrane c f).cranes = cranes
    generalize (R.modCrane c f).touched = touched
    rw [hrest]
  sent := h.sent
  transmitted := h.transmitted

theorem Fleet.send (h : Fleet M R l) (c : Nat) (x : StepTelegram) : Fleet M (R.send c x) (l ++ [(c, x)]) where
  rest := by
    have hsend : R.send c x = { R with sent := (R.send c x).sent, outgoing := (R.send c x).outgoing } := rfl
    have hrest := h.rest
    rw [hsend]
    generalize (R.send c x).sent = sent
    generalize (R.send c x).outgoing = outgoing
    rw [hrest]
  sent := congrArg (· ++ [(c, x)]) h.sent
  transmitted k := by
    have hbefore := h.transmitted k
    have hout : (R.send c x).outgoingTo k = if k = c then R.outgoingTo c ++ x.characters c else R.outgoingTo k := by
      rw [State.outgoingTo, State.send, Tab.get_put]
      rfl
    have hsent : (R.send c x).sent = R.sent ++ [(c, x)] := rfl
    rw [hout, hsent, List.filter_append, List.flatMap_append, ← List.append_assoc]
    by_cases hk : k = c
    · subst hk
      rw [if_pos rfl, hbefore]
      simp
    · rw [if_neg hk, hbefore]
      simp [Ne.symm hk]

theorem State.crane_send (s : State) (c k : Nat) (x : StepTelegram) : (s.send c x).crane k = s.crane k := rfl

theorem State.crane_modCrane (s : State) (c k : Nat) (f : Crane → Crane) :
    (s.modCrane c f).crane k = if k = c then f (s.crane c) else s.crane k := State.crane_setCrane ..

/-! ## A fold over cranes -/

/-- The notices of a crane's entries. -/
def craneNotices (es : List JournalEntry) : BitVec 10 :=
  if es = [] then 0#10 else Notice.crane.mask ||| Notice.entry.mask

theorem craneNotices_append (es fs : List JournalEntry) : craneNotices (es ++ fs) = craneNotices es ||| craneNotices fs := by
  unfold craneNotices
  by_cases hes : es = []
  · rw [hes, List.nil_append, if_pos rfl, BitVec.zero_or]
  · rw [if_neg hes, if_neg (by simp [hes])]
    by_cases hfs : fs = []
    · rw [if_pos hfs, BitVec.or_zero]
    · rw [if_neg hfs, BitVec.or_self]

/-- An operation that makes crane `c` of `M` into `F c`, sending `S c` and writing `E c`. -/
def ActsOnCranes (op : State → Nat → State) (s M : State) (new : Mode) (F : Nat → Crane) (S : Nat → List (Nat × StepTelegram))
    (E : Nat → List JournalEntry) : Prop :=
  ∀ (R : State) (p : Port) (c : Nat) (l : List (Nat × StepTelegram)) (es : List JournalEntry) (notices : BitVec 10) (n : Nat),
    c < 4 → Fleet M R l → R.crane c = M.crane c → ModeChanged s (R.ported p) new es notices →
    State.journalTakes { s with mode := new } (es.length + (n + 1)) = true →
    ∃ R' q, op (R.ported p) c = R'.ported q ∧ Fleet M R' (l ++ S c) ∧ R'.crane c = F c ∧
      (∀ j, j ≠ c → R'.crane j = R.crane j) ∧ (E c).length ≤ 1 ∧
      ModeChanged s (R'.ported q) new (es ++ E c) (notices ||| craneNotices (E c))

theorem ActsOnCranes.foldl {op : State → Nat → State} {F : Nat → Crane} {S : Nat → List (Nat × StepTelegram)}
    {E : Nat → List JournalEntry} (hop : ActsOnCranes op s M new F S E) (cs : List Nat) (hcs : cs.Nodup)
    (hlt : ∀ c ∈ cs, c < 4) :
    ∀ (R : State) (p : Port) (l : List (Nat × StepTelegram)) (es : List JournalEntry) (notices : BitVec 10),
      Fleet M R l → (∀ c ∈ cs, R.crane c = M.crane c) → ModeChanged s (R.ported p) new es notices →
      State.journalTakes { s with mode := new } (es.length + cs.length) = true →
      ∃ R' q, cs.foldl op (R.ported p) = R'.ported q ∧ Fleet M R' (l ++ cs.flatMap S) ∧
        (∀ c, R'.crane c = if c ∈ cs then F c else R.crane c) ∧ (cs.flatMap E).length ≤ cs.length ∧
        ModeChanged s (R'.ported q) new (es ++ cs.flatMap E) (notices ||| craneNotices (cs.flatMap E)) := by
  induction cs with
  | nil =>
    intro R p l es notices hfleet _ hchanged _
    refine ⟨R, p, rfl, ?_, fun c => (if_neg (by simp)).symm, le_refl _, ?_⟩
    · rw [List.flatMap_nil, List.append_nil]
      exact hfleet
    · rw [List.flatMap_nil, List.append_nil, craneNotices, if_pos rfl, BitVec.or_zero]
      exact hchanged
  | cons c cs ih =>
    intro R p l es notices hfleet hfresh hchanged htakes
    obtain ⟨hc, hcs⟩ := List.nodup_cons.mp hcs
    rw [List.length_cons] at htakes
    obtain ⟨R1, p1, hop1, hfleet1, hcrane1, hcranes1, hone, hchanged1⟩ := hop R p c l es notices cs.length
      (hlt c (by simp)) hfleet (hfresh c (by simp)) hchanged htakes
    obtain ⟨R2, p2, hop2, hfleet2, hcrane2, hlen, hchanged2⟩ := ih hcs (fun j hj => hlt j (by simp [hj])) R1 p1 _ _ _ hfleet1
      (fun j hj => (hcranes1 j fun h => hc (h ▸ hj)).trans (hfresh j (by simp [hj]))) hchanged1
      (State.journalTakes_mono htakes (by rw [List.length_append]; omega))
    refine ⟨R2, p2, ?_, ?_, fun j => ?_, ?_, ?_⟩
    · rw [List.foldl_cons, hop1, hop2]
    · rw [List.flatMap_cons, ← List.append_assoc]
      exact hfleet2
    · rw [hcrane2]
      by_cases hj : j = c
      · rw [hj, if_neg hc, if_pos (by simp), hcrane1]
      · rw [hcranes1 j hj]
        simp only [List.mem_cons, hj, false_or]
    · rw [List.flatMap_cons, List.length_append, List.length_cons]
      omega
    · rw [List.flatMap_cons, craneNotices_append, ← List.append_assoc, ← BitVec.or_assoc]
      exact hchanged2

theorem flatMap_filter_singleton {α : Type} (cs : List Nat) (f g : Nat → Bool) (x : Nat → α) :
    (cs.filter f).flatMap (fun c => if g c = true then [x c] else []) = (cs.filter fun c => f c && g c).map x := by
  induction cs with
  | nil => rfl
  | cons c cs ih =>
    by_cases hf : f c = true
    · by_cases hg : g c = true
      · simp [hf, hg, ih]
      · simp [hf, hg, ih]
    · simp [hf, ih]

theorem fittedCranes_eq (s : State) : fittedCranes s = (List.range 4).filter fun c => decide (c ≤ s.straps) := by
  unfold fittedCranes
  rw [show ([0, 1, 2, 3] : List Nat) = List.range 4 from rfl]
  refine List.filter_congr fun c hc => ?_
  rw [Bool.eq_iff_iff, State.fitted_iff_both, decide_eq_true_iff]
  exact and_iff_left (List.mem_range.mp hc)

/-- The cranes a mode order acts on, in rising number, from the state after the change of mode. -/
theorem ActsOnCranes.fitted {op : State → Nat → State} {F : Nat → Crane} {S : Nat → List (Nat × StepTelegram)}
    {E : Nat → List JournalEntry} (hop : ActsOnCranes op s M new F S E) (hsent : M.sent = [])
    (hchanged : ModeChanged s (M.ported p) new es notices) (hes : es.length = 1)
    (htakes : State.journalTakes { s with mode := new } 5 = true) :
    ∃ R' q, ((List.range 4).filter fun c => decide (c ≤ s.straps)).foldl op (M.ported p) = R'.ported q ∧
      Fleet M R' (((List.range 4).filter fun c => decide (c ≤ s.straps)).flatMap S) ∧
      (∀ c, R'.crane c = if c ≤ s.straps ∧ c < 4 then F c else M.crane c) ∧
      (es ++ ((List.range 4).filter fun c => decide (c ≤ s.straps)).flatMap E).length ≤ 5 ∧
      ModeChanged s (R'.ported q) new (es ++ ((List.range 4).filter fun c => decide (c ≤ s.straps)).flatMap E)
        (notices ||| craneNotices (((List.range 4).filter fun c => decide (c ≤ s.straps)).flatMap E)) := by
  obtain ⟨cs, hcs⟩ : ∃ cs, cs = (List.range 4).filter fun c => decide (c ≤ s.straps) := ⟨_, rfl⟩
  have hnodup : cs.Nodup := hcs ▸ List.Nodup.filter _ List.nodup_range
  have hlength : cs.length ≤ 4 := by
    rw [hcs]
    exact (List.length_filter_le _ _).trans (by simp)
  have hmem (c : Nat) : c ∈ cs ↔ c ≤ s.straps ∧ c < 4 := by
    rw [hcs, List.mem_filter, List.mem_range, decide_eq_true_iff, and_comm]
  obtain ⟨R', q, hfold, hfleet, hcrane, hlen, hall⟩ := hop.foldl cs hnodup (fun c hc => ((hmem c).mp hc).2) M p [] es notices
    (Fleet.refl hsent) (fun _ _ => rfl) hchanged (State.journalTakes_mono htakes (by omega))
  rw [← hcs]
  refine ⟨R', q, hfold, hfleet, fun c => (hcrane c).trans (if_congr (hmem c) rfl rfl), ?_, hall⟩
  rw [List.length_append]
  omega

/-! ## HALT_ALL -/

/-- The crane a STOP goes to: a step in progress is given up. -/
def Crane.givingUp (v : Crane) : Crane := if v.step.isSome ∧ v.givenUp = .no then { v with givenUp := .stop } else v

/-- The crane that holds HALT_ALL. -/
def Crane.haltCaused (v : Crane) : Crane :=
  if v.causes.haltAll = true then v
  else if (v.causes.isEmpty && v.state.stoppable) = true then
    { v with causes := { v.causes with haltAll := true }, resume := v.state, state := .stopped }
  else { v with causes := { v.causes with haltAll := true } }

theorem Fleet.sendStop (h : Fleet M R l) (hcrane : R.crane c = v) (now : Bool) :
    ∃ R', (R.ported p).sendStop c now = R'.ported p ∧ Fleet M R' (l ++ [(c, .stop v.currentNumber now)]) ∧
      R'.crane c = v.givingUp ∧ (∀ j, j ≠ c → R'.crane j = R.crane j) ∧ R'.mode = R.mode := by
  have hsent := h.send c (.stop v.currentNumber now)
  have hkept : (R.send c (.stop v.currentNumber now)).crane c = v := hcrane
  unfold State.sendStop
  dsimp only
  rw [State.crane_ported, hcrane, State.send_ported]
  by_cases hgive : v.step.isSome ∧ v.givenUp = .no
  · rw [if_pos hgive, State.modCrane_ported]
    refine ⟨_, rfl, hsent.modCrane .., ?_, fun j hj => ?_, rfl⟩
    · rw [State.crane_modCrane, if_pos rfl, hkept, Crane.givingUp, if_pos hgive]
    · rw [State.crane_modCrane, if_neg hj]
      rfl
  · rw [if_neg hgive]
    refine ⟨_, rfl, hsent, ?_, fun _ _ => rfl, rfl⟩
    rw [Crane.givingUp, if_neg hgive]
    exact hkept

theorem Fleet.addHaltAll (h : Fleet M R l) (hcrane : R.crane c = v) (hzero : (R.channel c).zeroSet = none)
    (hchanged : ModeChanged s (R.ported p) new es notices)
    (htakes : State.journalTakes { s with mode := new } (es.length + (n + 1)) = true) :
    ∃ R' q, (R.ported p).addCause c .haltAll = R'.ported q ∧ Fleet M R' l ∧ R'.crane c = v.haltCaused ∧
      (∀ j, j ≠ c → R'.crane j = R.crane j) ∧
      ModeChanged s (R'.ported q) new (es ++ if v.causes.haltAll = true then [] else [craneStateEntry c 7 1 0])
        (notices ||| craneNotices (if v.causes.haltAll = true then [] else [craneStateEntry c 7 1 0])) := by
  have hhas : v.causes.has .haltAll = v.causes.haltAll := rfl
  unfold State.addCause
  dsimp only
  rw [State.crane_ported, hcrane, hhas]
  by_cases hheld : v.causes.haltAll = true
  · rw [if_pos hheld, if_pos hheld]
    refine ⟨R, p, rfl, h, hcrane.trans ?_, fun _ _ => rfl, ?_⟩
    · rw [Crane.haltCaused, if_pos hheld]
    · rw [List.append_nil, craneNotices, if_pos rfl, BitVec.or_zero]
      exact hchanged
  · rw [if_neg hheld, if_neg hheld]
    have hentry : craneNotices [craneStateEntry c 7 1 0] = Notice.crane.mask ||| Notice.entry.mask :=
      if_neg (List.cons_ne_nil _ _)
    have hstate : ∃ R1, (if (v.causes.isEmpty && v.state.stoppable) = true then
          (((R.ported p).modCrane c fun k => { k with causes := k.causes.put true .haltAll }).modCrane c fun k =>
            { k with resume := k.state }).setCraneState c .stopped
        else (R.ported p).modCrane c fun k => { k with causes := k.causes.put true .haltAll }) = R1.ported p ∧ Fleet M R1 l ∧
        R1.crane c = v.haltCaused ∧ (∀ j, j ≠ c → R1.crane j = R.crane j) ∧ R1.mode = R.mode := by
      have hcaused := h.modCrane c fun k => { k with causes := k.causes.put true .haltAll }
      by_cases hstops : (v.causes.isEmpty && v.state.stoppable) = true
      · have hstopped := (hcaused.modCrane c fun k => { k with resume := k.state }).modCrane c fun k =>
          { k with state := .stopped }
        rw [if_pos hstops, State.modCrane_ported, State.modCrane_ported,
          State.setCraneState_of_noZeroSet (by exact hzero), State.modCrane_ported]
        refine ⟨_, rfl, hstopped, ?_, fun j hj => ?_, rfl⟩
        · rw [State.crane_modCrane, if_pos rfl, State.crane_modCrane, if_pos rfl, State.crane_modCrane, if_pos rfl, hcrane,
            Crane.haltCaused, if_neg hheld, if_pos hstops]
          rfl
        · rw [State.crane_modCrane, if_neg hj, State.crane_modCrane, if_neg hj, State.crane_modCrane, if_neg hj]
      · rw [if_neg hstops, State.modCrane_ported]
        refine ⟨_, rfl, hcaused, ?_, fun j hj => ?_, rfl⟩
        · rw [State.crane_modCrane, if_pos rfl, hcrane, Crane.haltCaused, if_neg hheld, if_neg hstops]
          rfl
        · rw [State.crane_modCrane, if_neg hj]
    obtain ⟨R1, hR1, hfleet1, hcrane1, hcranes1, hmode1⟩ := hstate
    obtain ⟨q, hq, hchanged1⟩ := (hchanged.records_changed hmode1).craneEntry htakes c 7 1 0
    rw [hR1, hentry, ← BitVec.or_assoc]
    exact ⟨R1, q, hq, hfleet1, hcrane1, hcranes1, hchanged1⟩

/-- HALT_ALL on one crane. -/
theorem haltCrane_acts (hzero : ∀ c < 4, (M.channel c).zeroSet = none) :
    ActsOnCranes State.haltCrane s M new
      (fun c => if (M.crane c).state = .fault then M.crane c else (M.crane c).givingUp.haltCaused)
      (fun c => if ((M.crane c).state != .fault) = true then [(c, .stop (M.crane c).currentNumber true)] else [])
      (fun c => if ((M.crane c).state != .fault && !(M.crane c).causes.haltAll) = true then [craneStateEntry c 7 1 0] else []) := by
  intro R p c l es notices n hlt h hcrane hchanged htakes
  unfold State.haltCrane
  rw [State.crane_ported, hcrane]
  dsimp only
  by_cases hfault : (M.crane c).state = .fault
  · have hnot : ((M.crane c).state != .fault) = false := by rw [hfault]; rfl
    rw [if_pos hfault, if_pos hfault, hnot, if_neg Bool.false_ne_true, Bool.false_and, if_neg Bool.false_ne_true,
      List.append_nil, List.append_nil, craneNotices, if_pos rfl, BitVec.or_zero]
    exact ⟨R, p, rfl, h, hcrane, fun _ _ => rfl, Nat.zero_le _, hchanged⟩
  · have hgo : ((M.crane c).state != .fault) = true := bne_iff_ne.mpr hfault
    obtain ⟨R1, hR1, h1, hcrane1, hcranes1, hmode1⟩ := h.sendStop (p := p) hcrane true
    have hcauses : (M.crane c).givingUp.causes = (M.crane c).causes := by
      unfold Crane.givingUp
      split_ifs <;> rfl
    have hzero1 : (R1.channel c).zeroSet = none := by
      rw [h1.of_state (fun x => x.channel c) fun _ _ _ _ => rfl]
      exact hzero c hlt
    obtain ⟨R2, q, hR2, h2, hcrane2, hcranes2, hchanged2⟩ := h1.addHaltAll hcrane1 hzero1 (hchanged.records_changed hmode1) htakes
    have hentries : (if (M.crane c).givingUp.causes.haltAll = true then [] else [craneStateEntry c 7 1 0]) =
        if ((M.crane c).state != .fault && !(M.crane c).causes.haltAll) = true then [craneStateEntry c 7 1 0] else [] := by
      rw [hcauses, hgo, Bool.true_and]
      cases (M.crane c).causes.haltAll <;> rfl
    rw [hentries] at hchanged2
    rw [if_neg hfault, if_neg hfault, if_pos hgo, hR1, hR2]
    refine ⟨R2, q, rfl, h2, hcrane2, fun j hj => (hcranes2 j hj).trans (hcranes1 j hj), ?_, hchanged2⟩
    split_ifs <;> simp

/-- The crane HALT_ALL leaves. -/
theorem Crane.haltCaused_givingUp (v : Crane) :
    v.givingUp.haltCaused =
      { v with
        causes := { v.causes with haltAll := true }
        resume := if v.causes = {} ∧ (v.state = .idle ∨ v.state = .busy ∨ v.state = .yielding) then v.state else v.resume
        state := if v.causes = {} ∧ (v.state = .idle ∨ v.state = .busy ∨ v.state = .yielding) then .stopped else v.state
        givenUp := if v.step ≠ none ∧ v.givenUp = .no then .stop else v.givenUp } := by
  have hstops : (v.causes.isEmpty && v.state.stoppable) = true ↔
      v.causes = {} ∧ (v.state = .idle ∨ v.state = .busy ∨ v.state = .yielding) := by
    rw [Bool.and_eq_true, Causes.isEmpty_iff]
    cases v.state <;> simp [CraneState.stoppable]
  have hgive : v.givingUp = { v with givenUp := if v.step ≠ none ∧ v.givenUp = .no then .stop else v.givenUp } := by
    unfold Crane.givingUp
    by_cases hstep : v.step ≠ none ∧ v.givenUp = .no
    · rw [if_pos hstep, if_pos ⟨Option.isSome_iff_ne_none.mpr hstep.1, hstep.2⟩]
    · rw [if_neg hstep, if_neg fun h => hstep ⟨Option.isSome_iff_ne_none.mp h.1, h.2⟩]
  rw [hgive]
  unfold Crane.haltCaused
  dsimp only
  by_cases hheld : v.causes.haltAll = true
  · have hnot : ¬(v.causes = {} ∧ (v.state = .idle ∨ v.state = .busy ∨ v.state = .yielding)) := fun h => by
      rw [h.1] at hheld
      exact Bool.noConfusion hheld
    have hcauses : { v.causes with haltAll := true } = v.causes := by rw [← hheld]
    rw [if_pos hheld, if_neg hnot, if_neg hnot, hcauses]
  · rw [if_neg hheld]
    by_cases h : v.causes = {} ∧ (v.state = .idle ∨ v.state = .busy ∨ v.state = .yielding)
    · rw [if_pos (hstops.mpr h), if_pos h, if_pos h]
    · rw [if_neg (fun hs => h (hstops.mp hs)), if_neg h, if_neg h]

/-- The notices of a mode order with entries of cranes. -/
theorem modeNotices (flags : BitVec 10) (es : List JournalEntry) :
    flags ||| (Notice.entry.mask ||| Notice.mode.mask ||| craneNotices es ||| Notice.answer.mask) =
      flags ||| Notice.entry.mask ||| Notice.mode.mask ||| Notice.answer.mask ||| (if es = [] then 0 else Notice.crane.mask) := by
  have hsame : Notice.entry.mask ||| Notice.mode.mask ||| craneNotices es ||| Notice.answer.mask =
      Notice.entry.mask ||| (Notice.mode.mask ||| (Notice.answer.mask ||| if es = [] then 0 else Notice.crane.mask)) := by
    unfold craneNotices
    split_ifs <;> decide
  rw [hsame]
  simp only [BitVec.or_assoc]

/-- Settles O50: the change of mode, then the cranes in rising number, then the answer. -/
theorem haltAllStopsEveryCrane : Obligations.HaltAllStopsEveryCrane := by
  intro s o fit added hdue hrun hzero htakes
  obtain ⟨M, hM⟩ : ∃ M, M = { s.ordered with mode := .halted } := ⟨_, rfl⟩
  obtain ⟨p, hp, hchanged⟩ := State.changeMode_announced (R := s.ordered) (s := s) (n := 4) rfl rfl (new := .halted) (by decide)
    htakes
  rw [← hM] at hp hchanged
  have hMcrane (c : Nat) : M.crane c = s.crane c := by rw [hM]; rfl
  have hMsent : M.sent = [] := by rw [hM]; rfl
  have hMzero (c : Nat) (hc : c < 4) : (M.channel c).zeroSet = none := by
    rw [hM]
    exact hzero c hc
  obtain ⟨R, q, hfold, hfleet, hcrane, hlen, hchanged'⟩ := (haltCrane_acts (s := s) (new := .halted) hMzero).fitted hMsent
    hchanged rfl (State.journalTakes_changed htakes (by decide))
  simp only [hMcrane] at hcrane
  rw [flatMap_filter_singleton] at hfleet hchanged' hlen
  simp only [hMcrane] at hfleet hchanged' hlen
  have horder : s.ordered.haltOrder o = (R.ported q).reply o .ok := by
    unfold State.haltOrder
    have hfitted : fittedCranes s.ordered = (List.range 4).filter fun c => decide (c ≤ s.straps) := fittedCranes_eq s.ordered
    rw [hp, hfitted, hfold]
  have hheld : R.holding = s.holding := by
    rw [hfleet.of_state State.holding fun _ _ _ _ => rfl, hM]
    rfl
  have hadded : ((List.range 4).filter fun c =>
      decide (c ≤ s.straps) && ((s.crane c).state != .fault && !(s.crane c).causes.haltAll)) = added :=
    List.filter_congr fun c _ => (Bool.and_assoc ..).symm
  rw [hadded] at hchanged' hlen
  obtain ⟨t, hnext, hbyte, hrecords, hjournal, hshown, hflags, honly⟩ := takeModeOrder_changed hdue horder hchanged' hlen hheld
    htakes
  have hof {α : Type} (f : State → α) (hf : ∀ x : State, f x.records = f x)
      (hcount : ∀ x m, f { x with writeCount := m } = f x) : f t = f R := by
    rw [← hf t, hrecords, hf, hcount]
  have hsent : t.sent = R.sent := hof State.sent (fun _ => rfl) fun _ _ => rfl
  refine ⟨t, hnext, ?_, hbyte, fun c => ?_, hsent.trans hfleet.sent, fun c => ?_, ?_, hrun ▸ hjournal, hshown, ?_, honly⟩
  · rw [hof State.mode (fun _ => rfl) fun _ _ => rfl, hfleet.of_state State.mode fun _ _ _ _ => rfl, hM]
  · rw [hof (fun x => x.crane c) (fun _ => rfl) fun _ _ => rfl, hcrane]
    by_cases hin : c ≤ s.straps ∧ c < 4
    · rw [if_pos hin]
      by_cases hfault : (s.crane c).state = .fault
      · rw [if_pos hfault, if_neg fun h : fit c => h.2.2 hfault]
      · rw [if_neg hfault, if_pos (show fit c from ⟨hin.1, hin.2, hfault⟩)]
        exact Crane.haltCaused_givingUp _
    · rw [if_neg hin, if_neg fun h : fit c => hin ⟨h.1, h.2.1⟩]
  · have hbefore : M.outgoingTo c = s.outgoingTo c := by rw [hM]; rfl
    rw [hof (fun x => x.outgoingTo c) (fun _ => rfl) fun _ _ => rfl, hfleet.transmitted c, hbefore, hsent]
  · rw [hrecords, hsent, hof State.outgoing (fun _ => rfl) fun _ _ => rfl, hof State.cranes (fun _ => rfl) fun _ _ => rfl]
    have hrest := hfleet.rest
    rw [hrest, hM]
    rfl
  · rw [hflags, modeNotices]
    refine congrArg (_ ||| ·) (if_congr ?_ rfl rfl)
    exact List.map_eq_nil_iff

end Sys2Proof.Machine
end

section
/-! PROOF. RESUME (R169). -/

namespace Sys2Proof.Machine

variable {s t u R M : State} {p q : Port} {o : Order} {es : List JournalEntry} {notices : BitVec 10} {n c : Nat} {new : Mode}
  {l : List (Nat × StepTelegram)} {v : Crane}

/-! ## The step sent again -/

/-- The step that waits, or else the one a STOP gave up. -/
def Crane.resent (v : Crane) : Option StepKind :=
  match v.waiting, v.step, v.givenUp with
  | some kind, _, _ => some kind
  | none, some st, .stop => some st.kind
  | none, _, _ => none

theorem State.resumeSteps_eq (s : State) (c : Nat) :
    s.resumeSteps c =
      if (s.crane c).state = .stopped ∨ s.bedHeld c = true then s
      else
        match (s.crane c).resent with
        | some kind => s.sendStep c kind
        | none => s := by
  unfold State.resumeSteps
  dsimp only
  refine ite_congr rfl (fun _ => rfl) fun _ => ?_
  unfold Crane.resent
  cases (s.crane c).waiting with
  | some kind => rfl
  | none =>
    cases (s.crane c).step with
    | none => rfl
    | some st => cases (s.crane c).givenUp <;> rfl

theorem State.bedHeld_congr (hqueue : (t.crane c).queue = (s.crane c).queue) (hmoves : t.moves = s.moves) (hbays : t.bays = s.bays) :
    t.bedHeld c = s.bedHeld c := by
  have hmove (m : Nat) : t.move? m = s.move? m := by
    unfold State.move?
    rw [hmoves]
  have hbed : t.workBed c = s.workBed c := by
    unfold State.workBed State.currentMove
    rw [hqueue, show t.move? = s.move? from funext hmove]
  have hbay (b : Nat) : t.bay b = s.bay b := by
    unfold State.bay
    rw [hbays]
  unfold State.bedHeld
  rw [hbed, show t.bay = s.bay from funext hbay]

theorem Fleet.sendStep (h : Fleet M R l) (hcrane : R.crane c = v) (kind : StepKind) :
    ∃ R', (R.ported p).sendStep c kind = R'.ported p ∧ Fleet M R' (l ++ [(c, stepTelegram v.nextNumber v.grant kind)]) ∧
      R'.crane c = v.stepping kind ∧ (∀ j, j ≠ c → R'.crane j = R.crane j) ∧ R'.mode = R.mode := by
  obtain ⟨R1, hR1⟩ : ∃ R1, R1 = R.modCrane c fun _ => v.stepping kind := ⟨_, rfl⟩
  have h1 : Fleet M R1 l := hR1 ▸ h.modCrane c fun _ => v.stepping kind
  have hstep : (R.ported p).sendStep c kind = (R1.send c (stepTelegram v.nextNumber v.grant kind)).ported p := by
    unfold State.sendStep
    dsimp only
    rw [State.crane_ported, hcrane, hR1]
    rfl
  refine ⟨_, hstep, h1.send .., ?_, fun j hj => ?_, ?_⟩
  · rw [State.crane_send, hR1, State.crane_modCrane, if_pos rfl]
  · rw [State.crane_send, hR1, State.crane_modCrane, if_neg hj]
  · rw [hR1]
    rfl

/-! ## HALT_ALL leaves a crane's causes -/

/-- A STOPPED crane that HALT_ALL leaves without a cause. -/
def Crane.returns (v : Crane) : Bool :=
  decide ({ v.causes with haltAll := false } = ({} : Causes)) && v.state == .stopped

/-- The crane without HALT_ALL. -/
def Crane.resumed (v : Crane) : Crane :=
  { v with causes := { v.causes with haltAll := false }, state := if v.returns = true then v.resume else v.state }

/-- The step a crane is sent when HALT_ALL leaves its causes. -/
def State.resentStep (s : State) (c : Nat) : Option StepKind :=
  if (s.crane c).returns = true ∧ (s.crane c).resume ≠ .stopped ∧ s.bedHeld c = false then (s.crane c).resent else none

/-- The crane once its step is sent again. -/
def Crane.carryingOn (v : Crane) : Option StepKind → Crane
  | some kind => v.resumed.stepping kind
  | none => v.resumed

/-- What is sent with the step. -/
def Crane.resends (v : Crane) (c : Nat) : Option StepKind → List (Nat × StepTelegram)
  | some kind => [(c, stepTelegram v.nextNumber v.grant kind)]
  | none => []

/-- A crane that returns is sent its step. -/
theorem Fleet.resumeSteps (h : Fleet M R l) (hcrane : R.crane c = v.resumed) (hv : M.crane c = v) (hreturns : v.returns = true) :
    ∃ R', (R.ported p).resumeSteps c = R'.ported p ∧ Fleet M R' (l ++ v.resends c (M.resentStep c)) ∧
      R'.crane c = v.carryingOn (M.resentStep c) ∧ (∀ j, j ≠ c → R'.crane j = R.crane j) ∧ R'.mode = R.mode := by
  have hheld : (R.ported p).bedHeld c = M.bedHeld c := by
    refine State.bedHeld_congr ?_ (h.of_state State.moves fun _ _ _ _ => rfl) (h.of_state State.bays fun _ _ _ _ => rfl)
    rw [State.crane_ported, hcrane, hv]
    rfl
  have hstate : v.resumed.state = v.resume := if_pos hreturns
  have hresent : v.resumed.resent = v.resent := rfl
  rw [State.resumeSteps_eq, hheld, State.crane_ported, hcrane, hstate, hresent]
  have hnone : M.resentStep c = none → R.ported p = R.ported p →
      ∃ R', R.ported p = R'.ported p ∧ Fleet M R' (l ++ v.resends c (M.resentStep c)) ∧
        R'.crane c = v.carryingOn (M.resentStep c) ∧ (∀ j, j ≠ c → R'.crane j = R.crane j) ∧ R'.mode = R.mode := by
    intro hstep _
    rw [hstep]
    refine ⟨R, rfl, ?_, hcrane, fun _ _ => rfl, rfl⟩
    rw [Crane.resends, List.append_nil]
    exact h
  by_cases hwaits : v.resume = .stopped ∨ M.bedHeld c = true
  · rw [if_pos hwaits]
    refine hnone (if_neg ?_) rfl
    rintro ⟨-, hrun, hfree⟩
    rw [hv] at hrun
    rcases hwaits with hstop | hbed
    · exact hrun hstop
    · exact Bool.noConfusion (hbed.symm.trans hfree)
  · rw [if_neg hwaits]
    obtain ⟨hrun, hfree⟩ := not_or.mp hwaits
    have hstep : M.resentStep c = v.resent := by
      unfold State.resentStep
      rw [hv]
      exact if_pos ⟨hreturns, hrun, Bool.eq_false_iff.mpr hfree⟩
    cases hkind : v.resent with
    | none => exact hnone (hstep.trans hkind) rfl
    | some kind =>
      obtain ⟨R', hR', hfleet, hcrane', hcranes, hmode⟩ := h.sendStep (p := p) hcrane kind
      rw [hstep, hkind]
      exact ⟨R', hR', hfleet, hcrane', hcranes, hmode⟩

theorem Crane.returns_iff (v : Crane) :
    v.returns = true ↔ (v.causes.put false .haltAll).isEmpty = true ∧ v.state = .stopped := by
  unfold Crane.returns
  rw [Bool.and_eq_true, decide_eq_true_iff, beq_iff_eq, Causes.isEmpty_iff]
  rfl

/-- RESUME on one crane. -/
theorem removeHaltAll_acts :
    ActsOnCranes (fun s c => s.removeCause c .haltAll) s M new
      (fun c => if (M.crane c).causes.haltAll = true then (M.crane c).carryingOn (M.resentStep c) else M.crane c)
      (fun c => if (M.crane c).causes.haltAll = true then (M.crane c).resends c (M.resentStep c) else [])
      (fun c => if (M.crane c).causes.haltAll = true then [craneStateEntry c 8 1 0] else []) := by
  intro R p c l es notices n hlt h hcrane hchanged htakes
  have hhas : (M.crane c).causes.has .haltAll = (M.crane c).causes.haltAll := rfl
  unfold State.removeCause
  dsimp only
  rw [State.crane_ported, hcrane, hhas]
  by_cases hheld : (M.crane c).causes.haltAll = true
  · obtain ⟨v, hv⟩ : ∃ v, M.crane c = v := ⟨_, rfl⟩
    rw [hv] at hheld hcrane
    have hentry : craneNotices [craneStateEntry c 8 1 0] = Notice.crane.mask ||| Notice.entry.mask :=
      if_neg (List.cons_ne_nil _ _)
    have h1 := h.modCrane c fun k => { k with causes := k.causes.put false .haltAll }
    obtain ⟨q, hq, hchanged1⟩ := (hchanged.records_changed
      (R' := R.modCrane c fun k => { k with causes := k.causes.put false .haltAll }) rfl).craneEntry htakes c 8 1 0
    obtain ⟨R1, hR1⟩ : ∃ R1, R1 = R.modCrane c fun k => { k with causes := k.causes.put false .haltAll } := ⟨_, rfl⟩
    have hcrane1 : R1.crane c = { v with causes := v.causes.put false .haltAll } := by
      rw [hR1, State.crane_modCrane, if_pos rfl, hcrane]
    have hcranes1 (j : Nat) (hj : j ≠ c) : R1.crane j = R.crane j := by
      rw [hR1, State.crane_modCrane, if_neg hj]
    have hmode1 : R1.mode = R.mode := by rw [hR1]; rfl
    rw [← hR1] at h1 hq hchanged1
    rw [hv, if_pos hheld, if_pos hheld, if_pos hheld, if_pos hheld, hentry, ← BitVec.or_assoc, State.modCrane_ported, ← hR1]
    have hcodes : (R1.ported p).craneEntry c 8 (Cause.haltAll.codes c).1 (Cause.haltAll.codes c).2 = R1.ported q := hq
    rw [hcodes]
    by_cases hreturns : v.returns = true
    · rw [if_pos (v.returns_iff.mp hreturns), State.setCraneState_of_notIdle (by
        rw [State.crane_ported, hcrane1]
        dsimp only
        rw [(v.returns_iff.mp hreturns).2]
        decide), State.modCrane_ported]
      have h2 := h1.modCrane c fun k => { k with state := v.resume }
      have hcrane2 : (R1.modCrane c fun k => { k with state := v.resume }).crane c = v.resumed := by
        rw [State.crane_modCrane, if_pos rfl, hcrane1, Crane.resumed, if_pos hreturns]
        rfl
      obtain ⟨R', hR', hfleet, hcrane', hcranes, hmode⟩ := h2.resumeSteps (p := q) hcrane2 hv hreturns
      refine ⟨R', q, hR', hfleet, hcrane', fun j hj => ?_, le_refl _, hchanged1.records_changed hmode⟩
      rw [hcranes j hj, State.crane_modCrane, if_neg hj, hcranes1 j hj]
    · have hstep : M.resentStep c = none := by
        unfold State.resentStep
        rw [hv]
        exact if_neg fun hgo => hreturns hgo.1
      rw [if_neg (fun hgo => hreturns (v.returns_iff.mpr hgo)), hstep, Crane.resends, List.append_nil]
      refine ⟨R1, q, rfl, h1, hcrane1.trans ?_, hcranes1, le_refl _, hchanged1⟩
      rw [Crane.carryingOn, Crane.resumed, if_neg hreturns]
      rfl
  · rw [if_neg hheld, if_neg hheld, if_neg hheld, if_neg hheld, List.append_nil, List.append_nil, craneNotices, if_pos rfl,
      BitVec.or_zero]
    exact ⟨R, p, rfl, h, hcrane, fun _ _ => rfl, Nat.zero_le _, hchanged⟩

/-! ## The obligation -/

theorem flatMap_filter_ite {α : Type} (cs : List Nat) (f g : Nat → Bool) (x : Nat → List α) :
    (cs.filter f).flatMap (fun c => if g c = true then x c else []) = (cs.filter fun c => f c && g c).flatMap x := by
  induction cs with
  | nil => rfl
  | cons c cs ih =>
    by_cases hf : f c = true
    · by_cases hg : g c = true
      · simp [hf, hg, ih]
      · simp [hf, hg, ih]
    · simp [hf, ih]

theorem Crane.resends_eq (v : Crane) (c : Nat) (x : Option StepKind) :
    v.resends c x = (x.map fun kind => (c, stepTelegram v.nextNumber v.grant kind)).toList := by
  cases x <;> rfl

/-- Nothing of the runway waits after a RESUME. -/
theorem Crane.carryingOn_quiet (v : Crane) (x : Option StepKind) :
    (v.carryingOn x).yield = v.yield ∧ (v.carryingOn x).deferral = v.deferral := by
  cases x <;> exact ⟨rfl, rfl⟩

theorem State.resentStep_congr (hcrane : t.crane c = s.crane c) (hmoves : t.moves = s.moves) (hbays : t.bays = s.bays) :
    t.resentStep c = s.resentStep c := by
  unfold State.resentStep
  rw [hcrane, State.bedHeld_congr (congrArg Crane.queue hcrane) hmoves hbays]

/-- Settles O51: the change of mode, then the cranes in rising number, then the answer. -/
theorem resumeRemovesHaltAll : Obligations.ResumeRemovesHaltAll := by
  intro s o removed returns again number hdue hhalted hquiet htakes
  obtain ⟨M, hM⟩ : ∃ M, M = { s.ordered with mode := .run } := ⟨_, rfl⟩
  obtain ⟨p, hp, hchanged⟩ := State.changeMode_announced (R := s.ordered) (s := s) (n := 4) rfl rfl (new := .run) (by decide) htakes
  rw [← hM] at hp hchanged
  have hMcrane (c : Nat) : M.crane c = s.crane c := by rw [hM]; rfl
  have hMsent : M.sent = [] := by rw [hM]; rfl
  have hagain (c : Nat) : M.resentStep c = again c := by
    rw [State.resentStep_congr (hMcrane c) (by rw [hM]; rfl) (by rw [hM]; rfl)]
    rfl
  obtain ⟨R, q, hfold, hfleet, hcrane, hlen, hchanged'⟩ := (removeHaltAll_acts (s := s) (M := M) (new := .run)).fitted hMsent
    hchanged rfl (State.journalTakes_changed htakes (by decide))
  rw [flatMap_filter_ite (g := fun c => (M.crane c).causes.haltAll)] at hfleet
  rw [flatMap_filter_singleton (g := fun c => (M.crane c).causes.haltAll)] at hchanged' hlen
  simp only [hMcrane, hagain] at hfleet hchanged' hlen hcrane
  have hRquiet : (R.ported q).runwayQuiet := by
    have hrequests : R.requests = s.requests := by
      rw [hfleet.of_state State.requests fun _ _ _ _ => rfl, hM]
      rfl
    have hstalled : R.stalled = s.stalled := by
      rw [hfleet.of_state State.stalled fun _ _ _ _ => rfl, hM]
      rfl
    refine hquiet.congr hrequests hstalled fun c => ?_
    rw [State.crane_ported, hcrane]
    split_ifs
    · exact (s.crane c).carryingOn_quiet _
    · exact ⟨rfl, rfl⟩
    · exact ⟨rfl, rfl⟩
  have horder : s.ordered.resumeOrder o = (R.ported q).reply o .ok := by
    unfold State.resumeOrder
    have hfitted : fittedCranes s.ordered = (List.range 4).filter fun c => decide (c ≤ s.straps) := fittedCranes_eq s.ordered
    dsimp only
    rw [hp, hfitted, hfold, State.afterCU_of_quiet hRquiet]
  have hheld : R.holding = s.holding := by
    rw [hfleet.of_state State.holding fun _ _ _ _ => rfl, hM]
    rfl
  obtain ⟨t, hnext, hbyte, hrecords, hjournal, hshown, hflags, honly⟩ := takeModeOrder_changed hdue horder hchanged' hlen hheld
    htakes
  have hof {α : Type} (f : State → α) (hf : ∀ x : State, f x.records = f x)
      (hcount : ∀ x m, f { x with writeCount := m } = f x) : f t = f R := by
    rw [← hf t, hrecords, hf, hcount]
  have hsent : t.sent = R.sent := hof State.sent (fun _ => rfl) fun _ _ => rfl
  have hremoved (c : Nat) : c ∈ removed ↔ (c ≤ s.straps ∧ c < 4) ∧ (s.crane c).causes.haltAll = true := by
    rw [List.mem_filter, List.mem_range, Bool.and_eq_true, decide_eq_true_iff, ← and_assoc, and_comm (a := c < 4)]
  refine ⟨t, hnext, ?_, hbyte, fun c => ?_, hsent.trans (hfleet.sent.trans ?_), fun c => ?_, ?_, hhalted ▸ hjournal, hshown,
    ?_, honly⟩
  · rw [hof State.mode (fun _ => rfl) fun _ _ => rfl, hfleet.of_state State.mode fun _ _ _ _ => rfl, hM]
  · rw [hof (fun x => x.crane c) (fun _ => rfl) fun _ _ => rfl, hcrane]
    by_cases hin : c ≤ s.straps ∧ c < 4
    · rw [if_pos hin]
      by_cases hhas : (s.crane c).causes.haltAll = true
      · rw [if_pos hhas, if_pos ((hremoved c).mpr ⟨hin, hhas⟩)]
        dsimp only
        cases again c <;> rfl
      · rw [if_neg hhas, if_neg fun h => hhas ((hremoved c).mp h).2]
    · rw [if_neg hin, if_neg fun h => hin ((hremoved c).mp h).1]
  · rw [List.filterMap_eq_flatMap_toList]
    refine List.flatMap_congr fun c _ => ?_
    rw [Crane.resends_eq]
    cases again c with
    | none => rfl
    | some kind => cases kind <;> rfl
  · have hbefore : M.outgoingTo c = s.outgoingTo c := by rw [hM]; rfl
    rw [hof (fun x => x.outgoingTo c) (fun _ => rfl) fun _ _ => rfl, hfleet.transmitted c, hbefore, hsent]
  · rw [hrecords, hsent, hof State.outgoing (fun _ => rfl) fun _ _ => rfl, hof State.cranes (fun _ => rfl) fun _ _ => rfl]
    have hrest := hfleet.rest
    rw [hrest, hM]
    rfl
  · rw [hflags, modeNotices]
    refine congrArg (_ ||| ·) (if_congr ?_ rfl rfl)
    exact List.map_eq_nil_iff

end Sys2Proof.Machine
end

section
/-! PROOF. The seven checks of START and the first that fails (R164, R165). -/

namespace Sys2Proof.Machine

variable {s : State} {c : Nat}

/-! ## The first of a rising list -/

theorem findSome_of_first {α β : Type} {key : α → Nat} {f : α → Option β} {a : α} {b : β} (l : List α)
    (hsorted : l.Pairwise (key · < key ·)) (hmem : a ∈ l) (ha : f a = some b)
    (hbefore : ∀ x ∈ l, key x < key a → f x = none) : l.findSome? f = some b := by
  induction l with
  | nil => simp at hmem
  | cons x l ih =>
    obtain ⟨hx, hl⟩ := List.pairwise_cons.mp hsorted
    rw [List.findSome?_cons]
    obtain rfl | hmem := List.mem_cons.mp hmem
    · rw [ha]
    · rw [hbefore x (by simp) (hx a hmem)]
      exact ih hl hmem fun y hy => hbefore y (List.mem_cons_of_mem x hy)

theorem find_of_first {p : Nat → Bool} {a : Nat} (l : List Nat) (hsorted : l.Pairwise (· < ·)) (hmem : a ∈ l) (ha : p a = true)
    (hbefore : ∀ x ∈ l, x < a → p x = false) : l.find? p = some a := by
  induction l with
  | nil => simp at hmem
  | cons x l ih =>
    obtain ⟨hx, hl⟩ := List.pairwise_cons.mp hsorted
    obtain rfl | hmem := List.mem_cons.mp hmem
    · exact List.find?_cons_of_pos ha
    · rw [List.find?_cons_of_neg (by rw [hbefore x (by simp) (hx a hmem)]; exact Bool.false_ne_true)]
      exact ih hl hmem fun y hy => hbefore y (List.mem_cons_of_mem x hy)

theorem fittedCranes_sorted (s : State) : (fittedCranes s).Pairwise (· < ·) := by
  rw [fittedCranes_eq]
  exact List.Pairwise.filter _ List.pairwise_lt_range

theorem adjacentPairs_sorted (s : State) : (adjacentPairs s).Pairwise (· < ·) := (fittedCranes_sorted s).filter _

theorem mem_fittedCranes_iff : c ∈ fittedCranes s ↔ c ≤ s.straps ∧ c < 4 :=
  (mem_fittedCranes s c).trans State.fitted_iff_both

theorem mem_adjacentPairs_iff : c ∈ adjacentPairs s ↔ c + 1 ≤ s.straps ∧ c + 1 < 4 :=
  (mem_adjacentPairs s c).trans State.fitted_iff_both

/-! ## The refusal and the checks -/

theorem State.startRefusal_none_iff :
    s.startRefusal = none ↔ s.check1 = none ∧ s.check2 = none ∧ s.check3 = none ∧ s.check4 = none ∧ s.check5 = none ∧
      s.check6 = none ∧ s.check7 = none := by
  refine ⟨State.startChecks_none, fun ⟨h1, h2, h3, h4, h5, h6, h7⟩ => ?_⟩
  unfold State.startRefusal State.startChecks
  rw [h1, h2, h3, h4, h5, h6, h7]
  rfl

/-- A refusal is the LAYOUT of a check that fails. -/
theorem State.startRefusal_code {a : Answer} (h : s.startRefusal = some a) : a.code = .layout := by
  unfold State.startRefusal at h
  obtain ⟨p, -, hp⟩ := List.exists_of_findSome?_eq_some h
  obtain ⟨q, -, hq⟩ := Option.map_eq_some_iff.mp hp
  rw [← hq]
  rfl

/-! ## Checks 1 to 3 -/

theorem State.check1_none_iff : s.check1 = none ↔ s.runway.configured = true := by
  unfold State.check1
  split_ifs with h <;> simp [h]

/-- A crane and its hook channel as the orders described them. -/
def State.described (s : State) (c : Nat) : Prop := (s.crane c).configured = true ∧ (s.channel c).configured = true

theorem State.check2_none_iff : s.check2 = none ↔ ∀ c, c ≤ s.straps ∧ c < 4 → s.described c := by
  unfold State.check2 State.described
  rw [List.findSome?_eq_none_iff]
  refine forall_congr' fun c => ?_
  rw [mem_fittedCranes_iff]
  refine imp_congr_right fun _ => ?_
  cases (s.crane c).configured <;> cases (s.channel c).configured <;> simp

theorem State.check2_of_first (hfit : c ≤ s.straps ∧ c < 4) (hnot : ¬s.described c) (hbefore : ∀ j < c, s.described j) :
    s.check2 = some (c, if (s.crane c).configured = true then 2 else 1) := by
  refine findSome_of_first (key := id) _ (fittedCranes_sorted s) (mem_fittedCranes_iff.mpr hfit) ?_ fun j _ hj => ?_
  · unfold State.described at hnot
    cases hcrane : (s.crane c).configured with
    | false => simp
    | true =>
      have hchannel : (s.channel c).configured = false := Bool.eq_false_iff.mpr fun h => hnot ⟨hcrane, h⟩
      simp [hchannel]
  · obtain ⟨hcrane, hchannel⟩ := hbefore j hj
    rw [hcrane, hchannel]
    rfl

/-- A service range within the runway. -/
def State.ranged (s : State) (c : Nat) : Prop :=
  s.runway.lo ≤ (s.crane c).svcLo ∧ (s.crane c).svcLo < (s.crane c).svcHi ∧ (s.crane c).svcHi ≤ s.runway.hi

/-- Neither end of the service ranges steps back from a crane to its eastern neighbour. -/
def State.inStep (s : State) (c : Nat) : Prop :=
  (s.crane c).svcLo ≤ (s.crane (c + 1)).svcLo ∧ (s.crane c).svcHi ≤ (s.crane (c + 1)).svcHi

theorem State.ranged_test (s : State) (c : Nat) :
    (!(decide (s.runway.lo ≤ (s.crane c).svcLo) && decide ((s.crane c).svcLo < (s.crane c).svcHi)
      && decide ((s.crane c).svcHi ≤ s.runway.hi))) = true ↔ ¬s.ranged c := by
  unfold State.ranged
  simp only [Bool.not_eq_true', ← Bool.not_eq_true, Bool.and_eq_true, decide_eq_true_iff, and_assoc]

theorem State.inStep_test (s : State) (c : Nat) :
    (!(decide ((s.crane c).svcLo ≤ (s.crane (c + 1)).svcLo) && decide ((s.crane c).svcHi ≤ (s.crane (c + 1)).svcHi))) = true ↔
      ¬s.inStep c := by
  unfold State.inStep
  simp only [Bool.not_eq_true', ← Bool.not_eq_true, Bool.and_eq_true, decide_eq_true_iff]

/-- A check of every fitted crane, then of every pair: the first that fails. -/
theorem firstOfTwo_none_iff {p q : Nat → Bool} {P Q : Nat → Prop} {sub : Nat → Nat} (hp : ∀ c, p c = true ↔ ¬P c)
    (hq : ∀ c, q c = true ↔ ¬Q c) :
    (match (fittedCranes s).find? p with
      | some c => some (c, 0)
      | none => ((adjacentPairs s).find? q).map fun i => (sub i, 0)) = (none : Option (Nat × Nat)) ↔
      (∀ c, c ≤ s.straps ∧ c < 4 → P c) ∧ ∀ c, c + 1 ≤ s.straps ∧ c + 1 < 4 → Q c := by
  have hcranes : (fittedCranes s).find? p = none ↔ ∀ c, c ≤ s.straps ∧ c < 4 → P c := by
    simp only [List.find?_eq_none, hp, not_not, mem_fittedCranes_iff]
  have hpairs : (adjacentPairs s).find? q = none ↔ ∀ c, c + 1 ≤ s.straps ∧ c + 1 < 4 → Q c := by
    simp only [List.find?_eq_none, hq, not_not, mem_adjacentPairs_iff]
  rw [← hcranes, ← hpairs]
  cases (fittedCranes s).find? p <;> simp

theorem firstOfTwo_of_crane {p q : Nat → Bool} {P : Nat → Prop} {sub : Nat → Nat} (hp : ∀ c, p c = true ↔ ¬P c)
    (hfit : c ≤ s.straps ∧ c < 4) (hnot : ¬P c) (hbefore : ∀ j < c, P j) :
    (match (fittedCranes s).find? p with
      | some c => some (c, 0)
      | none => ((adjacentPairs s).find? q).map fun i => (sub i, 0)) = some (c, 0) := by
  have hfind : (fittedCranes s).find? p = some c :=
    find_of_first _ (fittedCranes_sorted s) (mem_fittedCranes_iff.mpr hfit) ((hp c).mpr hnot) fun j _ hj =>
      Bool.eq_false_iff.mpr fun h => (hp j).mp h (hbefore j hj)
  rw [hfind]

theorem firstOfTwo_of_pair {p q : Nat → Bool} {P Q : Nat → Prop} {sub : Nat → Nat} (hp : ∀ c, p c = true ↔ ¬P c)
    (hq : ∀ c, q c = true ↔ ¬Q c) (hall : ∀ j, j ≤ s.straps ∧ j < 4 → P j)
    (hfit : c + 1 ≤ s.straps ∧ c + 1 < 4) (hnot : ¬Q c)
    (hbefore : ∀ j < c, Q j) :
    (match (fittedCranes s).find? p with
      | some c => some (c, 0)
      | none => ((adjacentPairs s).find? q).map fun i => (sub i, 0)) = some (sub c, 0) := by
  have hnone : (fittedCranes s).find? p = none := by
    simp only [List.find?_eq_none, hp, not_not, mem_fittedCranes_iff]
    exact hall
  have hfind : (adjacentPairs s).find? q = some c :=
    find_of_first _ (adjacentPairs_sorted s) (mem_adjacentPairs_iff.mpr hfit) ((hq c).mpr hnot) fun j _ hj =>
      Bool.eq_false_iff.mpr fun h => (hq j).mp h (hbefore j hj)
  rw [hnone, hfind]
  rfl

/-! ## Checks 4 and 5 -/

theorem State.mem_columnXs (hlaw : s.tablesLaw = true) {p : Nat × Nat} :
    p ∈ s.columnXs ↔ (s.column p.1).configured = true ∧ p.2 = (s.column p.1).x := by
  obtain ⟨hsorted, -, -⟩ := State.tablesLaw_iff.mp hlaw
  have hnodup : s.columns.keys.Nodup := hsorted.imp fun h => ne_of_lt h
  have hread (v : Column) (hv : s.columns.find p.1 = some v) : s.column p.1 = v := by
    unfold State.column Tab.get
    rw [hv]
    rfl
  unfold State.columnXs
  rw [List.mem_map]
  constructor
  · rintro ⟨⟨k, v⟩, hmem, rfl⟩
    obtain ⟨hmem, hconfigured⟩ := List.mem_filter.mp hmem
    have hv := hread v ((Tab.find_eq_some_iff hnodup).mpr hmem)
    dsimp only at hv ⊢
    rw [hv]
    exact ⟨hconfigured, rfl⟩
  · rintro ⟨hconfigured, hx⟩
    cases hv : s.columns.find p.1 with
    | none =>
      have hdefault : s.column p.1 = {} := by
        unfold State.column Tab.get
        rw [hv]
        rfl
      rw [hdefault] at hconfigured
      exact Bool.noConfusion hconfigured
    | some v =>
      rw [hread v hv] at hconfigured hx
      exact ⟨(p.1, v), List.mem_filter.mpr ⟨(Tab.find_eq_some_iff hnodup).mp hv, hconfigured⟩, Prod.ext rfl hx.symm⟩

theorem State.columnXs_sorted (hlaw : s.tablesLaw = true) : s.columnXs.Pairwise (fun p q => p.1 < q.1) := by
  obtain ⟨hsorted, -, -⟩ := State.tablesLaw_iff.mp hlaw
  unfold State.columnXs
  rw [List.pairwise_map]
  exact (List.pairwise_map.mp hsorted).filter _

/-- Positions that rise with the numbers of a rising list. -/
theorem firstNotRising_none_iff (l : List (Nat × Nat)) (hsorted : l.Pairwise fun p q => p.1 < q.1) :
    firstNotRising l = none ↔ ∀ p ∈ l, ∀ q ∈ l, p.1 < q.1 → p.2 < q.2 := by
  induction l with
  | nil => simp [firstNotRising]
  | cons a l ih =>
    obtain ⟨ha, hl⟩ := List.pairwise_cons.mp hsorted
    cases l with
    | nil => simp [firstNotRising]
    | cons b l =>
      rw [firstNotRising]
      by_cases hab : a.2 < b.2
      · rw [if_pos hab, ih hl]
        refine ⟨fun h p hp q hq hpq => ?_, fun h p hp q hq => h p (List.mem_cons_of_mem a hp) q (List.mem_cons_of_mem a hq)⟩
        obtain hqa | hql := List.mem_cons.mp hq
        · obtain hpa | hpl := List.mem_cons.mp hp
          · rw [hpa, hqa] at hpq
            omega
          · have := ha p hpl
            rw [hqa] at hpq
            omega
        · obtain hpa | hpl := List.mem_cons.mp hp
          · obtain hqb | hqr := List.mem_cons.mp hql
            · rw [hpa, hqb]
              exact hab
            · have hbq : b.1 < q.1 := (List.pairwise_cons.mp hl).1 q hqr
              have := h b (by simp) q hql hbq
              rw [hpa]
              omega
          · exact h p hpl q hql hpq
      · rw [if_neg hab]
        refine iff_of_false (by simp) fun h => hab (h a (by simp) b (by simp) (ha b (by simp)))

/-- The first whose position does not rise. -/
theorem firstNotRising_of_first {c a : Nat × Nat} (l : List (Nat × Nat)) (hsorted : l.Pairwise fun p q => p.1 < q.1)
    (hc : c ∈ l) (ha : a ∈ l) (hac : a.1 < c.1) (hfails : c.2 ≤ a.2)
    (hbefore : ∀ p ∈ l, ∀ q ∈ l, p.1 < q.1 → q.1 < c.1 → p.2 < q.2) : firstNotRising l = some c.1 := by
  induction l generalizing a with
  | nil => simp at hc
  | cons x l ih =>
    obtain ⟨hx, hl⟩ := List.pairwise_cons.mp hsorted
    have hcl : c ∈ l := by
      obtain rfl | hc := List.mem_cons.mp hc
      · obtain rfl | ha := List.mem_cons.mp ha
        · omega
        · have := hx a ha
          omega
      · exact hc
    cases l with
    | nil => simp at hcl
    | cons y l =>
      rw [firstNotRising]
      have hxy := hx y (by simp)
      have hrest (p q : Nat × Nat) (hp : p ∈ y :: l) (hq : q ∈ y :: l) := hbefore p (List.mem_cons_of_mem x hp) q
        (List.mem_cons_of_mem x hq)
      obtain rfl | hcl' := List.mem_cons.mp hcl
      · have hnot : ¬x.2 < c.2 := by
          obtain rfl | ha := List.mem_cons.mp ha
          · omega
          · obtain rfl | ha := List.mem_cons.mp ha
            · omega
            · have := (List.pairwise_cons.mp hl).1 a ha
              omega
        rw [if_neg hnot]
      · have hyc : y.1 < c.1 := (List.pairwise_cons.mp hl).1 c hcl'
        have hrises := hbefore x (by simp) y (by simp) hxy hyc
        rw [if_pos hrises]
        obtain rfl | ha := List.mem_cons.mp ha
        · exact ih hl hcl (a := y) (by simp) hyc (by omega) fun p hp q hq => hrest p q hp hq
        · exact ih hl hcl ha hac hfails fun p hp q hq => hrest p q hp hq

/-- A column clear of a bay's closed extent. -/
def State.clears (s : State) (a b : Nat) : Prop :=
  (s.bay b).state = .unconfigured ∨ ((s.column a).x : Int) < (s.extent b).lo ∨ (s.extent b).hi < (s.column a).x

theorem State.check5_test (s : State) {p : Nat × Nat} (hp : p.2 = (s.column p.1).x) (b : Nat) :
    ((s.bay b).state ≠ .unconfigured ∧ (s.extent b).lo ≤ (p.2 : Int) ∧ (p.2 : Int) ≤ (s.extent b).hi) ↔ ¬s.clears p.1 b := by
  unfold State.clears
  rw [hp, not_or, not_or, not_lt, not_lt]

/-- The first bay a column lies near. -/
theorem State.nearBay_none_iff (s : State) {p : Nat × Nat} (hp : p.2 = (s.column p.1).x) :
    ([0, 1, 2].findSome? fun b =>
      let e := s.extent b
      if (s.bay b).state ≠ .unconfigured ∧ e.lo ≤ (p.2 : Int) ∧ (p.2 : Int) ≤ e.hi then some (p.1, b) else none) = none ↔
      ∀ b < 3, s.clears p.1 b := by
  rw [List.findSome?_eq_none_iff]
  have hmem (b : Nat) : b ∈ [0, 1, 2] ↔ b < 3 := by
    rw [show ([0, 1, 2] : List Nat) = List.range 3 from rfl, List.mem_range]
  refine forall_congr' fun b => ?_
  rw [hmem]
  refine imp_congr_right fun _ => ?_
  dsimp only
  split_ifs with h
  · exact iff_of_false (by simp) ((s.check5_test hp b).mp h)
  · exact iff_of_true rfl (not_not.mp fun hnot => h ((s.check5_test hp b).mpr hnot))

theorem State.nearBay_of_first (s : State) {p : Nat × Nat} (hp : p.2 = (s.column p.1).x) {b : Nat} (hb : b < 3)
    (hnot : ¬s.clears p.1 b) (hbefore : ∀ d < b, s.clears p.1 d) :
    ([0, 1, 2].findSome? fun b =>
      let e := s.extent b
      if (s.bay b).state ≠ .unconfigured ∧ e.lo ≤ (p.2 : Int) ∧ (p.2 : Int) ≤ e.hi then some (p.1, b) else none) =
      some (p.1, b) := by
  refine findSome_of_first (key := id) (a := b) _ (by decide) ?_ ?_ fun d _ hd => ?_
  · rw [show ([0, 1, 2] : List Nat) = List.range 3 from rfl, List.mem_range]
    exact hb
  · exact if_pos ((s.check5_test hp b).mpr hnot)
  · exact if_neg fun h => (s.check5_test hp d).mp h (hbefore d hd)

end Sys2Proof.Machine
end

section
/-! PROOF. START is checked first (R164, R165). -/

namespace Sys2Proof.Machine

variable {s : State} {c a b : Nat}

/-! ## Checks 4 and 5, of the columns -/

theorem State.check4_none_iff (hlaw : s.tablesLaw = true) :
    s.check4 = none ↔
      ∀ a b, a < b → (s.column a).configured = true → (s.column b).configured = true → (s.column a).x < (s.column b).x := by
  unfold State.check4
  rw [Option.map_eq_none_iff, firstNotRising_none_iff _ (State.columnXs_sorted hlaw)]
  simp only [State.mem_columnXs hlaw, Prod.forall]
  constructor
  · intro h a b hab ha hb
    exact h a _ ⟨ha, rfl⟩ b _ ⟨hb, rfl⟩ hab
  · rintro h a x ⟨ha, rfl⟩ b y ⟨hb, rfl⟩ hab
    exact h a b hab ha hb

theorem State.check4_of_first (hlaw : s.tablesLaw = true) (hac : a < c) (ha : (s.column a).configured = true)
    (hc : (s.column c).configured = true) (hfails : (s.column c).x ≤ (s.column a).x)
    (hbefore : ∀ p q, p < q → q < c → (s.column p).configured = true → (s.column q).configured = true →
      (s.column p).x < (s.column q).x) : s.check4 = some (c, 0) := by
  unfold State.check4
  rw [firstNotRising_of_first (c := (c, (s.column c).x)) (a := (a, (s.column a).x)) _ (State.columnXs_sorted hlaw)
    ((State.mem_columnXs hlaw).mpr ⟨hc, rfl⟩) ((State.mem_columnXs hlaw).mpr ⟨ha, rfl⟩) hac hfails]
  · rfl
  · intro p hp q hq hpq hqc
    obtain ⟨hp, hpx⟩ := (State.mem_columnXs hlaw).mp hp
    obtain ⟨hq, hqx⟩ := (State.mem_columnXs hlaw).mp hq
    rw [hpx, hqx]
    exact hbefore p.1 q.1 hpq hqc hp hq

theorem State.check5_none_iff (hlaw : s.tablesLaw = true) :
    s.check5 = none ↔ ∀ a b, b < 3 → (s.column a).configured = true → s.clears a b := by
  unfold State.check5
  rw [List.findSome?_eq_none_iff]
  constructor
  · intro h a b hb ha
    exact (s.nearBay_none_iff (p := (a, (s.column a).x)) rfl).mp (h _ ((State.mem_columnXs hlaw).mpr ⟨ha, rfl⟩)) b hb
  · intro h p hp
    obtain ⟨hp, hx⟩ := (State.mem_columnXs hlaw).mp hp
    exact (s.nearBay_none_iff hx).mpr fun b hb => h p.1 b hb hp

theorem State.check5_of_first (hlaw : s.tablesLaw = true) (hb : b < 3) (ha : (s.column a).configured = true)
    (hnot : ¬s.clears a b) (hbays : ∀ d < b, s.clears a d)
    (hbefore : ∀ p < a, ∀ d < 3, (s.column p).configured = true → s.clears p d) : s.check5 = some (a, b) := by
  refine findSome_of_first (key := fun p : Nat × Nat => p.1) (a := (a, (s.column a).x)) _ (State.columnXs_sorted hlaw)
    ((State.mem_columnXs hlaw).mpr ⟨ha, rfl⟩) (s.nearBay_of_first (p := (a, (s.column a).x)) rfl hb hnot hbays) fun p hp hpa => ?_
  obtain ⟨hp, hx⟩ := (State.mem_columnXs hlaw).mp hp
  exact (s.nearBay_none_iff hx).mpr fun d hd => hbefore p.1 hpa d hd hp

/-! ## Checks 6 and 7, of the cranes -/

/-- A crane that reports, its link UP, its lock LOCKED. -/
def State.sound (s : State) (c : Nat) : Prop :=
  (s.crane c).reported = true ∧ (s.crane c).link = .up ∧ (s.crane c).lock = .locked

theorem State.sound_test (s : State) (c : Nat) :
    (!((s.crane c).reported && (s.crane c).link == .up && (s.crane c).lock == .locked)) = true ↔ ¬s.sound c := by
  unfold State.sound
  simp only [Bool.not_eq_true', ← Bool.not_eq_true, Bool.and_eq_true, beq_iff_eq, and_assoc]

theorem State.check6_none_iff : s.check6 = none ↔ ∀ c, c ≤ s.straps ∧ c < 4 → s.sound c := by
  unfold State.check6
  simp only [Option.map_eq_none_iff, List.find?_eq_none, State.sound_test, not_not, mem_fittedCranes_iff]

theorem State.check6_of_first (hfit : c ≤ s.straps ∧ c < 4) (hnot : ¬s.sound c) (hbefore : ∀ j < c, s.sound j) :
    s.check6 = some (c, 0) := by
  unfold State.check6
  rw [find_of_first _ (fittedCranes_sorted s) (mem_fittedCranes_iff.mpr hfit) ((s.sound_test c).mpr hnot) fun j _ hj =>
    Bool.eq_false_iff.mpr fun h => (s.sound_test j).mp h (hbefore j hj)]
  rfl

/-- A crane that stands on the runway. -/
def State.onRunway (s : State) (c : Nat) : Prop :=
  s.runway.lo ≤ (s.crane c).xLaser ∧ (s.crane c).xLaser ≤ s.runway.hi

/-- Starting spans apart from the eastern neighbour's. -/
def State.apart (s : State) (c : Nat) : Prop :=
  (s.crane c).xLaser + s.runway.margin + ((s.crane c).halfWidth + s.runway.gap + (s.crane (c + 1)).halfWidth)
    + s.runway.margin ≤ (s.crane (c + 1)).xLaser

theorem State.onRunway_test (s : State) (c : Nat) :
    (!(decide (s.runway.lo ≤ (s.crane c).xLaser) && decide ((s.crane c).xLaser ≤ s.runway.hi))) = true ↔ ¬s.onRunway c := by
  unfold State.onRunway
  simp only [Bool.not_eq_true', ← Bool.not_eq_true, Bool.and_eq_true, decide_eq_true_iff]

theorem State.apart_test (s : State) (c : Nat) :
    (!s.separated c (s.startSpan c) (c + 1) (s.startSpan (c + 1))) = true ↔ ¬s.apart c := by
  rw [Bool.not_eq_true', ← Bool.not_eq_true, State.separated_east_iff]
  refine not_congr ?_
  unfold State.apart State.startSpan Span.around State.clearance
  dsimp only
  omega

/-! ## The first check that fails is answered -/

theorem State.startRefusal_of_first {before after : List (Nat × Option (Nat × Nat))} {k : Nat} {q : Nat × Nat}
    (hchecks : s.startChecks = before ++ (k, some q) :: after) (hbefore : ∀ p ∈ before, p.2 = none) :
    s.startRefusal = some { code := .layout, area := [byte k, byte q.1, byte q.2] } := by
  have hnone : before.findSome? (fun p => p.2.map fun v => Answer.layout p.1 v.1 v.2) = none :=
    List.findSome?_eq_none_iff.mpr fun p hp => by rw [hbefore p hp]; rfl
  unfold State.startRefusal
  rw [hchecks, List.findSome?_append, hnone]
  rfl

/-- The checks passed before a check, in the order of the list. -/
def State.passed (s : State) (k : Nat) : Prop := ∀ p ∈ s.startChecks.take (k - 1), p.2 = none

theorem State.startRefusal_at {k : Nat} {q : Nat × Nat} (hk : s.startChecks[k - 1]? = some (k, some q)) (hpassed : s.passed k) :
    s.startRefusal = some { code := .layout, area := [byte k, byte q.1, byte q.2] } := by
  obtain ⟨hlt, hget⟩ := List.getElem?_eq_some_iff.mp hk
  refine State.startRefusal_of_first (before := s.startChecks.take (k - 1)) (after := s.startChecks.drop (k - 1 + 1)) ?_ hpassed
  rw [← hget, List.getElem_cons_drop, List.take_append_drop]

/-! ## The obligation -/

/-- Settles O48: each check passes as its condition says, and the first that fails is answered. -/
theorem startIsCheckedFirst : Obligations.StartIsCheckedFirst := by
  refine ⟨?_, fun s o a hdue hrefused => ⟨State.startRefusal_code hrefused,
    takeModeOrder_answered hdue (State.startOrder_of_refused (s := s.ordered) hrefused o)⟩⟩
  intro s hlaw fit described ranged inStep column x clears sound onRunway apart pass2 pass3 pass4 pass5 pass6 pass7 layout
  have h3 : s.check3 = none ↔ (∀ c, fit c → ranged c) ∧ ∀ c, fit (c + 1) → inStep c :=
    firstOfTwo_none_iff s.ranged_test s.inStep_test
  have h7 : s.check7 = none ↔ (∀ c, fit c → onRunway c) ∧ ∀ c, fit (c + 1) → apart c :=
    firstOfTwo_none_iff s.onRunway_test s.apart_test
  have hpass1 : s.runway.configured = true ↔ s.passed 2 := by
    rw [← State.check1_none_iff]
    simp [State.passed, State.startChecks]
  have hpass2 : pass2 ↔ s.passed 3 := by
    refine (and_congr State.check1_none_iff State.check2_none_iff).symm.trans ?_
    simp [State.passed, State.startChecks]
  have hpass3 : pass3 ↔ s.passed 4 := by
    refine (and_congr hpass2 h3.symm).trans ?_
    simp [State.passed, State.startChecks, and_assoc]
  have hpass4 : pass4 ↔ s.passed 5 := by
    refine (and_congr hpass3 (State.check4_none_iff hlaw).symm).trans ?_
    simp [State.passed, State.startChecks, and_assoc]
  have hpass5 : pass5 ↔ s.passed 6 := by
    refine (and_congr hpass4 (State.check5_none_iff hlaw).symm).trans ?_
    simp [State.passed, State.startChecks, and_assoc]
  have hpass6 : pass6 ↔ s.passed 7 := by
    refine (and_congr hpass5 State.check6_none_iff.symm).trans ?_
    simp [State.passed, State.startChecks, and_assoc]
  have hpass7 : pass7 ↔ s.startRefusal = none := by
    refine (and_congr hpass6 h7.symm).trans (Iff.trans ?_ State.startRefusal_none_iff.symm)
    simp [State.passed, State.startChecks, and_assoc]
  refine ⟨hpass7.symm, fun hunset => ?_, fun c hset hfit hnot hbefore => ?_, fun c hpass hfit hnot hbefore => ?_,
    fun c hpass hall hfit hnot hbefore => ?_, fun a c hpass hac ha hc hfails hbefore => ?_,
    fun a b hpass hb ha hnot hbays hbefore => ?_, fun c hpass hfit hnot hbefore => ?_, fun c hpass hfit hnot hbefore => ?_,
    fun c hpass hall hfit hnot hbefore => ?_⟩
  · refine State.startRefusal_at (k := 1) (q := (0, 0)) (congrArg (fun x => some (1, x)) ?_) fun p hp => ?_
    · unfold State.check1
      rw [hunset]
      rfl
    · simp at hp
  · exact State.startRefusal_at (k := 2) (congrArg (fun x => some (2, x)) (State.check2_of_first hfit hnot hbefore))
      (hpass1.mp hset)
  · exact State.startRefusal_at (k := 3)
      (congrArg (fun x => some (3, x)) (firstOfTwo_of_crane s.ranged_test hfit hnot hbefore)) (hpass2.mp hpass)
  · exact State.startRefusal_at (k := 3)
      (congrArg (fun x => some (3, x)) (firstOfTwo_of_pair s.ranged_test s.inStep_test hall hfit hnot hbefore))
      (hpass2.mp hpass)
  · exact State.startRefusal_at (k := 4)
      (congrArg (fun x => some (4, x)) (State.check4_of_first hlaw hac ha hc hfails hbefore)) (hpass3.mp hpass)
  · exact State.startRefusal_at (k := 5)
      (congrArg (fun x => some (5, x)) (State.check5_of_first hlaw hb ha hnot hbays hbefore)) (hpass4.mp hpass)
  · exact State.startRefusal_at (k := 6) (congrArg (fun x => some (6, x)) (State.check6_of_first hfit hnot hbefore))
      (hpass5.mp hpass)
  · exact State.startRefusal_at (k := 7)
      (congrArg (fun x => some (7, x)) (firstOfTwo_of_crane s.onRunway_test hfit hnot hbefore)) (hpass6.mp hpass)
  · exact State.startRefusal_at (k := 7)
      (congrArg (fun x => some (7, x)) (firstOfTwo_of_pair s.onRunway_test s.apart_test hall hfit hnot hbefore))
      (hpass6.mp hpass)

end Sys2Proof.Machine
end

section
/-! PROOF. ABORT_MOVE on a move in its pick and on a QUEUED move (R104, R105, R108; log entries 13 and 43). -/

namespace Sys2Proof.Machine

variable {s t u : State} {p : Port} {o : Order} {rest : List Order} {m n take i j : Nat} {v : Move} {c : Coil} {a : Answer}

/-! ## Answers of two cells -/

theorem State.answer_records (h : s.cellIsOf n take = true) (a : Answer) : (s.answer n take a).records = s.records := by
  rw [State.answer_written h, State.writeAnswer_raise_eq]
  rfl

theorem State.answer_flags (h : s.cellIsOf n take = true) (a : Answer) :
    (s.answer n take a).flags = s.flags ||| Notice.answer.mask := by
  rw [State.answer_written h, State.writeAnswer_raise_eq]

theorem State.answer_readByte (h : s.cellIsOf n take = true) (a : Answer) (b : Nat) :
    (s.answer n take a).readByte b = (s.writeAnswer n a).readByte b := by
  rw [State.answer_written h]
  rfl

theorem answerByte_of_outside {b : Nat} (h : b < cellOffset n ∨ cellOffset n + 256 ≤ b) : answerByte n b = false := by
  simp only [answerByte, Bool.or_eq_false_iff, beq_eq_false_iff_ne, decide_eq_false_iff_not]
  omega

/-- Two cells stand apart. -/
theorem cellOffset_apart {k : Nat} (h : n ≠ k) : cellOffset n + 256 ≤ cellOffset k ∨ cellOffset k + 256 ≤ cellOffset n := by
  unfold cellOffset
  omega

theorem State.readByte_working_of_outside {value x : Nat} (h : s.cellIsOf n take = true) (hx : workingByte n x = false) :
    (s.working n take value).readByte x = s.readByte x := by
  simp only [workingByte, Bool.or_eq_false_iff, beq_eq_false_iff_ne] at hx
  rw [State.working_of_current h, State.readByte_writeByte, if_neg hx.1, State.readByte_writeByte, if_neg hx.2]

theorem State.working_records (s : State) (n take value : Nat) : (s.working n take value).records = s.records := by
  unfold State.working
  split_ifs
  · rw [State.writeByte_records, State.writeByte_records]
  · rfl

/-- A WORKING write of one cell leaves another current. -/
theorem State.cellIsOf_working_other {k t value : Nat} (hother : n ≠ k) (hcurrent : s.cellIsOf k t = true) :
    (s.working k t value).cellIsOf n take = s.cellIsOf n take := by
  have hapart := cellOffset_apart hother
  refine State.cellIsOf_congr fun x hx hx' => State.readByte_working_of_outside hcurrent ?_
  simp only [workingByte, Bool.or_eq_false_iff, beq_eq_false_iff_ne]
  omega

/-- An answer of one cell leaves another current. -/
theorem State.cellIsOf_answer_other {k t : Nat} (hother : n ≠ k) (hcurrent : s.cellIsOf k t = true) (a : Answer) :
    (s.answer k t a).cellIsOf n take = s.cellIsOf n take := by
  have hapart := cellOffset_apart hother
  refine State.cellIsOf_congr fun x hx hx' => ?_
  rw [State.answer_readByte hcurrent, State.readByte_writeAnswer_of_outside (answerByte_of_outside (by omega))]

/-- A cell WORKING, then another cell and it answered. -/
def State.answeredBoth (s : State) (k t value : Nat) (n take : Nat) (a b : Answer) : State :=
  ((s.working k t value).answer n take a).answer k t b

section
variable {k e value : Nat} {b : Answer}

theorem State.answeredBoth_current (hother : n ≠ k) (hcurrent : s.cellIsOf n take = true) (howner : s.cellIsOf k e = true) :
    (s.working k e value).cellIsOf n take = true ∧ ((s.working k e value).answer n take a).cellIsOf k e = true := by
  have hfirst := (State.cellIsOf_working_other (take := take) (value := value) hother howner).trans hcurrent
  exact ⟨hfirst, (State.cellIsOf_answer_other (Ne.symm hother) hfirst a).trans (State.cellIsOf_working howner value)⟩

theorem State.answeredBoth_records (hother : n ≠ k) (hcurrent : s.cellIsOf n take = true) (howner : s.cellIsOf k e = true) :
    (s.answeredBoth k e value n take a b).records = s.records := by
  obtain ⟨hfirst, hsecond⟩ := State.answeredBoth_current (a := a) (value := value) hother hcurrent howner
  rw [State.answeredBoth, State.answer_records hsecond, State.answer_records hfirst, State.working_records]

theorem State.answeredBoth_flags (hother : n ≠ k) (hcurrent : s.cellIsOf n take = true) (howner : s.cellIsOf k e = true) :
    (s.answeredBoth k e value n take a b).flags = s.flags ||| Notice.answer.mask := by
  obtain ⟨hfirst, hsecond⟩ := State.answeredBoth_current (a := a) (value := value) hother hcurrent howner
  rw [State.answeredBoth, State.answer_flags hsecond, State.answer_flags hfirst, State.working_of_current howner,
    State.writeByte_flags, State.writeByte_flags, BitVec.or_assoc, BitVec.or_self]

theorem State.answeredBoth_readByte (hother : n ≠ k) (hcurrent : s.cellIsOf n take = true) (howner : s.cellIsOf k e = true)
    (x : Nat) :
    (s.answeredBoth k e value n take a b).readByte x =
      (((s.working k e value).answer n take a).writeAnswer k b).readByte x :=
  State.answer_readByte (State.answeredBoth_current hother hcurrent howner).2 b x

end

/-- A handling that writes its cell WORKING and then answers another cell and its own. -/
theorem handle_answered_twice {g : State → State} {value : Nat} {b : Answer} (hn : n < 128) (hcell : o.cell < 128)
    (hother : n ≠ o.cell) (hcurrent : s.cellIsOf n take = true) (howner : s.cellIsOf o.cell o.take = true)
    (hg : g s.begin = u.answeredBoth o.cell o.take value n take a b) (hmem : u.mem = s.mem) (hflags : u.flags = s.flags) :
    ∃ t, handle g s = .next t ∧ t.records = u.records ∧ ShowsAnswer t n a ∧ ShowsAnswer t o.cell b ∧
      t.flags = s.flags ||| Notice.answer.mask ∧
      OnlyWrites s t (fun x => answerByte n x || answerByte o.cell x || workingByte o.cell x) := by
  obtain ⟨hlo, hhi⟩ := cellOffset_bounds hn
  obtain ⟨holo, hohi⟩ := cellOffset_bounds hcell
  have hapart := cellOffset_apart hother
  have hread (x : Nat) : u.readByte x = s.readByte x := State.readByte_congr hmem x
  have hcurrent' : u.cellIsOf n take = true := (State.cellIsOf_congr fun x _ _ => hread x).trans hcurrent
  have howner' : u.cellIsOf o.cell o.take = true := (State.cellIsOf_congr fun x _ _ => hread x).trans howner
  obtain ⟨hfirst, -⟩ := State.answeredBoth_current (a := a) (value := value) hother hcurrent' howner'
  obtain ⟨t, hnext, hrecords, htflags, hbytes⟩ := handle_effect g s
  rw [hg] at hrecords htflags hbytes
  have htread {x : Nat} (hx : x < 0x40 ∨ 0x310 ≤ x ∧ x < 0xD000) :
      t.readByte x = (((u.working o.cell o.take value).answer n take a).writeAnswer o.cell b).readByte x :=
    (hbytes x hx).trans (State.answeredBoth_readByte hother hcurrent' howner' x)
  refine ⟨t, hnext, hrecords.trans (State.answeredBoth_records hother hcurrent' howner'),
    .of_writeAnswer (s := u.working o.cell o.take value) fun x hx hx' => ?_,
    .of_writeAnswer (s := (u.working o.cell o.take value).answer n take a) fun x _ _ => htread (by omega), ?_,
    fun x hx hw => ?_⟩
  · rw [htread (by omega), State.readByte_writeAnswer_of_outside (answerByte_of_outside (by omega)), State.answer_readByte hfirst]
  · rw [htflags, State.answeredBoth_flags hother hcurrent' howner', hflags]
  · obtain ⟨hanswers, hworking⟩ := Bool.or_eq_false_iff.mp hw
    obtain ⟨hfirst', hsecond'⟩ := Bool.or_eq_false_iff.mp hanswers
    have := publishedOffset_eq_false hx
    rw [htread (by omega), State.readByte_writeAnswer_of_outside hsecond', State.answer_readByte hfirst,
      State.readByte_writeAnswer_of_outside hfirst', State.readByte_working_of_outside howner' hworking, hread]

/-! ## The end of a QUEUED move between two slots -/

/-- What the end of a QUEUED move leaves: the source HELD, the target FREE, the coil at its source, the move gone. -/
def State.undone (s : State) (m : Nat) (v : Move) (i j : Nat) (c : Coil) : State :=
  ((((s.setSlot i { state := .held, coil := some v.coil }).setSlot j { state := .free }).setCoil v.coil
    { c with place := .slot i }).setCoil v.coil { c with place := .slot i, move := none }).dropMove m v

theorem State.undone_ported (s : State) (p : Port) (m : Nat) (v : Move) (i j : Nat) (c : Coil) :
    (s.ported p).undone m v i j c = (s.undone m v i j c).ported p := by
  have hslot (x : State) (k : Nat) (y : Slot) : (x.ported p).setSlot k y = (x.setSlot k y).ported p := rfl
  have hcoil (x : State) (r : Nat) (y : Coil) : (x.ported p).setCoil r y = (x.setCoil r y).ported p := rfl
  have hdrop (x : State) : (x.ported p).dropMove m v = (x.dropMove m v).ported p := rfl
  unfold State.undone
  rw [hslot, hslot, hcoil, hcoil, hdrop]

/-- `t` is `s` but for the store, the moves, the cranes and what is to be published. -/
def StoreOnly (s t : State) : Prop :=
  t = { s with slots := t.slots, coils := t.coils, moves := t.moves, cranes := t.cranes, touched := t.touched }

theorem StoreOnly.trans (h : StoreOnly s t) (g : StoreOnly t u) : StoreOnly s u := by
  unfold StoreOnly at h g ⊢
  rw [g, h]

theorem StoreOnly.of_state {α : Type} (h : StoreOnly s t) (f : State → α)
    (hf : ∀ slots coils moves cranes touched,
      f { s with slots := slots, coils := coils, moves := moves, cranes := cranes, touched := touched } = f s) : f t = f s := by
  unfold StoreOnly at h
  rw [h, hf]

theorem State.undone_storeOnly (s : State) (m : Nat) (v : Move) (i j : Nat) (c : Coil) : StoreOnly s (s.undone m v i j c) := by
  have hslot (x : State) (k : Nat) (y : Slot) : StoreOnly x (x.setSlot k y) := rfl
  have hcoil (x : State) (r : Nat) (y : Coil) : StoreOnly x (x.setCoil r y) := rfl
  have hdrop (x : State) : StoreOnly x (x.dropMove m v) := rfl
  exact ((((hslot ..).trans (hslot ..)).trans (hcoil ..)).trans (hcoil ..)).trans (hdrop _)

theorem State.move_dropMove (s : State) (m q : Nat) (v : Move) :
    (s.dropMove m v).move? q = if q = m then none else s.move? q := Tab.find_erase ..

theorem State.crane_dropMove (s : State) (m k : Nat) (v : Move) :
    (s.dropMove m v).crane k =
      if k = v.crane then { s.crane v.crane with queue := (s.crane v.crane).queue.filter (· != m) } else s.crane k :=
  State.crane_setCrane ..

theorem State.move_undone (q : Nat) : (s.undone m v i j c).move? q = if q = m then none else s.move? q := by
  have hkept (x : State) (r : Nat) (y : Coil) : (x.setCoil r y).move? q = x.move? q := rfl
  have hslot (x : State) (l : Nat) (y : Slot) : (x.setSlot l y).move? q = x.move? q := rfl
  unfold State.undone
  rw [State.move_dropMove, hkept, hkept, hslot, hslot]

theorem State.crane_undone (k : Nat) :
    (s.undone m v i j c).crane k =
      if k = v.crane then { s.crane v.crane with queue := (s.crane v.crane).queue.filter (· != m) } else s.crane k := by
  have hslot (x : State) (q l : Nat) (y : Slot) : (x.setSlot q y).crane l = x.crane l := rfl
  have hcoil (x : State) (r l : Nat) (y : Coil) : (x.setCoil r y).crane l = x.crane l := rfl
  unfold State.undone
  rw [State.crane_dropMove, hcoil, hcoil, hslot, hslot, hcoil, hcoil, hslot, hslot]

theorem State.slot_undone (q : Nat) :
    (s.undone m v i j c).slot q =
      if q = j then { state := .free } else if q = i then { state := .held, coil := some v.coil } else s.slot q := by
  have hkept (x : State) (y z : Coil) : (((x.setCoil v.coil y).setCoil v.coil z).dropMove m v).slot q = x.slot q := rfl
  unfold State.undone
  rw [hkept, State.slot_setSlot, State.slot_setSlot]

theorem State.coil_undone (q : Nat) :
    (s.undone m v i j c).coil? q = if q = v.coil then some { c with place := .slot i, move := none } else s.coil? q := by
  have hkept (x : State) : (x.dropMove m v).coil? q = x.coil? q := rfl
  unfold State.undone
  rw [hkept, State.coil_setCoil]
  by_cases hq : q = v.coil
  · rw [if_pos hq, if_pos hq]
  · rw [if_neg hq, if_neg hq, State.coil_setCoil, if_neg hq]
    rfl

theorem State.modCoil_of_some {r : Nat} (hc : s.coil? r = some c) (f : Coil → Coil) : s.modCoil r f = s.setCoil r (f c) := by
  unfold State.modCoil
  rw [hc]

/-- With every plan empty no entry is evaluated again. -/
theorem State.askAll_of_empty (hplans : ∀ b < 3, (s.bay b).plan = []) : s.askAll = s := by
  unfold State.askAll
  have hbay (b : Nat) (hb : b < 3) : (s.bay b).plan.keys = [] := by
    rw [hplans b hb]
    rfl
  simp only [List.foldl_cons, List.foldl_nil, hbay 0 (by omega), hbay 1 (by omega), hbay 2 (by omega)]

/-- A QUEUED move between two slots ends where SU, LU and CU have nothing but its marks to undo. -/
theorem State.endMove_of_queued {a : AbortRequest} (hmove : s.move? m = some v) (hphase : v.phase = .queued)
    (hdeferred : v.wasDeferred = false) (horigin : v.origin = .cell n take) (hsource : v.source = .slot i)
    (hdest : v.dest = .slot j) (habort : v.abort = some a) (hquiet : a.kind = .quiet) (hc : s.coil? v.coil = some c)
    (hi : s.slot i = { state := .leaving, coil := some v.coil, move := some m })
    (hj : s.slot j = { state := .targeted, coil := some v.coil, move := some m })
    (hplans : ∀ b < 3, (s.bay b).plan = []) :
    s.endMove m .source .aborted =
      ((s.undone m v i j c).answer n take { code := .aborted, area := [1] }).answer a.cell a.take
        { code := .done, area := [0] } := by
  have hij : j ≠ i := fun h => by
    rw [h, hi] at hj
    cases hj
  have hleaving : s.leavingBy i m = true := by
    unfold State.leavingBy
    rw [hi]
    simp
  have hheld : { s.slot i with state := .held, move := none } = ({ state := .held, coil := some v.coil } : Slot) := by
    rw [hi]
  obtain ⟨X, hX⟩ : ∃ X, X = s.setSlot i { state := .held, coil := some v.coil } := ⟨_, rfl⟩
  have hXj : X.slot j = { state := .targeted, coil := some v.coil, move := some m } := by
    rw [hX, State.slot_setSlot, if_neg hij, hj]
  obtain ⟨Y, hY⟩ : ∃ Y, Y = X.setSlot j { state := .free } := ⟨_, rfl⟩
  have hYcoil : Y.coil? v.coil = some c := by
    have hkept (x : State) (k : Nat) (y : Slot) : (x.setSlot k y).coil? v.coil = x.coil? v.coil := rfl
    rw [hY, hX, hkept, hkept, hc]
  have hSU : s.endAtSU m v .source =
      (Y.setCoil v.coil { c with place := .slot i }).setCoil v.coil { c with place := .slot i, move := none } := by
    have hrestored : s.restoreSource v.source m = X := by
      rw [hsource, hX, ← hheld]
      exact if_pos hleaving
    have hfreed : X.freeTarget v.dest m = Y := by
      rw [hdest, hY]
      exact if_pos ⟨by rw [hXj], by rw [hXj]⟩
    unfold State.endAtSU
    dsimp only
    rw [hrestored, hfreed, State.setPlace, hsource, State.modCoil_of_some hYcoil,
      State.modCoil_of_some (State.coil_setCoil_self ..)]
  have hLU (x : State) : x.endAtLU v .source .aborted = x := by
    unfold State.endAtLU
    rw [hsource, hdest, horigin]
  have hundone : (s.endAtSU m v .source).dropMove m v = s.undone m v i j c := by
    rw [hSU, hY, hX]
    rfl
  have hjournaled : v.journaled .aborted = false := by
    unfold Move.journaled
    rw [horigin, hdeferred, habort]
    dsimp only [Option.all_some]
    rw [hquiet]
    rfl
  have hasked : (s.undone m v i j c).askAll = s.undone m v i j c := by
    refine State.askAll_of_empty fun b hb => ?_
    rw [(s.undone_storeOnly m v i j c).of_state (fun x => x.bay b) fun _ _ _ _ _ => rfl]
    exact hplans b hb
  have hanswer (x : State) : moveAnswer x v .aborted = { code := .aborted, area := [1] } := by
    unfold moveAnswer
    rw [hphase]
    rfl
  unfold State.endMove
  rw [hmove]
  dsimp only
  rw [hLU, hundone, hasked]
  unfold State.reportEnd
  dsimp only
  rw [hjournaled, if_neg Bool.false_ne_true, horigin, habort]
  dsimp only
  rw [hanswer]
  exact if_pos hphase

/-! ## The obligation -/

theorem State.port_writeByte_congr {x : Nat} {y : Byte} (h : t.port = s.port) : (t.writeByte x y).port = (s.writeByte x y).port :=
  congrArg (fun p : Port => (State.writeByte (State.ported s p) x y).port) h

theorem State.undone_writeByte (s : State) (x : Nat) (y : Byte) :
    (s.writeByte x y).undone m v i j c = (s.undone m v i j c).writeByte x y := by
  have hport : (s.undone m v i j c).port = s.port := (s.undone_storeOnly m v i j c).of_state State.port fun _ _ _ _ _ => rfl
  have hwrite (t : State) : t.writeByte x y = t.ported (t.writeByte x y).port := rfl
  rw [hwrite s, State.undone_ported, hwrite (s.undone m v i j c), State.port_writeByte_congr hport]

theorem State.undone_working {k e value : Nat} (hcurrent : s.cellIsOf k e = true) :
    (s.working k e value).undone m v i j c = (s.undone m v i j c).working k e value := by
  have hmem : (s.undone m v i j c).mem = s.mem := (s.undone_storeOnly m v i j c).of_state State.mem fun _ _ _ _ _ => rfl
  have hcurrent' : (s.undone m v i j c).cellIsOf k e = true :=
    (State.cellIsOf_congr fun x _ _ => State.readByte_congr hmem x).trans hcurrent
  rw [State.working_of_current hcurrent, State.working_of_current hcurrent', State.undone_writeByte, State.undone_writeByte]

theorem State.runwayQuiet.of_records (h : s.runwayQuiet) (hrecords : t.records = s.records) : t.runwayQuiet :=
  h.congr (State.of_records State.requests hrecords) (State.of_records State.stalled hrecords) fun c => by
    have hcrane := State.of_records (fun x => x.crane c) hrecords
    exact ⟨congrArg Crane.yield hcrane, congrArg Crane.deferral hcrane⟩

/-- An ABORT_MOVE by number goes to the move of that number. -/
theorem State.abortOrder_of_number {kind : AbortKind} (htag : Body.moveTag o.body = 0) (hnumber : Body.moveNumber o.body = m)
    (hkind : Body.variant o.body = some kind) (hmove : s.move? m = some v) :
    s.abortOrder o = s.afterCU (s.abortMove o m v kind) := by
  have hselect : s.selectMove (Body.moveTag o.body) (Body.moveNumber o.body) = some (m, v) := by
    unfold State.selectMove
    rw [htag, hnumber, if_pos rfl, hmove]
    rfl
  unfold State.abortOrder
  dsimp only
  rw [hkind, hselect]

/-- The move with the abort's request. -/
def Move.requested (v : Move) (o : Order) (kind : AbortKind) : Move :=
  { v with abort := some { kind := kind, cell := o.cell, take := o.take } }

theorem State.abortMove_of_first {kind : AbortKind} (habort : v.abort = none) (hmove : s.move? m = some v) :
    s.abortMove o m v kind =
      ((s.setMove m (v.requested o kind)).working o.cell o.take v.phase.code).actAbort m v kind := by
  have hset : s.modMove m (fun v => { v with abort := some { kind := kind, cell := o.cell, take := o.take } }) =
      s.setMove m (v.requested o kind) := by
    unfold State.modMove
    rw [hmove]
    rfl
  unfold State.abortMove
  rw [habort]
  dsimp only
  rw [hset]

/-- AT_SAFE in the pick does nothing at once. -/
theorem State.actAbort_of_pick (hwithdrawal : v.withdrawal = none)
    (hphase : v.phase = .pickLower ∨ v.phase = .pickGrip ∨ v.phase = .pickVerify) : s.actAbort m v .atSafe = s := by
  unfold State.actAbort
  dsimp only
  rw [hwithdrawal]
  dsimp only
  rcases hphase with h | h | h <;> rw [h] <;> rfl

theorem State.actAbort_of_queued {kind : AbortKind} (hwithdrawal : v.withdrawal = none) (hphase : v.phase = .queued) :
    s.actAbort m v kind = s.endMove m .source .aborted := by
  unfold State.actAbort
  dsimp only
  rw [hwithdrawal]
  dsimp only
  rw [hphase]

/-- Settles O26: the request is recorded, and a QUEUED move ends. -/
theorem abortRecordsOrEnds : Obligations.AbortRecordsOrEnds := by
  intro s o rest m v htaken htag hnumber hm hmove habort hwithdrawal hquiet
  obtain ⟨X, hX⟩ : ∃ X, X = s.begin.setInbound .cu rest := ⟨_, rfl⟩
  have hXof {α : Type} (f : State → α) (hf : f (s.begin.setInbound .cu rest) = f s) : f X = f s := by rw [hX, hf]
  have hXmove : X.move? m = some v := (hXof (fun x => x.move? m) rfl).trans hmove
  have hXquiet : X.runwayQuiet := by
    rw [hX]
    exact hquiet
  have hgood {kind : AbortKind} (hkind : Body.variant o.body = some kind) : Body.abortBad o.body = none := by
    refine firstBad_eq_none _ _ ?_
    have hnumber' : Body.moveNumber o.body = m := hnumber
    simp [inRange, hnumber', hm, hkind]
  refine ⟨fun hvariant hphase => ?_, fun i j n take c hvariant hphase hdeferred horigin hn hother hcurrent hsource hdest hc hi hj
    hplans => ?_⟩
  · have hkind : Body.variant o.body = some .atSafe := by
      unfold Body.variant
      rw [hvariant]
      rfl
    have horder : X.abortOrder o = (X.setMove m (v.requested o .atSafe)).working o.cell o.take v.phase.code := by
      rw [State.abortOrder_of_number htag hnumber hkind hXmove, State.abortMove_of_first habort hXmove,
        State.actAbort_of_pick hwithdrawal hphase]
      refine State.afterCU_of_quiet (State.runwayQuiet.of_records (s := X.setMove m (v.requested o .atSafe)) hXquiet
        (State.working_records ..)) _
    obtain ⟨t, hnext, hrecords, hworking⟩ := checkedOrder_working (bad := fun o => Body.abortBad o.body)
      (f := State.abortOrder) (u := X.setMove m (v.requested o .atSafe)) htaken (hgood hkind)
      (by rw [← hX]; exact horder) (hXof State.mem rfl) (hXof State.flags rfl)
    have hmoves (q : Nat) := (State.of_records (fun x => x.move? q) hrecords).trans (State.move_setMove ..)
    refine ⟨t, hnext, (hmoves m).trans (if_pos rfl), fun q hq => (hmoves q).trans ((if_neg hq).trans ?_), ?_, hworking⟩
    · exact hXof (fun x => x.move? q) rfl
    · rw [State.of_records State.moves hrecords, hrecords, hX]
      rfl
  · have hkind : Body.variant o.body = some .quiet := by
      unfold Body.variant
      rw [hvariant]
      rfl
    obtain ⟨V, hV⟩ : ∃ V, V = v.requested o .quiet := ⟨_, rfl⟩
    obtain ⟨Y, hY⟩ : ∃ Y, Y = X.setMove m V := ⟨_, rfl⟩
    have hYof {α : Type} (f : State → α) (hf : ∀ x y, f (State.setMove x m y) = f x) (hX : f (s.begin.setInbound .cu rest) = f s) :
        f Y = f s := by rw [hY, hf, hXof f hX]
    have hYread (x : Nat) : Y.readByte x = s.readByte x := State.readByte_congr (hYof State.mem (fun _ _ => rfl) rfl) x
    have hYowner : Y.cellIsOf o.cell o.take = true := (State.cellIsOf_congr fun x _ _ => hYread x).trans htaken.current
    obtain ⟨U, hU⟩ : ∃ U, U = Y.undone m V i j c := ⟨_, rfl⟩
    have hUonly : StoreOnly Y U := hU ▸ State.undone_storeOnly ..
    have hYrest (q : Nat) : Y.slot q = s.slot q := hYof (fun x => x.slot q) (fun _ _ => rfl) rfl
    have hUmem : U.mem = s.mem := (hUonly.of_state State.mem fun _ _ _ _ _ => rfl).trans (hYof State.mem (fun _ _ => rfl) rfl)
    have hUflags : U.flags = s.flags :=
      (hUonly.of_state State.flags fun _ _ _ _ _ => rfl).trans (hYof State.flags (fun _ _ => rfl) rfl)
    have hUread (x : Nat) : U.readByte x = s.readByte x := State.readByte_congr hUmem x
    have hUowner : U.cellIsOf o.cell o.take = true := (State.cellIsOf_congr fun x _ _ => hUread x).trans htaken.current
    have hUcurrent : U.cellIsOf n take = true := (State.cellIsOf_congr fun x _ _ => hUread x).trans hcurrent
    have hUcrane (k : Nat) := State.crane_undone (s := Y) (m := m) (v := V) (i := i) (j := j) (c := c) k
    rw [← hU] at hUcrane
    have hYcrane (k : Nat) : Y.crane k = s.crane k := hYof (fun x => x.crane k) (fun _ _ => rfl) rfl
    have hUquiet : U.runwayQuiet := by
      refine hquiet.congr ((hUonly.of_state State.requests fun _ _ _ _ _ => rfl).trans (hYof State.requests (fun _ _ => rfl) rfl))
        ((hUonly.of_state State.stalled fun _ _ _ _ _ => rfl).trans (hYof State.stalled (fun _ _ => rfl) rfl)) fun k => ?_
      rw [hUcrane, hYcrane, hYcrane]
      split_ifs with hk
      · rw [hk]
        exact ⟨rfl, rfl⟩
      · exact ⟨rfl, rfl⟩
    have hended : (Y.working o.cell o.take 1).endMove m .source .aborted =
        U.answeredBoth o.cell o.take 1 n take { code := .aborted, area := [1] } { code := .done, area := [0] } := by
      obtain ⟨W, hW⟩ : ∃ W, W = Y.working o.cell o.take 1 := ⟨_, rfl⟩
      have hWrecords : W.records = Y.records := hW ▸ State.working_records ..
      have hWof {α : Type} (f : State → α) (hf : ∀ x : State, f x.records = f x) : f W = f Y := by
        rw [← hf W, hWrecords, hf]
      have hVsame : V = v.requested o .quiet := hV
      rw [← hW, State.endMove_of_queued (v := V) (a := { kind := .quiet, cell := o.cell, take := o.take }) (n := n) (take := take)
        (i := i) (j := j) (c := c)]
      · rw [hW, State.undone_working hYowner, ← hU]
        rfl
      · rw [hWof (fun x => x.move? m) fun _ => rfl, hY]
        exact State.move_setMove_self ..
      · rw [hVsame]
        exact hphase
      · rw [hVsame]
        exact hdeferred
      · rw [hVsame]
        exact horigin
      · rw [hVsame]
        exact hsource
      · rw [hVsame]
        exact hdest
      · rw [hVsame]
        rfl
      · rfl
      · rw [hWof (fun x => x.coil? V.coil) (fun _ => rfl), hYof (fun x => x.coil? V.coil) (fun _ _ => rfl) rfl, hVsame]
        exact hc
      · rw [hWof (fun x => x.slot i) (fun _ => rfl), hYrest, hi, hVsame]
        rfl
      · rw [hWof (fun x => x.slot j) (fun _ => rfl), hYrest, hj, hVsame]
        rfl
      · intro b hb
        rw [hWof (fun x => x.bay b) (fun _ => rfl), hYof (fun x => x.bay b) (fun _ _ => rfl) rfl]
        exact hplans b hb
    have horder : X.abortOrder o =
        U.answeredBoth o.cell o.take 1 n take { code := .aborted, area := [1] } { code := .done, area := [0] } := by
      have hcode : v.phase.code = 1 := by
        rw [hphase]
        rfl
      rw [State.abortOrder_of_number htag hnumber hkind hXmove, State.abortMove_of_first habort hXmove,
        State.actAbort_of_queued hwithdrawal hphase, hcode, ← hV, ← hY, hended]
      exact State.afterCU_of_quiet (hUquiet.of_records (State.answeredBoth_records hother hUcurrent hUowner)) _
    obtain ⟨t, hnext, hrecords, hfirst, hsecond, hflags, honly⟩ := handle_answered_twice
      (g := takeOrder .cu Kind.abortMove fun s o => s.checked o (Body.abortBad o.body) State.abortOrder) hn htaken.cell hother hcurrent
      htaken.current (((takeOrder_begin htaken).trans (State.checked_of_good (hgood hkind))).trans (hX ▸ horder)) hUmem hUflags
    have hcrane (k : Nat) := (State.of_records (fun x => x.crane k) hrecords).trans (hUcrane k)
    have hVcrane : V.crane = v.crane := by rw [hV]; rfl
    have hVcoil : V.coil = v.coil := by rw [hV]; rfl
    rw [hVcrane] at hcrane
    refine ⟨t, hnext, ?_, fun q hq => ?_, ?_, fun k hk => ?_, fun q => ?_, ?_, fun r hr => ?_, ?_, hfirst, ?_, hflags, honly⟩
    · rw [State.of_records (fun x => x.move? m) hrecords, hU, State.move_undone, if_pos rfl]
    · rw [State.of_records (fun x => x.move? q) hrecords, hU, State.move_undone, if_neg hq, hY, State.move_setMove, if_neg hq]
      exact hXof (fun x => x.move? q) rfl
    · rw [hcrane, if_pos rfl, hYcrane]
    · rw [hcrane, if_neg hk, hYcrane]
    · have hij : i ≠ j := fun h => by
        rw [h, hj] at hi
        cases hi
      rw [State.of_records (fun x => x.slot q) hrecords, hU, State.slot_undone, hYrest, hVcoil]
      by_cases hq : q = i
      · rw [if_pos hq, if_neg (fun h => hij (hq.symm.trans h)), if_pos hq]
      · rw [if_neg hq, if_neg hq]
    · rw [State.of_records (fun x => x.coil? v.coil) hrecords, hU, State.coil_undone, hVcoil, if_pos rfl]
    · rw [State.of_records (fun x => x.coil? r) hrecords, hU, State.coil_undone, hVcoil, if_neg hr]
      exact hYof (fun x => x.coil? r) (fun _ _ => rfl) rfl
    · rw [State.of_records State.moves hrecords, State.of_records State.cranes hrecords, State.of_records State.slots hrecords,
        State.of_records State.coils hrecords, hrecords]
      unfold StoreOnly at hUonly
      rw [hUonly, hY, hX]
      rfl
    · exact ⟨hsecond.area, hsecond.code, hsecond.state⟩

end Sys2Proof.Machine
end

section
/-! PROOF. AREA_CHANGE: the area state, the bed-hold flag and the closure test of one loaded crane (R78 to R80, R103, R138; log
entries 26, 27, 45, 65 and 66). -/

namespace Sys2Proof.Machine

variable {s t R M : State} {p : Port} {k b n : Nat} {v : Crane} {g span : Span} {l : List (Nat × StepTelegram)}
  {es : List JournalEntry} {notices : BitVec 10} {w : Nat → Bool}

/-! ## A scan that grants nothing -/

/-- A scan of one request that is refused, its crane's neighbours out of its way, leaves it waiting (R67, R70, R72). -/
theorem State.scan_of_refused {r : Request} (hrequests : s.requests = [r])
    (hcranes : ∀ c, (s.crane c).yield = none ∧ (s.crane c).deferral = none) (hrefused : s.compatible r = false)
    (hfree : s.blockers r.crane (s.requestSpan r.crane r.targetX) = []) : s.scan = s := by
  have hof (c : Nat) : s.requestOf c = if r.crane = c then some r else none := by
    rw [State.requestOf, hrequests, List.find?_cons, List.find?_nil]
    by_cases hc : r.crane = c
    · rw [if_pos hc, beq_iff_eq.mpr hc]
    · rw [if_neg hc, beq_eq_false_iff_ne.mpr hc]
  have hresumable : s.resumable = none := by
    refine List.find?_eq_none.mpr fun c _ => ?_
    rw [(hcranes c).2]
    exact Bool.false_ne_true
  have hyield : s.yieldDue = none := by
    rw [State.yieldDue, hrequests]
    refine List.findSome?_eq_none_iff.mpr fun x hx => ?_
    rw [List.mem_singleton.mp hx]
    dsimp only
    rw [hfree, List.findSome?_nil, ite_self]
  have hcycle : [0, 1, 2].findSome? s.waitCycle = none := by
    refine List.findSome?_eq_none_iff.mpr fun i _ => ?_
    rw [State.waitCycle, hof, hof]
    by_cases hi : r.crane = i
    · rw [if_neg (show r.crane ≠ i + 1 by omega)]
      cases (if r.crane = i then some r else none) <;> rfl
    · rw [if_neg hi]
  have hcheck : s.checkOnce = none := by
    rw [State.checkOnce, hyield, hcycle]
    rfl
  have hsettled : s.settleRU true = s := by
    show State.settle (31 + 1) s true = s
    rw [State.settle, hresumable]
    dsimp only
    rw [if_pos rfl, hcheck]
  unfold State.scan
  rw [hrequests, List.map_cons, List.map_nil, List.foldl_cons, List.foldl_nil, hof, if_pos rfl]
  dsimp only
  rw [hrefused, Bool.and_false, if_neg Bool.false_ne_true, hsettled]

/-- A span's blockers are as they were, where the runway, the neighbours and the crane's own width are. -/
theorem State.blockers_congr (hstraps : t.straps = s.straps) (hrunway : t.runway = s.runway)
    (hwidth : (t.crane k).halfWidth = (s.crane k).halfWidth) (hcranes : ∀ j, j ≠ k → t.crane j = s.crane j) (span : Span) :
    t.blockers k span = s.blockers k span := by
  have hneighbours : t.neighbours k = s.neighbours k := by
    unfold State.neighbours State.fitted
    rw [hstraps]
  unfold State.blockers
  rw [hneighbours]
  refine List.filter_congr fun j hj => ?_
  have hother : j ≠ k := by
    simp only [State.neighbours, List.mem_append] at hj
    split_ifs at hj <;> simp only [List.mem_singleton, List.not_mem_nil, or_false, false_or] at hj <;> omega
  unfold State.separated State.clearance
  rw [hrunway, hwidth, hcranes j hother]

/-- A closed extent refuses a loaded crane the part of a request beyond its grant. -/
theorem State.bayAdmits_of_beyond (hclosed : s.closed b = true) (hoverlaps : span.overlaps (s.extent b) = true)
    (hbeyond : (span.meet (s.extent b)).within (s.crane k).grant = false) : s.bayAdmits k span b = false := by
  unfold State.bayAdmits
  rw [hclosed, hoverlaps, hbeyond, Bool.and_false]
  rfl

theorem State.compatible_of_bay {r : Request} (hb : b < 3)
    (hload : (s.crane r.crane).loaded = true) (hbay : s.bayAdmits r.crane (s.requestSpan r.crane r.targetX) b = false) :
    s.compatible r = false := by
  have hall : [0, 1, 2].all (s.bayAdmits r.crane (s.requestSpan r.crane r.targetX)) = false := by
    refine List.all_eq_false.mpr ⟨b, ?_, Bool.eq_false_iff.mp hbay⟩
    simp only [List.mem_cons, List.not_mem_nil, or_false]
    omega
  unfold State.compatible
  dsimp only
  rw [hload, hall, Bool.not_true, Bool.or_false, Bool.and_false]

/-- The extent lies within the runway. -/
theorem State.extent_bounds (s : State) (b : Nat) : (s.runway.lo : Int) ≤ (s.extent b).lo ∧ (s.extent b).hi ≤ s.runway.hi :=
  ⟨le_max_right .., min_le_right ..⟩

/-- A target beyond a grant cut at an extent, on the cut side: the request reaches further into the extent (R65, R79). -/
def BeyondCut (west : Bool) (g e : Span) (target margin : Int) : Prop :=
  if west = true then e.lo ≤ g.hi ∧ g.hi < e.hi ∧ g.hi < target + margin
  else g.lo ≤ e.hi ∧ e.lo < g.lo ∧ target - margin < g.lo

theorem State.bayAdmits_of_cut {west : Bool} {target : Nat} (hclosed : s.closed b = true) (hgrant : (s.crane k).grant = g)
    (hordered : g.lo ≤ g.hi) (hbeyond : BeyondCut west g (s.extent b) target s.runway.margin) :
    s.bayAdmits k (s.requestSpan k target) b = false := by
  obtain ⟨hlo, hhi⟩ := s.extent_bounds b
  have hspan : s.requestSpan k target =
      { lo := max (min g.lo (target - s.runway.margin)) s.runway.lo
        hi := min (max g.hi (target + s.runway.margin)) s.runway.hi } := by
    rw [State.requestSpan, hgrant]
    rfl
  rw [hspan]
  generalize he : s.extent b = e at hlo hhi hbeyond
  have hsides : (e.lo ≤ g.hi ∧ g.hi < e.hi ∧ g.hi < target + s.runway.margin) ∨
      (g.lo ≤ e.hi ∧ e.lo < g.lo ∧ target - s.runway.margin < g.lo) := by
    cases west
    · exact .inr hbeyond
    · exact .inl hbeyond
  refine State.bayAdmits_of_beyond hclosed ?_ ?_
  · rw [he]
    refine decide_eq_true ?_
    dsimp only [Span.meet]
    omega
  · rw [he, hgrant]
    refine decide_eq_false ?_
    dsimp only [Span.meet]
    omega

/-! ## The branches of the closure test (R79) -/

/-- An empty crane is not tested. -/
theorem State.closureTest_of_unloaded (hload : (s.crane k).loaded = false) : s.closureTest k b = s := by
  unfold State.closureTest
  dsimp only
  rw [hload, Bool.and_false]
  rfl

/-- The crane is put to the closure test of the bay: it is loaded, its grant overlaps the closed extent, and it is not listed. -/
structure ClosureDue (s : State) (k b : Nat) : Prop where
  closed : s.closed b = true
  loaded : (s.crane k).loaded = true
  overlaps : (s.crane k).grant.overlaps (s.extent b) = true
  unlisted : (s.bay b).breach.contains k = false

theorem ClosureDue.due (h : ClosureDue s k b) :
    (s.closed b && (s.crane k).loaded && (s.crane k).grant.overlaps (s.extent b) && !(s.bay b).breach.contains k) = true := by
  rw [h.closed, h.loaded, h.overlaps, h.unlisted]
  rfl

theorem ClosureDue.inside (h : ClosureDue s k b)
    (hin : (s.crane k).heldWide = true ∨ (s.crane k).positionUsed.touches (s.extent b) = true) :
    s.closureTest k b = s.listBreach k b := by
  unfold State.closureTest
  dsimp only
  rw [h.due, if_neg (by decide), if_pos (Bool.or_eq_true_iff.mpr hin)]

/-- R79's STOP NOW: a GOTO in progress is given up for the zone. -/
def State.zoneStop (s : State) (k : Nat) : State :=
  if (s.crane k).gotoInProgress = true then (s.sendStop k true).modCrane k fun c => { c with givenUp := .zone }
  else s.sendStop k true

/-- The grant cut on the extent's side of the crane. -/
def Span.cutOff (g : Span) (west : Bool) (x : Int) : Span := if west = true then g.cutEast x else g.cutWest x

/-- The crane stands outside the extent, on the side `west` says, and its grant is not held widened. -/
structure StandsOff (s : State) (k b : Nat) (west : Bool) : Prop where
  narrow : (s.crane k).heldWide = false
  apart : (s.crane k).positionUsed.touches (s.extent b) = false
  side : decide ((s.crane k).positionUsed.hi < (s.extent b).lo) = west

theorem ClosureDue.reaching {west : Bool} (h : ClosureDue s k b) (hoff : StandsOff s k b west)
    (hreaches : (s.stopping k).overlaps (s.extent b) = true) :
    s.closureTest k b = ((s.zoneStop k).listBreach k b).cutGrant k
      ((s.crane k).grant.cutOff west (if west = true then (s.stopping k).hi else (s.stopping k).lo)) := by
  have hside := hoff.side
  unfold State.closureTest
  dsimp only
  rw [h.due, hoff.narrow, hoff.apart, if_neg (by decide), if_neg (by decide), if_pos hreaches]
  cases west
  · rw [if_neg (of_decide_eq_false hside)]
    rfl
  · rw [if_pos (of_decide_eq_true hside)]
    rfl

theorem ClosureDue.short {west : Bool} (h : ClosureDue s k b) (hoff : StandsOff s k b west)
    (hreaches : (s.stopping k).overlaps (s.extent b) = false) :
    s.closureTest k b = s.cutGrant k
      ((s.crane k).grant.cutOff west (if west = true then (s.extent b).lo else (s.extent b).hi)) := by
  have hside := hoff.side
  unfold State.closureTest
  dsimp only
  rw [h.due, hoff.narrow, hoff.apart, if_neg (by decide), if_neg (by decide), hreaches, if_neg (by decide)]
  cases west
  · rw [if_neg (of_decide_eq_false hside)]
    rfl
  · rw [if_pos (of_decide_eq_true hside)]
    rfl

/-! ## The crane stopped before a closed extent -/

/-- The crane that R79's STOP NOW stops. -/
def Crane.zoneStopped (v : Crane) : Crane :=
  { v with
    givenUp := if v.step ≠ none ∧ v.givenUp = .no then (if v.gotoInProgress then .zone else .stop) else v.givenUp }

theorem Crane.gotoInProgress_iff (v : Crane) :
    v.gotoInProgress = true ↔ (∃ seq x y, v.step = some { seq := seq, kind := .goto x y }) ∧ v.givenUp = .no := by
  unfold Crane.gotoInProgress
  constructor
  · intro h
    split at h
    · next hstep hgiven => exact ⟨⟨_, _, _, hstep⟩, hgiven⟩
    · exact absurd h Bool.false_ne_true
  · rintro ⟨⟨seq, x, y, hstep⟩, hgiven⟩
    rw [hstep, hgiven]

theorem Crane.gotoInProgress_zoneStopped (v : Crane) : v.zoneStopped.gotoInProgress = false := by
  refine Bool.eq_false_iff.mpr fun h => ?_
  obtain ⟨⟨seq, x, y, hstep⟩, hgiven⟩ := (Crane.gotoInProgress_iff _).mp h
  have hsome : v.step ≠ none := by
    rw [show v.step = some { seq := seq, kind := .goto x y } from hstep]
    exact Option.some_ne_none _
  change (if v.step ≠ none ∧ v.givenUp = .no then (if v.gotoInProgress then .zone else .stop) else v.givenUp) = GivenUp.no
    at hgiven
  split_ifs at hgiven with hprogress
  exact hprogress ⟨hsome, hgiven⟩

theorem Fleet.zoneStop (h : Fleet M R l) (hcrane : R.crane k = v) :
    ∃ R', (R.ported p).zoneStop k = R'.ported p ∧ Fleet M R' (l ++ [(k, .stop v.currentNumber true)]) ∧
      R'.crane k = v.zoneStopped ∧ ∀ j, j ≠ k → R'.crane j = R.crane j := by
  obtain ⟨R1, hstop, hfleet, hcrane1, hothers, -⟩ := h.sendStop (p := p) hcrane true
  unfold State.zoneStop
  rw [State.crane_ported, hcrane, hstop]
  by_cases hgoto : v.gotoInProgress = true
  · rw [if_pos hgoto, State.modCrane_ported]
    refine ⟨_, rfl, hfleet.modCrane .., ?_, fun j hj => ?_⟩
    · obtain ⟨⟨seq, x, y, hstep⟩, hgiven⟩ := v.gotoInProgress_iff.mp hgoto
      have hsome : v.step ≠ none := by
        rw [hstep]
        exact Option.some_ne_none _
      rw [State.crane_modCrane, if_pos rfl, hcrane1, Crane.zoneStopped, if_pos ⟨hsome, hgiven⟩, if_pos hgoto, Crane.givingUp,
        if_pos ⟨Option.isSome_iff_ne_none.mpr hsome, hgiven⟩]
    · rw [State.crane_modCrane, if_neg hj, hothers j hj]
  · rw [if_neg hgoto]
    refine ⟨R1, rfl, hfleet, hcrane1.trans ?_, hothers⟩
    unfold Crane.givingUp Crane.zoneStopped
    rw [if_neg hgoto]
    by_cases hstep : v.step ≠ none ∧ v.givenUp = .no
    · rw [if_pos hstep, if_pos ⟨Option.isSome_iff_ne_none.mpr hstep.1, hstep.2⟩]
    · rw [if_neg hstep, if_neg fun h => hstep ⟨Option.isSome_iff_ne_none.mp h.1, h.2⟩]

/-! ## The breach list -/

/-- The bay with the crane on its breach list. -/
def State.listed (s : State) (k b : Nat) : State := s.modBay b fun x => { x with breach := x.breach ++ [k] }

/-- The ZONE_BREACH entry of a crane. -/
def State.breachEntry (s : State) (k b : Nat) : JournalEntry :=
  { kind := 6, subject := b, coil := (((s.recordAt (.hook k)).bind s.coil?).map (·.id)).getD 0
    detail := [byte k, 0] ++ leBytes 2 (s.crane k).positionUsed.lo.toNat ++ leBytes 2 (s.crane k).positionUsed.hi.toNat }

/-- A crane that is listed has its ZONE_BREACH entry and raises BAY. -/
theorem Effect.listBreach (h : Effect s (R.ported p) es notices w) (hs : s.journalTakes (es.length + (n + 1)) = true)
    (k b : Nat) :
    ∃ q, (R.ported p).listBreach k b = (R.listed k b).ported q ∧
      Effect s ((R.listed k b).ported q) (es ++ [R.breachEntry k b]) (notices ||| Notice.bay.mask ||| Notice.entry.mask) w :=
  Effect.report (R := R.listed k b) (h.records_changed rfl) hs .bay (R.breachEntry k b)

theorem Fleet.listed (h : Fleet M R l) (k b : Nat) : Fleet (M.listed k b) (R.listed k b) l where
  rest := by
    have hrest := h.rest
    have hbays : (R.listed k b).bays = (M.listed k b).bays := by
      show Tab.put _ _ _ = Tab.put _ _ _
      rw [h.of_state State.bays fun _ _ _ _ => rfl, h.of_state (fun x => x.bay b) fun _ _ _ _ => rfl]
    have hmod : R.listed k b = { R with bays := (R.listed k b).bays, touched := (R.listed k b).touched } := rfl
    rw [hmod, hbays]
    generalize (R.listed k b).touched = touched
    rw [hrest]
    rfl
  sent := h.sent
  transmitted := h.transmitted

/-! ## The grant cut -/

/-- The waiting remainder of the crane's leg (R80). -/
def Crane.remainder (v : Crane) (k : Nat) : List Request :=
  match v.leg with
  | some x =>
    [{ crane := k, kind := x.kind, targetX := x.targetX, targetY := x.targetY, seq := x.seq, remainder := true }]
  | none => []

theorem Crane.remainder_of_noLeg (hleg : v.leg = none) (k : Nat) : v.remainder k = [] := by
  rw [Crane.remainder, hleg]

theorem Crane.remainder_of_leg {x : Leg} (hleg : v.leg = some x) (k : Nat) :
    v.remainder k =
      [{ crane := k, kind := x.kind, targetX := x.targetX, targetY := x.targetY, seq := x.seq, remainder := true }] := by
  rw [Crane.remainder, hleg]

/-- The LIMIT of a GOTO in progress under a new grant. -/
def Crane.limits (v : Crane) (k : Nat) (g : Span) : List (Nat × StepTelegram) :=
  if v.gotoInProgress = true then [(k, .limit v.currentNumber g.lo g.hi)] else []

theorem Fleet.requested (h : Fleet M R l) (rs : List Request) :
    Fleet { M with requests := rs } { R with requests := rs } l where
  rest := by
    have hrest := h.rest
    rw [hrest]
  sent := h.sent
  transmitted := h.transmitted

theorem Fleet.limit (h : Fleet M R l) (hcrane : R.crane k = v) (hgrant : v.grant = g) :
    ∃ R', (if ((R.ported p).crane k).gotoInProgress = true then (R.ported p).sendLimit k else R.ported p) = R'.ported p ∧
      Fleet M R' (l ++ v.limits k g) ∧ ∀ j, R'.crane j = R.crane j := by
  rw [State.crane_ported, hcrane]
  unfold Crane.limits
  by_cases hgoto : v.gotoInProgress = true
  · have hlimit : (R.ported p).sendLimit k = (R.send k (.limit v.currentNumber g.lo g.hi)).ported p := by
      unfold State.sendLimit
      dsimp only
      rw [State.crane_ported, hcrane, hgrant]
      rfl
    rw [if_pos hgoto, if_pos hgoto, hlimit]
    exact ⟨_, rfl, h.send .., fun _ => rfl⟩
  · rw [if_neg hgoto, if_neg hgoto, List.append_nil]
    exact ⟨R, rfl, h, fun _ => rfl⟩

/-- The span a leg to a target asks for from a grant (R65). -/
def State.legSpan (s : State) (g : Span) (target : Nat) : Span :=
  { lo := max (min g.lo (target - s.runway.margin)) s.runway.lo, hi := min (max g.hi (target + s.runway.margin)) s.runway.hi }

/-- The cut ends a leg short of its target before the closed extent, the neighbours out of the way. -/
structure LegCut (s : State) (k b : Nat) (v : Crane) (g : Span) (x : Leg) (west : Bool) : Prop where
  beyond : g.hi < v.grant.hi ∨ v.grant.lo < g.lo
  ordered : g.lo ≤ g.hi
  further : BeyondCut west g (s.extent b) x.targetX s.runway.margin
  free : s.blockers k (s.legSpan g x.targetX) = []

theorem Fleet.requests (h : Fleet M R l) : R.requests = M.requests := h.of_state State.requests fun _ _ _ _ => rfl

/-- A cut grant: the LIMIT of a GOTO in progress, and the rest of the leg waiting (R79, R80). -/
theorem Fleet.cutGrant {west : Bool} (h : Fleet M R l) (hcrane : R.crane k = v) (hquiet : R.runwayQuiet) (hb : b < 3)
    (hload : v.loaded = true) (hclosed : R.closed b = true)
    (hleg : v.leg = none ∨ ∃ x, v.leg = some x ∧ LegCut R k b v g x west) :
    ∃ R', (R.ported p).cutGrant k g = R'.ported p ∧ Fleet { M with requests := v.remainder k } R' (l ++ v.limits k g) ∧
      R'.crane k = { v with grant := g } ∧ ∀ j, j ≠ k → R'.crane j = R.crane j := by
  obtain ⟨R1, hR1⟩ : ∃ R1, R1 = R.modCrane k fun c => { c with grant := g } := ⟨_, rfl⟩
  have h1 : Fleet M R1 l := hR1 ▸ h.modCrane k fun c => { c with grant := g }
  have hcrane1 (j : Nat) : R1.crane j = if j = k then { v with grant := g } else R.crane j := by
    rw [hR1, State.crane_modCrane, hcrane]
  have hself1 : R1.crane k = { v with grant := g } := (hcrane1 k).trans (if_pos rfl)
  obtain ⟨R2, hlimit, h2, hcrane2⟩ := h1.limit (p := p) hself1 (g := g) rfl
  obtain ⟨R3, hR3⟩ : ∃ R3, R3 = { R2 with requests := v.remainder k } := ⟨_, rfl⟩
  have h3 : Fleet { M with requests := v.remainder k } R3 (l ++ v.limits k g) := hR3 ▸ h2.requested (v.remainder k)
  have hcrane3 (j : Nat) : R3.crane j = if j = k then { v with grant := g } else R.crane j := by
    rw [← hcrane1, ← hcrane2, hR3]
    rfl
  have hself3 : R3.crane k = { v with grant := g } := (hcrane3 k).trans (if_pos rfl)
  have hself2 : (R2.ported p).crane k = { v with grant := g } := (hcrane2 k).trans hself1
  have hempty : R2.requests = [] := (h2.requests.trans h.requests.symm).trans hquiet.1
  have hjoin : (R2.ported p).joinRemainder k (decide (g.hi < v.grant.hi ∨ v.grant.lo < g.lo)) = R3.ported p := by
    have hnobody : (R2.ported p).requestOf k = none := by
      show R2.requests.find? _ = none
      rw [hempty, List.find?_nil]
    unfold State.joinRemainder
    rw [hself2, hR3, hnobody]
    rcases hleg with hnone | ⟨x, hsome, hcut⟩
    · rw [Crane.remainder_of_noLeg hnone]
      dsimp only
      rw [hnone]
      dsimp only
      rw [← hempty]
    · rw [Crane.remainder_of_leg hsome]
      dsimp only
      rw [hsome]
      dsimp only
      rw [if_pos ⟨decide_eq_true hcut.beyond, rfl⟩, show (R2.ported p).requests = [] from hempty, List.nil_append]
      rfl
  have hkept {α : Type} (f : State → α)
      (hf : ∀ (x : State) requests cranes sent outgoing touched,
        f { x with requests := requests, cranes := cranes, sent := sent, outgoing := outgoing, touched := touched } = f x) :
      f R3 = f R := by
    rw [h3.of_state f fun cranes sent outgoing touched =>
        (hf { M with requests := v.remainder k } (v.remainder k) cranes sent outgoing touched).trans rfl,
      h.of_state f fun cranes sent outgoing touched => hf M M.requests cranes sent outgoing touched]
    exact hf M (v.remainder k) M.cranes M.sent M.outgoing M.touched
  have hrest : (∀ c, (R3.crane c).yield = none ∧ (R3.crane c).deferral = none) := fun c => by
    have hbefore := hquiet.2.2
    rw [hcrane3]
    split_ifs
    · exact hcrane ▸ hbefore k
    · exact hbefore c
  have hscan : (R3.ported p).scan = R3.ported p := by
    rcases hleg with hnone | ⟨x, hsome, hcut⟩
    · refine State.scan_of_quiet ⟨?_, ?_, hrest⟩
      · show R3.requests = []
        rw [hR3]
        exact Crane.remainder_of_noLeg hnone k
      · exact (hkept State.stalled fun _ _ _ _ _ _ => rfl).trans hquiet.2.1
    · have hrunway : R3.runway = R.runway := hkept State.runway fun _ _ _ _ _ _ => rfl
      have hclosed3 : R3.closed b = true := (hkept (fun y => y.closed b) fun _ _ _ _ _ _ => rfl).trans hclosed
      have hextent : R3.extent b = R.extent b := hkept (fun y => y.extent b) fun _ _ _ _ _ _ => rfl
      have hload3 : (R3.crane k).loaded = true := by
        rw [hself3]
        exact hload
      have hgrant3 : (R3.crane k).grant = g := by rw [hself3]
      have hspan : R3.requestSpan k x.targetX = R.legSpan g x.targetX := by
        rw [State.legSpan, ← hrunway, State.requestSpan, hgrant3]
        rfl
      have hfree : R3.blockers k (R3.requestSpan k x.targetX) = [] := by
        rw [hspan, ← hcut.free]
        refine State.blockers_congr (hkept State.straps fun _ _ _ _ _ _ => rfl) hrunway ?_ (fun j hj => ?_) _
        · rw [hself3, hcrane]
        · rw [hcrane3, if_neg hj]
      have hrefuses : R3.bayAdmits k (R3.requestSpan k x.targetX) b = false :=
        State.bayAdmits_of_cut hclosed3 hgrant3 hcut.ordered (by
          rw [hextent, hrunway]
          exact hcut.further)
      have hwaits : R3.requests =
          [{ crane := k, kind := x.kind, targetX := x.targetX, targetY := x.targetY, seq := x.seq, remainder := true }] := by
        rw [hR3]
        exact Crane.remainder_of_leg hsome k
      exact State.scan_of_refused (s := R3.ported p) hwaits hrest
        (State.compatible_of_bay (s := R3.ported p) hb hload3 hrefuses) hfree
  refine ⟨R3, ?_, h3, hself3, fun j hj => (hcrane3 j).trans (if_neg hj)⟩
  unfold State.cutGrant
  dsimp only
  rw [State.crane_ported, hcrane, State.modCrane_ported, ← hR1, hlimit, hjoin, hscan]

/-! ## The input's level, and what follows it -/

/-- The levels of the inputs with one changed. -/
def State.areaSet (s : State) (b : Nat) (low : Bool) : State :=
  { s with areaLow := [0, 1, 2].filter fun k => if k = b then low else s.areaLow.contains k }

/-- Nothing that is published shows an input's level. -/
theorem publish_areaSet (old new : State) (b : Nat) (low : Bool) : publish (old.areaSet b low) new = publish old new := by
  have hgroups : groupsWritten (old.areaSet b low) new = groupsWritten old new := List.filter_congr fun _ _ => rfl
  rw [publish, publish, hgroups]
  rfl

/-- An input that no change follows. -/
theorem execAreaChange_of_same {b : Fin 3} {low : Bool} (h : (s.bay b).state = .unconfigured ∨ (s.bay b).occupied = low) :
    execAreaChange b low s = .next (s.begin.areaSet b low) := by
  have hset : State.areaInput b low s.begin = s.begin.areaSet b low := if_pos h
  unfold execAreaChange
  rw [handle_next, hset, ← publish_areaSet s.begin _ b low, publish_of_shown_eq rfl rfl]

/-- The area state of the bay follows. -/
def State.areaTurned (s : State) (b : Nat) (low : Bool) : State :=
  (s.begin.areaSet b low).modBay b fun x => { x with occupied := low }

theorem State.areaInput_of_changed {low : Bool} (hconfigured : (s.bay b).state ≠ .unconfigured)
    (hchanged : (s.bay b).occupied ≠ low) :
    State.areaInput b low s.begin =
      (if low = true then if s.inService then (s.areaTurned b low).closeExtent b else s.areaTurned b low
        else (s.areaTurned b low).openExtent b).setBedHold b low :=
  if_neg (not_or.mpr ⟨hconfigured, hchanged⟩)

theorem State.bay_areaTurned (s : State) (b d : Nat) (low : Bool) :
    (s.areaTurned b low).bay d = if d = b then { s.bay b with occupied := low } else s.bay d := State.bay_modBay ..

theorem State.crane_areaTurned (s : State) (b c : Nat) (low : Bool) : (s.areaTurned b low).crane c = s.crane c := rfl

theorem State.workBed_congr (hqueue : (t.crane k).queue = (s.crane k).queue) (hmoves : t.moves = s.moves) :
    t.workBed k = s.workBed k := by
  have hmove : t.move? = s.move? := funext fun m => by rw [State.move?, State.move?, hmoves]
  unfold State.workBed State.currentMove
  rw [hqueue, hmove]

/-- `t` is `s` but for the bays and what is to be published. -/
def BaysOnly (s t : State) : Prop := t = { s with bays := t.bays, touched := t.touched }

theorem BaysOnly.trans {u : State} (h : BaysOnly s t) (g : BaysOnly t u) : BaysOnly s u := by
  unfold BaysOnly at h g ⊢
  rw [g, h]

theorem BaysOnly.of_state {α : Type} (h : BaysOnly s t) (f : State → α)
    (hf : ∀ (x : State) bays touched, f { x with bays := bays, touched := touched } = f x) : f t = f s := by
  unfold BaysOnly at h
  rw [h, hf]

theorem State.modBay_baysOnly (s : State) (b : Nat) (f : Bay → Bay) : BaysOnly s (s.modBay b f) := rfl

theorem State.areaTurned_baysOnly (s : State) (b : Nat) (low : Bool) : BaysOnly (s.begin.areaSet b low) (s.areaTurned b low) :=
  State.modBay_baysOnly ..

theorem State.of_areaTurned {α : Type} (s : State) (b : Nat) (low : Bool) (f : State → α)
    (hf : ∀ (x : State) bays touched, f { x with bays := bays, touched := touched } = f x)
    (hset : f (s.begin.areaSet b low) = f s) : f (s.areaTurned b low) = f s :=
  ((s.areaTurned_baysOnly b low).of_state f hf).trans hset

/-- The runway is at rest as before. -/
theorem State.runwayQuiet.areaTurned (h : s.runwayQuiet) (b : Nat) (low : Bool) : (s.areaTurned b low).runwayQuiet :=
  h.congr (s.of_areaTurned b low State.requests (fun _ _ _ => rfl) rfl) (s.of_areaTurned b low State.stalled (fun _ _ _ => rfl) rfl)
    fun c => by
      rw [State.crane_areaTurned]
      exact ⟨rfl, rfl⟩

/-- Where no crane works over the bed, the bed-hold flag alone changes (R103). -/
theorem State.setBedHold_of_clear (hbeds : ∀ j ≤ s.straps, j < 4 → s.workBed j ≠ some b) (low : Bool) :
    s.setBedHold b low = s.modBay b fun x => { x with bedHold := low } := by
  have hover : (s.modBay b fun x => { x with bedHold := low }).cranesOver b = [] := by
    refine List.filter_eq_nil_iff.mpr fun j hj => ?_
    obtain ⟨hfit, hfour⟩ := State.fitted_iff_both.mp (List.mem_filter.mp hj).2
    rw [beq_iff_eq]
    exact hbeds j hfit hfour
  unfold State.setBedHold
  dsimp only
  rw [hover, List.foldl_nil]

/-- Tests that change nothing. -/
theorem closureTests_of_fixed {js : List Nat} (h : ∀ j ∈ js, s.closureTest j b = s) :
    js.foldl (fun s j => s.closureTest j b) s = s := by
  induction js with
  | nil => rfl
  | cons j rest ih =>
    rw [List.foldl_cons, h j (List.mem_cons_self ..)]
    exact ih fun i hi => h i (List.mem_cons_of_mem j hi)

/-- Of several tests one changes the state. -/
theorem closureTests_of_one {js : List Nat} (hnodup : js.Nodup) (hk : k ∈ js) (htest : s.closureTest k b = t)
    (hothers : ∀ j ∈ js, j ≠ k → s.closureTest j b = s ∧ t.closureTest j b = t) :
    js.foldl (fun s j => s.closureTest j b) s = t := by
  induction js with
  | nil => exact absurd hk List.not_mem_nil
  | cons j rest ih =>
    obtain ⟨hnew, hrest⟩ := List.nodup_cons.mp hnodup
    rw [List.foldl_cons]
    by_cases hj : j = k
    · rw [hj, htest]
      exact closureTests_of_fixed fun i hi => (hothers i (List.mem_cons_of_mem j hi) fun h => hnew (hj ▸ h ▸ hi)).2
    · rw [(hothers j (List.mem_cons_self ..) hj).1]
      exact ih hrest ((List.mem_cons.mp hk).resolve_left fun h => hj h.symm) fun i hi =>
        hothers i (List.mem_cons_of_mem j hi)

theorem Crane.loaded_iff (v : Crane) : v.loaded = true ↔ v.wholeTong = .closedLoaded := beq_iff_eq

theorem State.closureTest_of_tong (h : (s.crane k).wholeTong ≠ .closedLoaded) : s.closureTest k b = s :=
  State.closureTest_of_unloaded (Bool.eq_false_iff.mpr fun hl => h ((Crane.loaded_iff _).mp hl))

/-- No crane is loaded: the extent closes alone. -/
theorem State.closeExtent_of_unloaded (h : ∀ j ≤ s.straps, j < 4 → (s.crane j).wholeTong ≠ .closedLoaded) :
    s.closeExtent b = s :=
  closureTests_of_fixed fun j hj => by
    obtain ⟨hfit, hfour⟩ := State.fitted_iff_both.mp (List.mem_filter.mp hj).2
    exact State.closureTest_of_tong (h j hfit hfour)

/-- One crane is loaded: it alone is tested. -/
theorem State.closeExtent_of_one (hfit : k ≤ s.straps) (hk : k < 4)
    (hothers : ∀ j ≤ s.straps, j < 4 → j ≠ k → (s.crane j).wholeTong ≠ .closedLoaded)
    (hkept : ∀ j, j ≠ k → t.crane j = s.crane j) (htest : s.closureTest k b = t) : s.closeExtent b = t := by
  have hmem : k ∈ [0, 1, 2, 3] := by
    simp only [List.mem_cons, List.not_mem_nil, or_false]
    omega
  refine closureTests_of_one (List.Nodup.filter _ (by decide)) (List.mem_filter.mpr ⟨hmem, State.fitted_iff_both.mpr ⟨hfit, hk⟩⟩)
    htest fun j hj hne => ?_
  obtain ⟨hjfit, hfour⟩ := State.fitted_iff_both.mp (List.mem_filter.mp hj).2
  have htong := hothers j hjfit hfour hne
  exact ⟨State.closureTest_of_tong htong, State.closureTest_of_tong (hkept j hne ▸ htong)⟩

/-! ## An input whose change meets no crane -/

/-- The bay after a change that meets no crane. -/
def Bay.areaTurned (x : Bay) (low : Bool) : Bay :=
  { x with occupied := low, bedHold := low, breach := if low = true then x.breach else [] }

theorem State.areaInput_of_clear {low : Bool} (hconfigured : (s.bay b).state ≠ .unconfigured)
    (hchanged : (s.bay b).occupied ≠ low) (hquiet : s.runwayQuiet)
    (hcranes : ∀ c ≤ s.straps, c < 4 → (s.crane c).wholeTong ≠ .closedLoaded ∧ s.workBed c ≠ some b) :
    BaysOnly (s.begin.areaSet b low) (State.areaInput b low s.begin) ∧
      ∀ d, (State.areaInput b low s.begin).bay d = if d = b then (s.bay b).areaTurned low else s.bay d := by
  have hbeds : ∀ j ≤ s.straps, j < 4 → s.workBed j ≠ some b := fun j hj hfour => (hcranes j hj hfour).2
  have hturned := s.areaTurned_baysOnly b low
  have hbay (d : Nat) := s.bay_areaTurned b d low
  rw [State.areaInput_of_changed hconfigured hchanged]
  obtain ⟨A, hA⟩ : ∃ A, A = s.areaTurned b low := ⟨_, rfl⟩
  rw [← hA] at hturned ⊢
  simp only [← hA] at hbay
  have hstraps : A.straps = s.straps := hA ▸ s.of_areaTurned b low State.straps (fun _ _ _ => rfl) rfl
  have hAcrane (j : Nat) : A.crane j = s.crane j := hA ▸ s.crane_areaTurned b j low
  have hmoves : A.moves = s.moves := hA ▸ s.of_areaTurned b low State.moves (fun _ _ _ => rfl) rfl
  have hAquiet : A.runwayQuiet := hA ▸ hquiet.areaTurned b low
  have hAbeds : ∀ j ≤ A.straps, j < 4 → A.workBed j ≠ some b := fun j hj hfour => by
    rw [State.workBed_congr (congrArg Crane.queue (hAcrane j)) hmoves]
    exact hbeds j (hstraps ▸ hj) hfour
  cases low
  · have hopen : A.openExtent b = A.modBay b fun x => { x with breach := [] } :=
      State.scan_of_quiet (s := A.modBay b fun x => { x with breach := [] }) hAquiet
    rw [if_neg Bool.false_ne_true, hopen, State.setBedHold_of_clear (by exact hAbeds)]
    refine ⟨hturned.trans ((State.modBay_baysOnly ..).trans (State.modBay_baysOnly ..)), fun d => ?_⟩
    rw [State.bay_modBay, State.bay_modBay, State.bay_modBay, if_pos rfl, hbay, hbay, if_pos rfl]
    split_ifs <;> rfl
  · have hclose : A.closeExtent b = A :=
      State.closeExtent_of_unloaded fun j hj hfour => hAcrane j ▸ (hcranes j (hstraps ▸ hj) hfour).1
    rw [if_pos rfl, hclose, ite_self, State.setBedHold_of_clear hAbeds]
    refine ⟨hturned.trans (State.modBay_baysOnly ..), fun d => ?_⟩
    rw [State.bay_modBay, hbay, hbay, if_pos rfl]
    split_ifs <;> rfl

theorem execAreaChange_of_clear {b : Fin 3} {low : Bool} (hconfigured : (s.bay b).state ≠ .unconfigured)
    (hchanged : (s.bay b).occupied ≠ low) (hquiet : s.runwayQuiet)
    (hcranes : ∀ c ≤ s.straps, c < 4 → (s.crane c).wholeTong ≠ .closedLoaded ∧ s.workBed c ≠ some b.val) :
    ∃ t, execAreaChange b low s = .next t ∧ t.bay b = (s.bay b).areaTurned low ∧ (∀ d, d ≠ b.val → t.bay d = s.bay d) ∧
      t.records = State.records { s with sent := [], areaLow := (s.areaSet b low).areaLow, bays := t.bays } ∧
      t.flags = s.flags ∧ OnlyWrites s t (fun _ => false) := by
  obtain ⟨honly, hbay⟩ := State.areaInput_of_clear hconfigured hchanged hquiet hcranes
  obtain ⟨t, hnext, hrecords, hflags, hbytes⟩ := handle_effect (State.areaInput b low) s
  obtain ⟨u, hu⟩ : ∃ u, u = State.areaInput b low s.begin := ⟨_, rfl⟩
  rw [← hu] at honly hrecords hflags hbytes
  simp only [← hu] at hbay
  have hbays (d : Nat) : t.bay d = u.bay d := State.of_records (fun x => x.bay d) hrecords
  refine ⟨t, hnext, (hbays b).trans ((hbay b).trans (if_pos rfl)), fun d hd => (hbays d).trans ((hbay d).trans (if_neg hd)),
    ?_, hflags.trans (honly.of_state State.flags fun _ _ _ => rfl), fun a hplain _ => ?_⟩
  · rw [State.of_records State.bays hrecords, hrecords]
    unfold BaysOnly at honly
    rw [honly]
    rfl
  · have hplace : a < 0x40 ∨ 0x310 ≤ a ∧ a < 0xD000 := by
      simp only [publishedOffset, Bool.or_eq_false_iff, Bool.and_eq_false_iff, Bool.not_eq_false', decide_eq_false_iff_not,
        decide_eq_true_eq] at hplain
      omega
    rw [hbytes a hplace]
    exact State.readByte_congr (honly.of_state State.mem fun _ _ _ => rfl) a

/-! ## An input that closes the extent of one loaded crane -/

/-- The position used is an interval, its western end first. -/
theorem Crane.positionUsed_ordered (v : Crane) : v.positionUsed.lo ≤ v.positionUsed.hi := by
  unfold Crane.positionUsed
  cases v.lock
  · exact le_refl _
  · exact min_le_max

theorem Span.cutOff_of_within {grant : Span} {west : Bool} {x : Int}
    (hg : g = if west = true then { grant with hi := x } else { grant with lo := x }) (hordered : g.lo ≤ g.hi)
    (hlo : grant.lo ≤ g.lo) (hhi : g.hi ≤ grant.hi) : grant.cutOff west x = g := by
  cases west
  · rw [if_neg Bool.false_ne_true] at hg
    subst hg
    dsimp only at hordered hlo
    unfold Span.cutOff Span.cutWest
    rw [if_neg Bool.false_ne_true, max_eq_right hlo, min_eq_right hordered]
  · rw [if_pos rfl] at hg
    subst hg
    dsimp only at hordered hhi
    unfold Span.cutOff Span.cutEast
    rw [if_pos rfl, min_eq_right hhi, max_eq_right hordered]

/-- In service a bay's extent closes, no crane working over its bed; of the cranes only `k` is loaded, its grant overlapping the
extent. -/
structure AreaCloses (s : State) (k b : Nat) : Prop where
  service : s.mode = .run ∨ s.mode = .halted
  configured : (s.bay b).state ≠ .unconfigured
  clear : (s.bay b).occupied = false
  quiet : s.runwayQuiet
  bay : b < 3
  four : k < 4
  fitted : k ≤ s.straps
  loaded : (s.crane k).wholeTong = .closedLoaded
  unlisted : k ∉ (s.bay b).breach
  overlaps : max (s.crane k).grant.lo (s.extent b).lo < min (s.crane k).grant.hi (s.extent b).hi
  beds : ∀ j ≤ s.straps, j < 4 → s.workBed j ≠ some b
  others : ∀ j ≤ s.straps, j < 4 → j ≠ k → (s.crane j).wholeTong ≠ .closedLoaded
  takes : s.journalTakes 1 = true

theorem State.closed_areaTurned (hconfigured : (s.bay b).state ≠ .unconfigured) : (s.areaTurned b true).closed b = true := by
  have hbay := s.bay_areaTurned b b true
  rw [if_pos rfl] at hbay
  unfold State.closed
  rw [hbay]
  exact (Bool.and_true _).trans (bne_iff_ne.mpr hconfigured)

theorem State.extent_areaTurned (s : State) (b : Nat) (low : Bool) : (s.areaTurned b low).extent b = s.extent b := by
  have hrunway : (s.areaTurned b low).runway = s.runway := s.of_areaTurned b low State.runway (fun _ _ _ => rfl) rfl
  unfold State.extent State.runSpan
  rw [hrunway, State.bay_areaTurned, if_pos rfl]

theorem AreaCloses.due (h : AreaCloses s k b) : ClosureDue (s.areaTurned b true) k b where
  closed := State.closed_areaTurned h.configured
  loaded := (Crane.loaded_iff _).mpr h.loaded
  overlaps := by
    rw [State.extent_areaTurned]
    exact decide_eq_true h.overlaps
  unlisted := by
    rw [State.bay_areaTurned, if_pos rfl]
    exact Bool.eq_false_iff.mpr fun hin => h.unlisted (List.contains_iff_mem.mp hin)

/-- What a closing leaves behind, from what the closure test does: its cranes, its links and its list, on the bays `M` has. -/
theorem AreaCloses.handled {b : Fin 3} {T : State} (h : AreaCloses s k b)
    (htest : (s.areaTurned b true).closureTest k b = T.ported p) (hfleet : Fleet M T l)
    (hM : M = { s.areaTurned b true with bays := M.bays, requests := M.requests, touched := M.touched })
    (hothers : ∀ j, j ≠ k → T.crane j = s.crane j) (hqueue : (T.crane k).queue = (s.crane k).queue)
    (heffect : Effect s (T.ported p) es notices (fun _ => false)) (hlen : es.length ≤ 1) :
    ∃ t, execAreaChange b true s = .next t ∧ (∀ d, t.bay d = if d = b then { M.bay b with bedHold := true } else M.bay d) ∧
      (∀ j, t.crane j = T.crane j) ∧ t.cranes = T.cranes ∧ t.requests = M.requests ∧ t.sent = l ∧ Transmitted s t ∧
      t.outgoing = T.outgoing ∧
      t.records = State.records
        { s with
          sent := t.sent, outgoing := t.outgoing, areaLow := (s.areaSet b true).areaLow, bays := t.bays, cranes := t.cranes
          requests := t.requests, writeCount := t.writeCount } ∧
      JournaledInOrder s t es ∧ t.flags = s.flags ||| notices ∧ OnlyWrites s t (s.journalPlace 1) := by
  obtain ⟨A, hA⟩ : ∃ A, A = s.areaTurned b true := ⟨_, rfl⟩
  have hAcrane (j : Nat) : A.crane j = s.crane j := hA ▸ s.crane_areaTurned b j true
  have hAof {α : Type} (f : State → α) (hf : ∀ (x : State) bays touched, f { x with bays := bays, touched := touched } = f x)
      (hset : f (s.begin.areaSet b true) = f s) : f A = f s := hA ▸ s.of_areaTurned b true f hf hset
  have hclosed := State.areaInput_of_changed (low := true) h.configured (by rw [h.clear]; exact Bool.false_ne_true)
  rw [← hA] at htest hM hclosed
  have hTof {α : Type} (f : State → α)
      (hf : ∀ (x : State) bays requests cranes sent outgoing touched,
        f { x with
          bays := bays, requests := requests, cranes := cranes, sent := sent, outgoing := outgoing, touched := touched } = f x) :
      f T = f A := by
    rw [hfleet.of_state f fun cranes sent outgoing touched => hf M M.bays M.requests cranes sent outgoing touched, hM]
    exact hf A M.bays M.requests A.cranes A.sent A.outgoing M.touched
  have hservice : s.inService = true := State.inService_iff.mpr h.service
  have hclose : A.closeExtent b = T.ported p := by
    refine State.closeExtent_of_one (k := k) ?_ h.four (fun j hj hfour hne => ?_) (fun j hj => ?_) htest
    · exact (hAof State.straps (fun _ _ _ => rfl) rfl) ▸ h.fitted
    · rw [hAcrane]
      exact h.others j ((hAof State.straps (fun _ _ _ => rfl) rfl) ▸ hj) hfour hne
    · rw [State.crane_ported, hothers j hj, hAcrane]
  have hbeds : ∀ j ≤ (T.ported p).straps, j < 4 → (T.ported p).workBed j ≠ some b.val := fun j hj hfour => by
    have hstraps : T.straps = s.straps := (hTof State.straps fun _ _ _ _ _ _ _ => rfl).trans (hAof State.straps (fun _ _ _ => rfl) rfl)
    have hmoves : T.moves = s.moves := (hTof State.moves fun _ _ _ _ _ _ _ => rfl).trans (hAof State.moves (fun _ _ _ => rfl) rfl)
    have hsame : (T.crane j).queue = (s.crane j).queue := by
      by_cases hjk : j = k
      · rw [hjk, hqueue]
      · rw [hothers j hjk]
    rw [State.workBed_congr (s := s) (t := T.ported p) hsame hmoves]
    exact h.beds j (hstraps ▸ hj) hfour
  obtain ⟨U, hU⟩ : ∃ U, U = T.modBay b fun x => { x with bedHold := true } := ⟨_, rfl⟩
  have hhandled : State.areaInput b true s.begin = U.ported p := by
    rw [hclosed, if_pos rfl, if_pos hservice, hclose, State.setBedHold_of_clear hbeds, State.modBay_ported, hU]
  have hUonly : BaysOnly T U := hU ▸ State.modBay_baysOnly ..
  have hUof {α : Type} (f : State → α) (hf : ∀ (x : State) bays touched, f { x with bays := bays, touched := touched } = f x) :
      f U = f T := hUonly.of_state f hf
  have hholding : U.holding = s.holding := (hUof State.holding fun _ _ _ => rfl).trans
    ((hTof State.holding fun _ _ _ _ _ _ _ => rfl).trans (hAof State.holding (fun _ _ _ => rfl) rfl))
  obtain ⟨t, hnext, hrecords, hjournal, hflags, honly, -⟩ := handle_ported (g := State.areaInput b true) hhandled
    (heffect.records_changed (hUof State.mode fun _ _ _ => rfl)) hlen hholding (State.journalTakes_iff.mp h.takes).1
  have hof {α : Type} (f : State → α) (hf : ∀ x : State, f x.records = f x)
      (hcount : ∀ x m, f { x with writeCount := m } = f x) : f t = f U := by
    rw [← hf t, hrecords, hf, hcount]
  have hsent : t.sent = T.sent := (hof State.sent (fun _ => rfl) fun _ _ => rfl).trans (hUof State.sent fun _ _ _ => rfl)
  have hout : t.outgoing = T.outgoing :=
    (hof State.outgoing (fun _ => rfl) fun _ _ => rfl).trans (hUof State.outgoing fun _ _ _ => rfl)
  have hcranes : t.cranes = T.cranes := (hof State.cranes (fun _ => rfl) fun _ _ => rfl).trans (hUof State.cranes fun _ _ _ => rfl)
  have hrequests : t.requests = T.requests :=
    (hof State.requests (fun _ => rfl) fun _ _ => rfl).trans (hUof State.requests fun _ _ _ => rfl)
  have hMoutgoing : M.outgoing = s.outgoing := by
    rw [hM]
    exact hAof State.outgoing (fun _ _ _ => rfl) rfl
  refine ⟨t, hnext, fun d => ?_, fun j => ?_, hcranes, hrequests.trans hfleet.requests, hsent.trans hfleet.sent, fun c => ?_, hout,
    ?_, hjournal, hflags, ?_⟩
  · have hTbay (q : Nat) : T.bay q = M.bay q := hfleet.of_state (fun x => x.bay q) fun _ _ _ _ => rfl
    rw [hof (fun x => x.bay d) (fun _ => rfl) fun _ _ => rfl, hU, State.bay_modBay, hTbay, hTbay]
  · exact (hof (fun x => x.crane j) (fun _ => rfl) fun _ _ => rfl).trans (hUof (fun x => x.crane j) fun _ _ _ => rfl)
  · have htransmitted := hfleet.transmitted c
    unfold State.outgoingTo at htransmitted ⊢
    rw [hout, hsent, htransmitted, hMoutgoing]
  · rw [hrecords, hsent, hout, hcranes, hrequests, hof State.bays (fun _ => rfl) fun _ _ => rfl]
    have hturned : BaysOnly (s.begin.areaSet b true) A := hA ▸ s.areaTurned_baysOnly b true
    have hrest := hfleet.rest
    unfold BaysOnly at hUonly hturned
    rw [hUonly, hrest, hM, hturned]
    rfl
  · exact fun a hplain hplace => honly a hplain hplace

/-! ## The three outcomes of the test -/

theorem State.breachEntry_congr (hused : (t.crane k).positionUsed = (s.crane k).positionUsed) (hcoils : t.coils = s.coils) :
    t.breachEntry k b = s.breachEntry k b := by
  have hcoil : t.coil? = s.coil? := funext fun r => by rw [State.coil?, State.coil?, hcoils]
  unfold State.breachEntry State.recordAt
  rw [hused, hcoils, hcoil]

/-- The closed bay, and the closed bay with the crane listed. -/
def Bay.closing (x : Bay) : Bay := { x with occupied := true, bedHold := true }
def Bay.listing (x : Bay) (k : Nat) : Bay := { x.closing with breach := x.breach ++ [k] }

theorem State.ported_areaTurned (s : State) (b : Nat) (low : Bool) : (s.areaTurned b low).ported s.port = s.areaTurned b low := by
  have hport : (s.areaTurned b low).port = s.port := s.of_areaTurned b low State.port (fun _ _ _ => rfl) rfl
  rw [← hport, State.ported_port]

/-- The closing so far has written nothing. -/
theorem AreaCloses.effect (h : AreaCloses s k b) :
    Effect s ((s.areaTurned b true).ported s.port) [] 0 (fun _ => false) :=
  (Effect.start h.takes).records_changed (s.of_areaTurned b true State.mode (fun _ _ _ => rfl) rfl)

theorem State.bay_listed (s : State) (k b d : Nat) :
    (s.listed k b).bay d = if d = b then { s.bay b with breach := (s.bay b).breach ++ [k] } else s.bay d := State.bay_modBay ..

theorem State.crane_listed (s : State) (k b c : Nat) : (s.listed k b).crane c = s.crane c := rfl

theorem State.listed_frame (s : State) (k b : Nat) :
    s.listed k b =
      { s with bays := (s.listed k b).bays, requests := (s.listed k b).requests, touched := (s.listed k b).touched } := rfl

/-- The bays once the crane is listed and the bed held. -/
theorem State.bay_listed_areaTurned (s : State) (k b d : Nat) :
    (if d = b then { ((s.areaTurned b true).listed k b).bay b with bedHold := true }
      else ((s.areaTurned b true).listed k b).bay d) = if d = b then (s.bay b).listing k else s.bay d := by
  rw [State.bay_listed, State.bay_listed, if_pos rfl, State.bay_areaTurned, State.bay_areaTurned, if_pos rfl]
  split_ifs <;> rfl

/-- The bays once the bed is held. -/
theorem State.bay_closing_areaTurned (s : State) (b d : Nat) :
    (if d = b then { (s.areaTurned b true).bay b with bedHold := true } else (s.areaTurned b true).bay d) =
      if d = b then (s.bay b).closing else s.bay d := by
  rw [State.bay_areaTurned, State.bay_areaTurned, if_pos rfl]
  split_ifs <;> rfl

theorem State.notices_listed (flags : BitVec 10) :
    flags ||| (0 ||| Notice.bay.mask ||| Notice.entry.mask) = flags ||| Notice.bay.mask ||| Notice.entry.mask := by
  rw [show (0 ||| Notice.bay.mask ||| Notice.entry.mask : BitVec 10) = Notice.bay.mask ||| Notice.entry.mask by decide,
    BitVec.or_assoc]

/-- The closing so far has changed no crane and sent nothing. -/
theorem State.areaTurned_fleet (s : State) (b : Nat) (low : Bool) : Fleet (s.areaTurned b low) (s.areaTurned b low) [] :=
  .refl ((s.areaTurned_baysOnly b low).of_state State.sent fun _ _ _ => rfl)

theorem State.stopping_areaTurned (s : State) (b : Nat) (low : Bool) : (s.areaTurned b low).stopping k = s.stopping k := by
  have hrunway : (s.areaTurned b low).runway = s.runway := s.of_areaTurned b low State.runway (fun _ _ _ => rfl) rfl
  unfold State.stopping State.braking
  rw [hrunway, State.crane_areaTurned]

/-- The crane in the extent, or with its grant held widened, is listed. -/
theorem AreaCloses.inside {b : Fin 3} (h : AreaCloses s k b)
    (hin : (s.crane k).heldWide = true ∨ (s.crane k).positionUsed.touches (s.extent b) = true) :
    ∃ t, execAreaChange b true s = .next t ∧ t.bay b = (s.bay b).listing k ∧ (∀ d, d ≠ b.val → t.bay d = s.bay d) ∧
      t.records = State.records
        { s with sent := [], areaLow := (s.areaSet b true).areaLow, bays := t.bays, writeCount := t.writeCount } ∧
      JournaledInOrder s t [s.breachEntry k b] ∧ t.flags = s.flags ||| Notice.bay.mask ||| Notice.entry.mask ∧
      OnlyWrites s t (s.journalPlace 1) := by
  obtain ⟨q, hlist, heffect⟩ := h.effect.listBreach (n := 0) h.takes k b
  have htest := h.due.inside (by
    rw [State.extent_areaTurned]
    exact hin)
  have hentry : (s.areaTurned b true).breachEntry k b = s.breachEntry k b :=
    State.breachEntry_congr rfl (s.of_areaTurned b true State.coils (fun _ _ _ => rfl) rfl)
  rw [State.ported_areaTurned] at hlist
  rw [hentry] at heffect
  obtain ⟨t, hnext, hbays, -, hcranes, hrequests, hsent, -, hout, hrecords, hjournal, hflags, honly⟩ :=
    h.handled (htest.trans hlist) ((s.areaTurned_fleet b true).listed k b) (State.listed_frame ..)
      (fun j _ => (State.crane_listed ..).trans (s.crane_areaTurned b j true))
      (congrArg Crane.queue ((State.crane_listed ..).trans (s.crane_areaTurned b k true))) heffect (le_refl _)
  have hbays' (d : Nat) := (hbays d).trans (s.bay_listed_areaTurned k b d)
  have hkept {α : Type} (f : State → α) (hf : ∀ (x : State) bays touched, f { x with bays := bays, touched := touched } = f x)
      (hset : f (s.begin.areaSet b true) = f s) : f ((s.areaTurned b true).listed k b) = f s :=
    ((State.modBay_baysOnly ..).of_state f hf).trans (s.of_areaTurned b true f hf hset)
  refine ⟨t, hnext, (hbays' b).trans (if_pos rfl), fun d hd => (hbays' d).trans (if_neg hd), ?_, hjournal,
    hflags.trans (State.notices_listed _), honly⟩
  rw [hrecords, hsent, hout, hcranes, hrequests, hkept State.outgoing (fun _ _ _ => rfl) rfl,
    hkept State.cranes (fun _ _ _ => rfl) rfl, hkept State.requests (fun _ _ _ => rfl) rfl]

/-- What follows a closing that cuts the crane's grant. -/
structure AreaOutcome (s t : State) (k b : Nat) (x : Bay) (v : Crane) (l : List (Nat × StepTelegram)) (es : List JournalEntry)
    (flags : BitVec 10) : Prop where
  bay : t.bay b = x
  bays : ∀ d, d ≠ b → t.bay d = s.bay d
  crane : t.crane k = v
  cranes : ∀ j, j ≠ k → t.crane j = s.crane j
  requests : t.requests = (s.crane k).remainder k
  sent : t.sent = l
  transmitted : Transmitted s t
  records : t.records = State.records
    { s with
      sent := t.sent, outgoing := t.outgoing, areaLow := (s.areaSet b true).areaLow, bays := t.bays, cranes := t.cranes
      requests := t.requests, writeCount := t.writeCount }
  journal : JournaledInOrder s t es
  flags : t.flags = flags
  others : OnlyWrites s t (s.journalPlace 1)

/-- The crane stands to one side of the extent, its grant not held widened, and the grant is cut at `x`. -/
structure CutsAt (s : State) (k b : Nat) (west : Bool) (x : Int) (g : Span) : Prop where
  narrow : (s.crane k).heldWide = false
  side : if west = true then (s.crane k).positionUsed.hi < (s.extent b).lo else (s.extent b).hi < (s.crane k).positionUsed.lo
  cut : g = if west = true then { (s.crane k).grant with hi := x } else { (s.crane k).grant with lo := x }
  ordered : g.lo ≤ g.hi
  lo : (s.crane k).grant.lo ≤ g.lo
  hi : g.hi ≤ (s.crane k).grant.hi
  leg : (s.crane k).leg = none ∨ ∃ y, (s.crane k).leg = some y ∧ LegCut s k b (s.crane k) g y west

theorem CutsAt.standsOff {west : Bool} {x : Int} (h : AreaCloses s k b) (hcut : CutsAt s k b west x g) :
    StandsOff (s.areaTurned b true) k b west := by
  have hside := hcut.side
  have hextent := s.extent_areaTurned b true
  have hused := (s.crane k).positionUsed_ordered
  have hover := h.overlaps
  refine ⟨hcut.narrow, ?_, ?_⟩
  · rw [hextent, State.crane_areaTurned]
    refine decide_eq_false ?_
    cases west
    · rw [if_neg Bool.false_ne_true] at hside
      omega
    · rw [if_pos rfl] at hside
      omega
  · rw [hextent, State.crane_areaTurned]
    cases west
    · rw [if_neg Bool.false_ne_true] at hside
      refine decide_eq_false ?_
      omega
    · rw [if_pos rfl] at hside
      exact decide_eq_true hside

theorem LegCut.congr {v' : Crane} {y : Leg} {west : Bool} (h : LegCut s k b v g y west) (hgrant : v'.grant = v.grant)
    (hextent : t.extent b = s.extent b) (hrunway : t.runway = s.runway)
    (hfree : ∀ span, t.blockers k span = s.blockers k span) : LegCut t k b v' g y west where
  beyond := by
    rw [hgrant]
    exact h.beyond
  ordered := h.ordered
  further := by
    rw [hextent, hrunway]
    exact h.further
  free := by
    rw [hfree, State.legSpan, hrunway]
    exact h.free

/-- The stopping extent ends short of the closed extent: the grant is cut at the near edge. -/
theorem AreaCloses.short {b : Fin 3} {west : Bool} (h : AreaCloses s k b)
    (hcut : CutsAt s k b west (if west = true then (s.extent b).lo else (s.extent b).hi) g)
    (hreaches : (s.stopping k).overlaps (s.extent b) = false) :
    ∃ t, execAreaChange b true s = .next t ∧
      AreaOutcome s t k b (s.bay b).closing { s.crane k with grant := g } ((s.crane k).limits k g) [] s.flags := by
  have hextent := s.extent_areaTurned b true
  have hrunway : (s.areaTurned b true).runway = s.runway := s.of_areaTurned b true State.runway (fun _ _ _ => rfl) rfl
  have htest := h.due.short (hcut.standsOff h) (by rw [State.stopping_areaTurned, hextent]; exact hreaches)
  rw [hextent, State.crane_areaTurned, Span.cutOff_of_within hcut.cut hcut.ordered hcut.lo hcut.hi] at htest
  have hleg : (s.crane k).leg = none ∨
      ∃ y, (s.crane k).leg = some y ∧ LegCut (s.areaTurned b true) k b (s.crane k) g y west :=
    hcut.leg.imp_right fun ⟨y, hy, hlegcut⟩ => ⟨y, hy, hlegcut.congr rfl hextent hrunway
      (State.blockers_congr (s.of_areaTurned b true State.straps (fun _ _ _ => rfl) rfl) hrunway rfl fun _ _ => rfl)⟩
  obtain ⟨T, hcutGrant, hfleet, hcrane, hothers⟩ := (s.areaTurned_fleet b true).cutGrant (p := s.port)
    (s.crane_areaTurned b k true) (h.quiet.areaTurned b true) h.bay ((Crane.loaded_iff _).mpr h.loaded)
    (State.closed_areaTurned h.configured) hleg
  rw [State.ported_areaTurned] at hcutGrant
  obtain ⟨t, hnext, hbays, hcranes, -, hrequests, hsent, htransmitted, -, hrecords, hjournal, hflags, honly⟩ :=
    h.handled (htest.trans hcutGrant) hfleet rfl hothers (by rw [hcrane])
      (h.effect.records_changed (hfleet.of_state State.mode fun _ _ _ _ => rfl)) (Nat.zero_le _)
  have hbays' (d : Nat) := (hbays d).trans (s.bay_closing_areaTurned b d)
  exact ⟨t, hnext, (hbays' b).trans (if_pos rfl), fun d hd => (hbays' d).trans (if_neg hd), (hcranes k).trans hcrane,
    fun j hj => (hcranes j).trans (hothers j hj), hrequests, hsent, htransmitted, hrecords, hjournal,
    hflags.trans (BitVec.or_zero), honly⟩

theorem State.closed_listed (s : State) (k b : Nat) : (s.listed k b).closed b = s.closed b := by
  unfold State.closed
  rw [State.bay_listed, if_pos rfl]

theorem State.extent_listed (s : State) (k b : Nat) : (s.listed k b).extent b = s.extent b := by
  have hrunway : (s.listed k b).runway = s.runway := rfl
  unfold State.extent State.runSpan
  rw [hrunway, State.bay_listed, if_pos rfl]

/-- The stopping extent reaches into the closed extent: the crane is stopped and listed, and the grant is cut at the far end of the
stopping extent. -/
theorem AreaCloses.reaching {b : Fin 3} {west : Bool} (h : AreaCloses s k b)
    (hcut : CutsAt s k b west (if west = true then (s.stopping k).hi else (s.stopping k).lo) g)
    (hreaches : (s.stopping k).overlaps (s.extent b) = true) :
    ∃ t, execAreaChange b true s = .next t ∧
      AreaOutcome s t k b ((s.bay b).listing k) { (s.crane k).zoneStopped with grant := g }
        [(k, .stop (s.crane k).currentNumber true)] [s.breachEntry k b]
        (s.flags ||| Notice.bay.mask ||| Notice.entry.mask) := by
  obtain ⟨A, hA⟩ : ∃ A, A = s.areaTurned b true := ⟨_, rfl⟩
  have hAof {α : Type} (f : State → α) (hf : ∀ (x : State) bays touched, f { x with bays := bays, touched := touched } = f x)
      (hset : f (s.begin.areaSet b true) = f s) : f A = f s := hA ▸ s.of_areaTurned b true f hf hset
  have hAcrane (j : Nat) : A.crane j = s.crane j := hA ▸ s.crane_areaTurned b j true
  have htest := h.due.reaching (hcut.standsOff h) (by rw [State.stopping_areaTurned, State.extent_areaTurned]; exact hreaches)
  rw [State.stopping_areaTurned, State.crane_areaTurned, Span.cutOff_of_within hcut.cut hcut.ordered hcut.lo hcut.hi,
    ← hA] at htest
  have hported := s.ported_areaTurned b true
  have heffect := h.effect
  have hfleetA := s.areaTurned_fleet b true
  have hextent := s.extent_areaTurned b true
  have hclosedA := State.closed_areaTurned h.configured
  rw [← hA] at hported heffect hfleetA hextent hclosedA
  obtain ⟨R, hstop, hfleet, hcrane, hothers⟩ := hfleetA.zoneStop (p := s.port) (hAcrane k)
  rw [hported] at hstop
  have hRof {α : Type} (f : State → α)
      (hf : ∀ (x : State) cranes sent outgoing touched,
        f { x with cranes := cranes, sent := sent, outgoing := outgoing, touched := touched } = f x) : f R = f A :=
    hfleet.of_state f fun cranes sent outgoing touched => hf A cranes sent outgoing touched
  obtain ⟨q, hlist, heffect'⟩ := (heffect.records_changed (R' := R) (hRof State.mode fun _ _ _ _ _ => rfl)).listBreach
    (n := 0) h.takes k b
  have hentry : R.breachEntry k b = s.breachEntry k b := by
    refine State.breachEntry_congr ?_ ?_
    · rw [hcrane]
      rfl
    · exact (hRof State.coils fun _ _ _ _ _ => rfl).trans (hAof State.coils (fun _ _ _ => rfl) rfl)
  rw [hentry] at heffect'
  have hfleetL := hfleet.listed k b
  obtain ⟨S, hS⟩ : ∃ S, S = R.listed k b := ⟨_, rfl⟩
  have hScrane (j : Nat) : S.crane j = R.crane j := hS ▸ R.crane_listed k b j
  have hSrunway : S.runway = s.runway := by
    rw [hS]
    exact (hRof State.runway fun _ _ _ _ _ => rfl).trans (hAof State.runway (fun _ _ _ => rfl) rfl)
  have hSstraps : S.straps = s.straps := by
    rw [hS]
    exact (hRof State.straps fun _ _ _ _ _ => rfl).trans (hAof State.straps (fun _ _ _ => rfl) rfl)
  have hSextent : S.extent b = s.extent b := by
    rw [hS, State.extent_listed, hRof (fun x => x.extent b) fun _ _ _ _ _ => rfl, hextent]
  have hSclosed : S.closed b = true := by
    rw [hS, State.closed_listed, hRof (fun x => x.closed b) fun _ _ _ _ _ => rfl, hclosedA]
  have hSself : S.crane k = (s.crane k).zoneStopped := (hScrane k).trans hcrane
  have hSothers (j : Nat) (hj : j ≠ k) : S.crane j = s.crane j := (hScrane j).trans ((hothers j hj).trans (hAcrane j))
  have hSquiet : S.runwayQuiet := by
    refine h.quiet.congr ?_ ?_ fun j => ?_
    · rw [hS]
      exact (hRof State.requests fun _ _ _ _ _ => rfl).trans (hAof State.requests (fun _ _ _ => rfl) rfl)
    · rw [hS]
      exact (hRof State.stalled fun _ _ _ _ _ => rfl).trans (hAof State.stalled (fun _ _ _ => rfl) rfl)
    · by_cases hj : j = k
      · rw [hj, hSself]
        exact ⟨rfl, rfl⟩
      · rw [hSothers j hj]
        exact ⟨rfl, rfl⟩
  have hleg : (s.crane k).zoneStopped.leg = none ∨
      ∃ y, (s.crane k).zoneStopped.leg = some y ∧ LegCut S k b (s.crane k).zoneStopped g y west :=
    hcut.leg.imp_right fun ⟨y, hy, hlegcut⟩ => ⟨y, hy, hlegcut.congr rfl hSextent hSrunway
      (State.blockers_congr hSstraps hSrunway (by rw [hSself]; rfl) hSothers)⟩
  rw [← hS] at hfleetL hlist heffect'
  obtain ⟨T, hcutGrant, hfleetT, hTcrane, hTothers⟩ := hfleetL.cutGrant (p := q) hSself hSquiet h.bay
    (by exact (Crane.loaded_iff _).mpr h.loaded) hSclosed hleg
  rw [hstop, hlist, hcutGrant] at htest
  have hTkept (j : Nat) (hj : j ≠ k) : T.crane j = s.crane j := (hTothers j hj).trans (hSothers j hj)
  have hTmode : T.mode = S.mode := by
    rw [hfleetT.of_state State.mode fun _ _ _ _ => rfl, hS]
    exact (hRof State.mode fun _ _ _ _ _ => rfl).symm
  rw [hA] at htest hfleetT
  obtain ⟨t, hnext, hbays, hcranes, -, hrequests, hsent, htransmitted, -, hrecords, hjournal, hflags, honly⟩ :=
    h.handled htest hfleetT rfl hTkept (by rw [hTcrane]; rfl) (heffect'.records_changed hTmode) (le_refl _)
  have hbays' (d : Nat) := (hbays d).trans (s.bay_listed_areaTurned k b d)
  have hsent' : t.sent = [(k, .stop (s.crane k).currentNumber true)] := by
    rw [hsent, Crane.limits, Crane.gotoInProgress_zoneStopped, if_neg Bool.false_ne_true]
    rfl
  exact ⟨t, hnext, (hbays' b).trans (if_pos rfl), fun d hd => (hbays' d).trans (if_neg hd), (hcranes k).trans hTcrane,
    fun j hj => (hcranes j).trans (hTkept j hj), hrequests, hsent', htransmitted, hrecords, hjournal,
    hflags.trans (State.notices_listed _), honly⟩

/-- The rest of a leg in the words of the obligation is a cut leg. -/
theorem LegCut.of_sides {y : Leg} {west : Bool} (hordered : g.lo ≤ g.hi)
    (hnear : if west = true then (s.extent b).lo ≤ g.hi else g.lo ≤ (s.extent b).hi)
    (hsides : if west = true then
        g.hi < (s.extent b).hi ∧ g.hi < v.grant.hi ∧ g.hi < y.targetX + (s.runway.margin : Int)
      else (s.extent b).lo < g.lo ∧ v.grant.lo < g.lo ∧ y.targetX - (s.runway.margin : Int) < g.lo)
    (hfree : s.blockers k (s.legSpan g y.targetX) = []) : LegCut s k b v g y west := by
  cases west
  · obtain ⟨hextent, hgrant, htarget⟩ := hsides
    exact ⟨.inr hgrant, hordered, ⟨hnear, hextent, htarget⟩, hfree⟩
  · obtain ⟨hextent, hgrant, htarget⟩ := hsides
    exact ⟨.inl hgrant, hordered, ⟨hnear, hextent, htarget⟩, hfree⟩

theorem State.breachEntry_eq (s : State) (k b : Nat) :
    s.breachEntry k b =
      { kind := 6, subject := b
        coil := match (s.recordAt (.hook k)).bind s.coil? with
          | some v => v.id
          | none => 0
        detail := [byte k, 0] ++ leBytes 2 (s.crane k).positionUsed.lo.toNat ++ leBytes 2 (s.crane k).positionUsed.hi.toNat } := by
  unfold State.breachEntry
  cases (s.recordAt (.hook k)).bind s.coil? <;> rfl

/-- Settles O44: an input that meets no crane; and the three outcomes of the closure test of one loaded crane. -/
theorem areaChangeFollowsTheInput : Obligations.AreaChangeFollowsTheInput := by
  refine ⟨fun b low s => ⟨fun hsame => ?_, fun hconfigured hchanged hquiet hcranes => ?_⟩, ?_⟩
  · exact execAreaChange_of_same hsame
  · exact execAreaChange_of_clear hconfigured hchanged hquiet hcranes
  intro b k s levels c e u m coil entry notices closing listing hmode hconfigured hclear hquiet hfit hload hunlisted hover hbeds
    hothers htakes
  have hcloses : AreaCloses s k b := ⟨hmode, hconfigured, hclear, hquiet, b.isLt, k.isLt, hfit, hload, hunlisted, hover, hbeds,
    hothers, htakes⟩
  have hentry : s.breachEntry k b = entry := s.breachEntry_eq k b
  refine ⟨fun hin => ?_, ?_⟩
  · obtain ⟨t, hnext, hbay, hbays, hrecords, hjournal, hflags, honly⟩ := hcloses.inside (hin.imp_right decide_eq_true)
    exact ⟨t, hnext, hbay, hbays, hrecords, hentry ▸ hjournal, hflags, honly⟩
  intro west stop reaches g hheld hside hordered hlo hhi hleg
  have hcuts (x : Int) (hx : g = if west = true then { c.grant with hi := x } else { c.grant with lo := x })
      (hnear : if west = true then e.lo ≤ x else x ≤ e.hi) : CutsAt s k b west x g := by
    refine ⟨hheld, hside, hx, hordered, hlo, hhi, hleg.imp_right fun ⟨y, hy, hsides, hfree⟩ =>
      ⟨y, hy, .of_sides hordered ?_ hsides hfree⟩⟩
    rw [hx]
    cases west <;> exact hnear
  by_cases hreaches : reaches
  · have hcut : CutsAt s k b west (if west = true then stop.hi else stop.lo) g := by
      refine hcuts _ ?_ ?_
      · simp only [g, if_pos hreaches]
        cases west <;> rfl
      · obtain ⟨hmeet, hmeet'⟩ : stop.lo < e.hi ∧ e.lo < stop.hi := by omega
        cases west
        · exact hmeet.le
        · exact hmeet'.le
    obtain ⟨t, hnext, h⟩ := hcloses.reaching hcut (decide_eq_true hreaches)
    refine ⟨t, hnext, ?_, h.bays, ?_, h.cranes, h.requests, ?_, h.transmitted, h.records, ?_, ?_, h.others⟩
    · rw [if_pos hreaches]
      exact h.bay
    · rw [if_congr (and_iff_right hreaches) rfl rfl]
      exact h.crane
    · rw [if_pos hreaches]
      exact h.sent
    · rw [if_pos hreaches, ← hentry]
      exact h.journal
    · rw [if_pos hreaches]
      exact h.flags
  · have hcut : CutsAt s k b west (if west = true then e.lo else e.hi) g := by
      refine hcuts _ ?_ ?_
      · simp only [g, if_neg hreaches]
        cases west <;> rfl
      · cases west
        · exact le_refl _
        · exact le_refl _
    obtain ⟨t, hnext, h⟩ := hcloses.short hcut (decide_eq_false hreaches)
    refine ⟨t, hnext, ?_, h.bays, ?_, h.cranes, h.requests, ?_, h.transmitted, h.records, ?_, ?_, h.others⟩
    · rw [if_neg hreaches]
      exact h.bay
    · rw [if_neg fun hgives => hreaches hgives.1]
      exact h.crane
    · rw [if_neg hreaches]
      exact h.sent
    · rw [if_neg hreaches]
      exact h.journal
    · rw [if_neg hreaches]
      exact h.flags

end Sys2Proof.Machine
end
